-- ==== Sys2Proof/Word.lean ====
section
/-! DEFINITION. The words the manual counts in (R7, R12, R16): bytes, 32-bit words, 64-byte blocks, and their plainest arithmetic. -/

namespace Sys2Proof

/-- One byte (R12). -/
abbrev Byte := BitVec 8

/-- One 32-bit register or header word (R16, R85). -/
abbrev Word := BitVec 32

/-- One 64-byte block (R7). Byte `i` of the block is bits `[8i+7 : 8i]`, little-endian (R12). -/
abbrev Block := BitVec 512

/-- The largest 32-bit count; the counters of the register frames saturate there. -/
def max32 : Nat := 0xFFFFFFFF

/-- The largest 16-bit count. -/
def max16 : Nat := 0xFFFF

/-- The largest 64-bit count (R260, R349). -/
def max64 : Nat := 0xFFFFFFFFFFFFFFFF

/-- Add `k` to a count that saturates at `m`. -/
def satAdd (m n k : Nat) : Nat := min m (n + k)

/-- Add one to a 32-bit saturating count. -/
def bump32 (n : Nat) : Nat := satAdd max32 n 1

/-- Add one to a 16-bit saturating count. -/
def bump16 (n : Nat) : Nat := satAdd max16 n 1

/-- Add one to a 64-bit saturating count. -/
def bump64 (n : Nat) : Nat := satAdd max64 n 1

/-- Bits `[lo + w - 1 : lo]` of a natural number (R11). -/
def natBits (v lo w : Nat) : Nat := (v >>> lo) % 2 ^ w

/-- Bit `i` of a natural number. -/
def natBit (v i : Nat) : Bool := (v >>> i) % 2 == 1

/-- A flag as a bit. -/
def flagNat (b : Bool) : Nat := if b then 1 else 0

/-- The quotient rounded up. -/
def ceilDiv (a b : Nat) : Nat := (a + b - 1) / b

/-- The little-endian number that a list of bytes spells (R12). -/
def leNat : List Byte → Nat
  | [] => 0
  | b :: bs => b.toNat + 256 * leNat bs

/-- The first `n` little-endian bytes of a number (R12). -/
def leBytes : Nat → Nat → List Byte
  | 0, _ => []
  | n + 1, v => BitVec.ofNat 8 v :: leBytes n (v / 256)

/-- The list cut or padded with zero bytes to length `n`. -/
def padBytes : Nat → List Byte → List Byte
  | 0, _ => []
  | n + 1, [] => 0 :: padBytes n []
  | n + 1, b :: bs => b :: padBytes n bs

/-- Byte `i` of a byte list, zero outside it. -/
def byteAt (l : List Byte) (i : Nat) : Byte := l.getD i 0

/-- `len` bytes from offset `off`, zero outside the list. -/
def byteSlice (l : List Byte) (off len : Nat) : List Byte := padBytes len (l.drop off)

/-- The block that 64 bytes spell (R12). -/
def blockOfBytes (l : List Byte) : Block := BitVec.ofNat 512 (leNat (l.take 64))

/-- The 64 bytes of a block, lowest address first (R12). -/
def blockBytes (b : Block) : List Byte := leBytes 64 b.toNat

end Sys2Proof
end

