-- ==== Sys2Proof/Syntax.lean ====
section
/-! DEFINITION. The commands the block takes: one constructor per row of spec/opcode_table.json, with the operands
that the row's event carries, and the small types of those operands. -/

namespace Sys2Proof

/-- A host port, 0-31 (R49). -/
abbrev PortIx := Fin 32
/-- A decanter slice or data channel, 0-63 (R215). -/
abbrev SliceIx := Fin 64
/-- A channel controller: data channels 0-63, reserve channels 64-71 (R8, R24). -/
abbrev ChcIx := Fin 72
/-- A pseudo-channel of a channel (R7). -/
abbrev PcIx := Fin 2
/-- A press unit (R33). -/
abbrev PressIx := Fin 16
/-- A bank of a pseudo-channel (R24). -/
abbrev BankIx := Fin 16

/-- The fields of the 16-byte request header but for OP, which the command itself names (R91). -/
structure ReqHdr where
  size     : BitVec 3
  tag      : BitVec 10
  stream   : BitVec 11
  priv     : BitVec 2
  seq      : BitVec 16
  subop    : BitVec 8
  prompt   : Bool
  ordered  : Bool
  noalloc  : Bool
  poisonOk : Bool
  e2e      : Bool
  rsvd1    : BitVec 3
  addr     : BitVec 31
  rsvd2    : BitVec 1
  boff     : BitVec 6
  rsvd3    : BitVec 22
  hver     : BitVec 4
  deriving DecidableEq, Repr

/-- The opcodes of R100 that name a request. -/
inductive Op where
  | rd | wr | wrMasked | atom | accum | fill | copy | rangeCrc | jobStatus | jobCancel | fence | flush
  | mgmtCmd | nopCredit
  | reserved (code : BitVec 6)   -- a code that R100 does not list
  deriving DecidableEq, Repr

/-- The error that a slice finds in its SRAM while it serves an access (R218). -/
inductive SramErr where
  | none
  | dataCe   -- single-bit error in a data word
  | dataUe   -- uncorrectable error in the sector's data
  | tagCe    -- single-bit error in a tag entry
  | tagUe    -- uncorrectable tag entry
  deriving DecidableEq, Repr

/-- What a prompt lookup of a PROMPT read meets at cycle 2 of its admission (R218, R250, R252): an error in the slice's SRAM, and the
other ports that present a lookup to the same slice in that cycle. The admission of each of those reads is a command of its own, which
the queue holds after this one. -/
structure Lookup where
  err    : SramErr := .none
  rivals : List PortIx := []
  deriving DecidableEq, Repr

/-- The virtual channels of the crossbar (R30, R266). -/
inductive Vc where
  | req | rsp | mgt
  deriving DecidableEq, Repr

/-- The lane of a slice from which a request is taken (R296). -/
inductive Lane where
  | normal | lock
  deriving DecidableEq, Repr

/-- The result of one link bring-up step of a port (R65): done with the repairs it made (R71), or failed. -/
inductive LinkStepRes where
  | done (repTx repRx : List (Fin 64)) (cvt : Bool)
  | failed
  deriving DecidableEq, Repr

/-- What a self-test run of a block leaves (R532, R533): of its logic BIST the MISR's signature and the pattern counter, of its memory BIST the
compare-fail flag and whether the address sequencer has covered the programmed range, and the run-complete flag. -/
structure BistRun where
  signature : Word
  count     : Word
  bad       : Bool            -- the compare-fail flag is set
  range     : Bool            -- the programmed range has been covered
  complete  : Bool            -- false: a run-complete flag is clear (R533)
  patterns  : BitVec 24 := 0  -- patterns or memory passes applied (R560)
  deriving DecidableEq, Repr

/-- The end of the self-test of a pseudo-channel's encoder and decoder (R461, R462): the vectors whose outcome and output matched, and the
vectors run. -/
structure CheckerRun where
  matched : Fin 41
  ran     : Fin 41
  deriving DecidableEq, Repr

/-- What the sweeps and the confirmation of one lane find on the TSVs (R408, R409): bit c of a sweep tells that the lane passes at code c,
and bit i of `confirm` that it passes the run of pattern kind i. A command lane has no second DELAY sweep and no confirmation. -/
structure LaneSweep where
  delay   : BitVec 128
  vref    : BitVec 64
  delay2  : BitVec 128
  confirm : BitVec 3
  deriving DecidableEq, Repr

/-- The sweeps of the lanes of a group: what most of them find, and the lanes that differ. -/
structure LaneSet where
  common : LaneSweep
  except : List (Fin 38 × LaneSweep)
  deriving DecidableEq, Repr

/-- What one training of a pseudo-channel meets on the TSVs at one rate (R408): the sweeps of its command, read and write groups. A spare
lane's sweeps count once it takes a symbol over. -/
structure TrainAttempt where
  cmd : LaneSet
  rd  : LaneSet
  wr  : LaneSet
  deriving DecidableEq, Repr

/-- The sweeps of a group in a retraining: bit i of a lane's tells that it passes at 8 - i codes below the centre of its sweep (R417). -/
structure NearSet where
  common : BitVec 17
  except : List (Fin 38 × BitVec 17)
  deriving DecidableEq, Repr

/-- What a retraining of a held pseudo-channel meets (R417). -/
structure RetrainAttempt where
  cmd : NearSet
  rd  : NearSet
  wr  : NearSet
  deriving DecidableEq, Repr

/-- The bits that the core die of a pseudo-channel receives in one cycle of CK_DRAM on its command and parity lanes (R350-R352). While its
training procedure makes sweeps of its own, `own` names the compare run in progress: whether at 4 Gb/s, and its number in the procedure
(R404, R408, R720). -/
structure Reception where
  p       : PcIx
  rowRise : BitVec 13
  rowFall : BitVec 13
  rowPar  : Bool
  colRise : BitVec 8
  colFall : BitVec 8
  colPar  : Bool
  own     : Option (Bool × Nat) := none
  deriving DecidableEq, Repr

/-- A fetch of a block's event register by FLT (R568): the block, and whether a write of 1 to its FLT_ACK bit falls in the same cycle (R570). -/
structure Fetch where
  block : Fin 256
  ack   : Bool
  deriving DecidableEq, Repr

/-- The statistics of one lane of a monitor window (R426). -/
structure MonLane where
  d : Nat   -- disagreements of the monitor with the main sampler
  t : Nat   -- transitions
  n : Nat   -- ones
  deriving DecidableEq, Repr

/-- What a management command row takes: a packet waiting on one of the paths, or an order of Ilael's own (R640). -/
inductive Via where
  | inband (p : PortIx)
  | sideband
  | i3c
  | jtag
  | ilael (params : List Byte)
  deriving DecidableEq, Repr

/-- What reaches 2 us since its age origin (R261, R262): a host request, the granule operation of a press, or a job that
stands at its chunk boundary. -/
inductive AgeRef where
  | request (p : PortIx) (tag : Fin 1024)
  | granule (p : PressIx)
  | job (p : PressIx) (ctx : Fin 64)
  deriving DecidableEq, Repr

/-- One conversion of a temperature sensor (R492, R498): TEMP in quarter degrees, the raw code, and whether it came later than
20 us after the sample point. -/
structure Reading where
  temp : BitVec 11
  raw  : BitVec 14
  late : Bool
  deriving DecidableEq, Repr

/-- An error that a block finds in itself and that no other command brings about (R594): it comes with the capture of the
block's error line. -/
inductive HwErr where
  | mgtSramCe (addr : BitVec 16)
  | mgtSramUe (addr : BitVec 16)
  | hpaTagCe (p : PortIx) (tag : Fin 1024)
  | hpaTagUe (p : PortIx) (tag : Fin 1024)
  | prsRdbufCe (p : PressIx) (word : BitVec 16)
  | prsRdbufUe (p : PressIx) (word : BitVec 16) (blocks : List (Fin 64))   -- the blocks of the chunk that the word holds
  | xbrParity (ep : Fin 113)
  | dctSram (c : SliceIx) (idx : Fin 2048) (sector : Fin 16) (err : SramErr)  -- met by any access of the slice to a line (R218)
  deriving DecidableEq, Repr

/-- A register frame (R679-R681). -/
inductive Frame where
  | id | mgt | clk | rst | fus | nvm | flt | err | thm | bst | xbr | bwr
  | hpa (n : PortIx)
  | chc (k : ChcIx)
  | dct (c : SliceIx)
  | prs (p : PressIx)
  deriving DecidableEq, Repr

/-- The owner of a line lock (R243, R245): the granule operation of a press, or the racking context of a die. -/
inductive LockRef where
  | press (p : PressIx)
  | rack (d : Fin 16)
  deriving DecidableEq, Repr

/-- A common command code of the I3C target (R647), with what the controller sends; `other` is any other. -/
inductive I3cCcc where
  | entdaa (addr : BitVec 7)
  | rstdaa
  | setnewda (addr : BitVec 7)
  | enec (ibi hotJoin : Bool)
  | disec (ibi hotJoin : Bool)
  | getpid | getbcr | getdcr | getstatus | getmwl | getmrl
  | setmwl (n : BitVec 16)
  | setmrl (n : BitVec 16)
  | other
  deriving DecidableEq, Repr

/-- The commands of the block: one constructor per row of spec/opcode_table.json, in its order. -/
inductive Instr where
  -- reset and boot
  | pwrgdRise
  | pwrgdFall
  | resetNFall (lowNs : Nat)                       -- how long RESET_N then stays low (R693)
  | resetNRise (straps : BitVec 10) (stable : Bool) -- PORT_EN in bits 4:0, MGMT_SEL in bits 9:5 (R41, R57, R61)
  | keeperSettleEnd
  | pllLock
  | pllLockTimeout (pllA pllB : Bool)              -- which of the two had locked
  | pllLockLoss (pllB : Bool)
  | refclkLost
  | shadowReload
  | bootLbistEnd (block : Fin 264) (run : BistRun) (checker0 checker1 : CheckerRun) (zeroiseOk : Bool)
  | pcTrainingEnd (k : ChcIx) (p : PcIx) (at8 at4 : TrainAttempt)
  | linkTrainDeadline
  | mapWaitTimeout
  | bootStep10
  | ready
  | safeSidebandInit
  -- links
  | sbInit (n : PortIx)
  | linkTrainStepEnd (n : PortIx) (res : LinkStepRes)
  | initialCreditGrant (n : PortIx)
  | hostRetrainRequest (n : PortIx)
  | replayLimitRetrain (n : PortIx)
  | hostLinkDisable (n : PortIx)
  | adapterLinkError (n : PortIx)
  | fwdClkLost (n : PortIx)
  | powerStateRequest (n : PortIx)
  | sidebandRegAccess (n : PortIx) (standard : Bool) (addr : Word)
  | flitCrcError (n : PortIx)
  | pad (n : PortIx)
  -- requests
  | reservedOp (n : PortIx) (code : BitVec 6) (hdr : ReqHdr)
  | rd (n : PortIx) (hdr : ReqHdr) (look : Lookup)  -- look: what a prompt lookup meets
  | wr (n : PortIx) (hdr : ReqHdr) (payload : List Byte) (trailer : Word)
  | wrMasked (n : PortIx) (hdr : ReqHdr) (payload : List Byte) (trailer : Word)
  | atom (n : PortIx) (hdr : ReqHdr) (payload : List Byte) (trailer : Word)
  | accum (n : PortIx) (hdr : ReqHdr) (payload : List Byte) (trailer : Word)
  | fill (n : PortIx) (hdr : ReqHdr) (payload : List Byte)
  | copy (n : PortIx) (hdr : ReqHdr) (payload : List Byte)
  | rangeCrc (n : PortIx) (hdr : ReqHdr) (payload : List Byte)
  | jobStatus (n : PortIx) (hdr : ReqHdr) (payload : List Byte)
  | jobCancel (n : PortIx) (hdr : ReqHdr) (payload : List Byte)
  | fence (n : PortIx) (hdr : ReqHdr)
  | flush (n : PortIx) (hdr : ReqHdr)
  | mgmtCmd (n : PortIx) (hdr : ReqHdr) (payload : List Byte)
  | nopCredit (n : PortIx) (hdr : ReqHdr)
  | rspSpaceReserve (n : PortIx)
  | jobContextGrant (p : PressIx)
  | orderedRelease (n : PortIx) (tag : Fin 1024)
  | fenceComplete (n : PortIx) (tag : Fin 1024)
  | requestComplete (n : PortIx) (tag : Fin 1024)
  | responseHandoff (n : PortIx)
  | creditGrantTimer (n : PortIx)
  | xbrPacketAccept (vc : Vc) (dst : Fin 113)
  -- slices
  | sliceRequest (c : SliceIx) (err : SramErr)
  | conflictQueueRetry (c : SliceIx) (i : Fin 32)
  | evictionBufferFree (c : SliceIx) (i : Fin 4)
  | fillReturn (c : SliceIx)
  | lineLockGrant (c : SliceIx)
  | lineLockRelease (c : SliceIx) (owner : LockRef)
  | flushWalkStep (c : SliceIx)
  | flushComplete (n : PortIx) (tag : Fin 1024)
  | sliceDrain (c : SliceIx)
  | sliceDrainEnd (c : SliceIx)
  -- pseudo-channels
  | pcFence (k : ChcIx) (p : PcIx)
  | commandEnqueue (k : ChcIx) (p : PcIx)
  | dramCommandIssue (k : ChcIx) (p : PcIx) (busy : List BankIx)  -- banks whose timing allows no command now (R357)
  | idleClose (k : ChcIx) (p : PcIx) (bank : BankIx)
  | readBurstReturn (k : ChcIx) (p : PcIx) (noise : List (Fin 36 × BitVec 16))  -- errors in the symbols read
  | retryEntryRetire (k : ChcIx) (p : PcIx)
  | refreshTick
  | refabOpportunistic (k : ChcIx) (p : PcIx)
  | refabIssue (k : ChcIx) (p : PcIx)
  | refreshEnd (k : ChcIx) (p : PcIx)
  | bandChange (k : ChcIx) (p : PcIx)
  | refreshPaymentEnd (k : ChcIx) (p : PcIx)
  | alertRise (k : ChcIx) (recv : Reception)         -- what the die received in the failing cycle
  | replayEnd (k : ChcIx) (p : PcIx)
  | retrainEnd (k : ChcIx) (r0 r1 : RetrainAttempt)
  | rescueTrainEnd (k : ChcIx) (p : PcIx) (a : TrainAttempt)
  | rescueRackDone (k : ChcIx) (p : PcIx)
  | trnStart (k : ChcIx) (v : Word)
  | trnRunEnd (k : ChcIx) (recv : List (Fin 38 × Nat × BitVec 16))  -- (lane, group, its 16 beats) received other than as sent
  | calPassStart (k : ChcIx) (p : PcIx)
  | monitorWindowEnd (k : ChcIx) (p : PcIx) (wr : Bool) (stats : List (Fin 38 × MonLane))
  | calLowTraffic (k : ChcIx) (p : PcIx)
  | calSkipped (k : ChcIx) (p : PcIx)
  | scrubRow (d : Fin 16)
  | rackRow (p d : Fin 16)                           -- the press whose racking context it is, and the die whose banks it racks
  -- presses and classes
  | chunkBoundary (p : PressIx)
  | chunkComplete (p : PressIx)
  | granuleDataArrive (p : PressIx)
  | agePromotion (what : AgeRef)
  | budgetWindowBoundary
  -- thermal
  | thmSample (zone : Fin 34)
  | thmEvaluation (zone : Fin 34) (readings : List Reading)
  | keeperSample (readings : List Reading)
  | shutdownGraceEnd
  | rearmRelease
  -- faults
  | errorLineCapture (blocks : List (Fin 256)) (hw : List HwErr)
  | eventFetch (fetch : Fetch)
  | blankingWindowClose
  | aliveToggle
  | mgtWdog
  | mgtResetEnd
  | sbiMgtTimeout (i3c : Bool)                      -- on the sideband or the I3C path (R594)
  -- management paths
  | sidebandSegment (n : PortIx) (index : BitVec 7) (last : Bool) (data : BitVec 64)
  | i3cPrivateWrite (bytes : List Byte)
  | i3cPrivateRead (count : Nat)                    -- bytes read before the controller stops
  | i3cCcc (c : I3cCcc)
  | i3cIbiRequest
  | hotJoinRequest
  | regaccUpdate (v : BitVec 64)
  | bootstatCapture
  -- management commands
  | regRead (via : Via)
  | regWrite (via : Via)
  | getInfo (via : Via)
  | train (via : Via)
  | calibrate (via : Via)
  | calStore (via : Via)
  | runBist (via : Via) (zeroiseOk : Bool)          -- zeroiseOk: the read-back of R534 finds every bit 0
  | quiesce (via : Via)
  | quiesceComplete
  | bistPhaseEnd (run : BistRun) (checker0 checker1 : CheckerRun)
  | resume (via : Via)
  | retireRow (via : Via)
  | retireBank (via : Via)
  | readLog (via : Via)
  | fuseProgram (via : Via)
  | fuseSeal (via : Via)
  | fusePulseEnd (normal strict : Bool)             -- what the fuse pulsed reads at the two references
  | fuseRead (via : Via)
  | nvmRead (via : Via)
  | nvmWrite (via : Via)
  | setThermal (via : Via)
  | commitGuarantees (via : Via)
  | setWindow (via : Via)
  | capacity (via : Via)
  | reservedCmd (via : Via) (code : Byte)           -- code: the CMD of a packet of Ilael's own
  | credHoldoffEnd
  -- the cellar book
  | nvmRecordWriteEnd (readsBack : Bool)
  | lifeCounterSecond
  | actHistWindow
  | counterFlush
  -- registers
  | postedWriteApply (f : Frame)
  | mgtUpdStrobe (mask : BitVec 16)
  | rllLowRead (f : Frame) (off : BitVec 12)
  | wlFieldWrite (f : Frame) (off : BitVec 12) (v : Word)
  | addrMapReqWrite (v : Word)
  | portRetrain (n : PortIx)
  | portDisableWrite (n : PortIx) (v : Bool)
  | portCntClr (n : PortIx)
  | portAdmClr (n : PortIx)
  | portOrdClr (n : PortIx)
  | dctClr (c : SliceIx)
  | bwrClr
  | xbrArbClr
  | prsClr (p : PressIx)
  | chcClr (k : ChcIx)
  | chcTrnClr (k : ChcIx)
  | chcEccClr (k : ChcIx)
  | chcLaneMapWrite (k : ChcIx) (p : PcIx) (v : Word)
  | chcCalValWrite (k : ChcIx) (v : Word)
  | errRingRdptrWrite (v : Word)
  | errClr
  | thmClr
  | bstTestModeEnter
  | bstClr
  | fusLockSet (v : Word)
  | fusClr
  | nvmClr
  | fltAck (k : Fin 8) (v : Word)
  | fltFirstClr
  | fltConseqClr
  | fltClr
  | registerWrite (f : Frame) (off : BitVec 12) (v : Word)
  | flitReplay (n : PortIx) (again : Bool)          -- again: the flit replayed last
  | flitBoundary (n : PortIx)
  | vprogLevelChange (vprogOk keepOk : Bool)
  | railOutOfRange
  deriving DecidableEq, Repr

end Sys2Proof
end

