-- ==== Sys2Proof/Decode.lean ====
section
/-! DEFINITION. The commands that words of the table's bits spell. Its rows are events and carry no bits, so no word spells one. -/

namespace Sys2Proof

/-- The command that a word of `nbits` bits spells by the table: none, since no row of it has bits. -/
def decodeTableWord (_nbits _w : Nat) : Option Instr := none

end Sys2Proof
end

