-- ==== Sys2Proof/Machine/Tab.lean ====
section
/-! DEFINITION. Sparse tables: a list of (key, value) pairs with keys rising, where an unlisted key holds a default. Ports,
slices, channel controllers, fuse words and sector data are kept in such tables. -/

namespace Sys2Proof

/-- A sparse table keyed by number. -/
abbrev Tab (α : Type) := List (Nat × α)

/-- The value at a key, `d` where none is listed. -/
def Tab.get {α : Type} (d : α) : Tab α → Nat → α
  | [], _ => d
  | (k, v) :: t, i => if i = k then v else Tab.get d t i

/-- Whether a key is listed. -/
def Tab.has {α : Type} : Tab α → Nat → Bool
  | [], _ => false
  | (k, _) :: t, i => i == k || Tab.has t i

/-- The listed value at a key. -/
def Tab.look {α : Type} : Tab α → Nat → Option α
  | [], _ => none
  | (k, v) :: t, i => if i = k then some v else Tab.look t i

/-- The table with `v` at key `i`. -/
def Tab.put {α : Type} : Tab α → Nat → α → Tab α
  | [], i, v => [(i, v)]
  | (k, w) :: t, i, v =>
    if i = k then (k, v) :: t
    else if i < k then (i, v) :: (k, w) :: t
    else (k, w) :: Tab.put t i v

/-- The table with the entry at key `i` changed by `f`, starting from `d` where none is listed. -/
def Tab.upd {α : Type} (d : α) (t : Tab α) (i : Nat) (f : α → α) : Tab α := t.put i (f (t.get d i))

/-- The table without key `i`. -/
def Tab.del {α : Type} : Tab α → Nat → Tab α
  | [], _ => []
  | (k, v) :: t, i => if i = k then Tab.del t i else (k, v) :: Tab.del t i

/-- The least unused key from `n` on, looking at most `fuel` keys ahead. -/
def Tab.freeKey {α : Type} (t : Tab α) : Nat → Nat → Nat
  | 0, n => n
  | f + 1, n => if t.has n then t.freeKey f (n + 1) else n

/-- Replace element `i` of a list. -/
def listSet {α : Type} : List α → Nat → α → List α
  | [], _, _ => []
  | _ :: t, 0, v => v :: t
  | h :: t, n + 1, v => h :: listSet t n v

/-- Remove element `i` of a list. -/
def listDel {α : Type} : List α → Nat → List α
  | [], _ => []
  | _ :: t, 0 => t
  | h :: t, n + 1 => h :: listDel t n

/-- The position of the first element that satisfies `p`. -/
def listIdx {α : Type} (p : α → Bool) : List α → Option Nat
  | [] => none
  | h :: t => if p h then some 0 else (listIdx p t).map (· + 1)

/-- The numbers `n, n+1, … , n+k-1`. -/
def upFrom : Nat → Nat → List Nat
  | _, 0 => []
  | n, k + 1 => n :: upFrom (n + 1) k

/-- The numbers below `k`, rising. -/
def below (k : Nat) : List Nat := upFrom 0 k

/-- Fold over the numbers below `k`, rising. -/
def foldBelow {α : Type} (k : Nat) (f : α → Nat → α) (a : α) : α := (below k).foldl f a

/-- The sum of `f i` over `i` below `k`. -/
def sumBelow (k : Nat) (f : Nat → Nat) : Nat := foldBelow k (fun a i => a + f i) 0

/-- Number the elements of a list. -/
def numbered {α : Type} : Nat → List α → List (Nat × α)
  | _, [] => []
  | n, x :: t => (n, x) :: numbered (n + 1) t

/-- The element of the greatest key; the first of those that have it. -/
def bestBy {α : Type} (key : α → Nat) : List α → Option α
  | [] => none
  | x :: t =>
    match bestBy key t with
    | none => some x
    | some y => if key x < key y then some y else some x

/-- The first member of a list of numbers below `m` at or after `k + 1`, going round. -/
def roundRobin (m k : Nat) (l : List Nat) : Option Nat :=
  ((below m).map (fun i => (k + 1 + i) % m)).find? l.contains

end Sys2Proof
end

