-- ==== Sys2Proof/Machine/Crypto.lean ====
section
/-! DEFINITION. The two functions that R634 names: SHA-256, and the verification of an ECDSA signature over the curve P-256. Their text is that
of the public standards (log entry 7). -/

namespace Sys2Proof.Machine

/-! ### SHA-256 -/

/-- Rotate a 32-bit word right by `n`. -/
def ror32 (x n : Nat) : Nat := (x >>> n) ||| (x <<< (32 - n)) % 2 ^ 32

/-- The 64 constants of SHA-256. -/
def shaConsts : List Nat :=
  [0x428a2f98, 0x71374491, 0xb5c0fbcf, 0xe9b5dba5, 0x3956c25b, 0x59f111f1, 0x923f82a4, 0xab1c5ed5] ++
  [0xd807aa98, 0x12835b01, 0x243185be, 0x550c7dc3, 0x72be5d74, 0x80deb1fe, 0x9bdc06a7, 0xc19bf174] ++
  [0xe49b69c1, 0xefbe4786, 0x0fc19dc6, 0x240ca1cc, 0x2de92c6f, 0x4a7484aa, 0x5cb0a9dc, 0x76f988da] ++
  [0x983e5152, 0xa831c66d, 0xb00327c8, 0xbf597fc7, 0xc6e00bf3, 0xd5a79147, 0x06ca6351, 0x14292967] ++
  [0x27b70a85, 0x2e1b2138, 0x4d2c6dfc, 0x53380d13, 0x650a7354, 0x766a0abb, 0x81c2c92e, 0x92722c85] ++
  [0xa2bfe8a1, 0xa81a664b, 0xc24b8b70, 0xc76c51a3, 0xd192e819, 0xd6990624, 0xf40e3585, 0x106aa070] ++
  [0x19a4c116, 0x1e376c08, 0x2748774c, 0x34b0bcb5, 0x391c0cb3, 0x4ed8aa4a, 0x5b9cca4f, 0x682e6ff3] ++
  [0x748f82ee, 0x78a5636f, 0x84c87814, 0x8cc70208, 0x90befffa, 0xa4506ceb, 0xbef9a3f7, 0xc67178f2]

/-- The eight words that SHA-256 begins with. -/
def shaInit : List Nat := [0x6a09e667, 0xbb67ae85, 0x3c6ef372, 0xa54ff53a, 0x510e527f, 0x9b05688c, 0x1f83d9ab, 0x5be0cd19]

/-- A number from bytes, the most significant first. -/
def beNat (bs : List Byte) : Nat := bs.foldl (fun a b => a * 256 + b.toNat) 0

/-- One more word of the message schedule; the list holds the newest word first. -/
def shaExtend (w : List Nat) : List Nat :=
  let g (i : Nat) : Nat := w.getD i 0
  let s0 := ror32 (g 14) 7 ^^^ ror32 (g 14) 18 ^^^ (g 14 >>> 3)
  let s1 := ror32 (g 1) 17 ^^^ ror32 (g 1) 19 ^^^ (g 1 >>> 10)
  (s1 + g 6 + s0 + g 15) % 2 ^ 32 :: w

/-- One round on the eight working words. -/
def shaRound (v : List Nat) (k w : Nat) : List Nat :=
  let g (i : Nat) : Nat := v.getD i 0
  let s1 := ror32 (g 4) 6 ^^^ ror32 (g 4) 11 ^^^ ror32 (g 4) 25
  let ch := (g 4 &&& g 5) ^^^ ((2 ^ 32 - 1 - g 4) &&& g 6)
  let t1 := g 7 + s1 + ch + k + w
  let s0 := ror32 (g 0) 2 ^^^ ror32 (g 0) 13 ^^^ ror32 (g 0) 22
  let maj := (g 0 &&& g 1) ^^^ (g 0 &&& g 2) ^^^ (g 1 &&& g 2)
  [(t1 + s0 + maj) % 2 ^ 32, g 0, g 1, g 2, (g 3 + t1) % 2 ^ 32, g 4, g 5, g 6]

/-- The words after a 64-byte block. -/
def shaBlock (h : List Nat) (blk : List Byte) : List Nat :=
  let first := ((below 16).map (fun i => beNat (byteSlice blk (4 * i) 4))).reverse
  let w := ((below 48).foldl (fun w _ => shaExtend w) first).reverse
  let v := (List.zip shaConsts w).foldl (fun v (k, w) => shaRound v k w) h
  (List.zip h v).map (fun (a, b) => (a + b) % 2 ^ 32)

/-- The 64-byte blocks of a padded message, at most `fuel` of them. -/
def shaFold : Nat → List Nat → List Byte → List Nat
  | 0, h, _ => h
  | f + 1, h, m => if m.isEmpty then h else shaFold f (shaBlock h (m.take 64)) (m.drop 64)

/-- A message with the padding of SHA-256. -/
def shaPad (m : List Byte) : List Byte :=
  m ++ 0x80#8 :: padBytes ((119 - m.length % 64) % 64) [] ++ (leBytes 8 (8 * m.length)).reverse

/-- SHA-256 of a message, as a number of 256 bits. -/
def sha256 (m : List Byte) : Nat :=
  let p := shaPad m
  (shaFold (p.length / 64) shaInit p).foldl (fun a w => a * 2 ^ 32 + w) 0

/-! ### P-256 -/

/-- The prime of the field, the order of the base point, and the coefficient b of the curve y² = x³ - 3x + b. -/
def p256 : Nat := 0xffffffff00000001000000000000000000000000ffffffffffffffffffffffff
def n256 : Nat := 0xffffffff00000000ffffffffffffffffbce6faada7179e84f3b9cac2fc632551
def b256 : Nat := 0x5ac635d8aa3a93e7b3ebbd55769886bc651d06b0cc53b0f63bce3c3e27d2604b

/-- A point of the curve, none for the point at infinity. -/
abbrev CurvePoint := Option (Nat × Nat)

/-- The base point. -/
def base256 : CurvePoint :=
  some (0x6b17d1f2e12c4247f8bce6e563a440f277037d812deb33a0f4a13945d898c296,
    0x4fe342e2fe1a7f9b8ee7eb4a7c0f9e162bce33576b315ececbb6406837bf51f5)

/-- `b` to the power `e`, of 256 bits, modulo `m`. -/
def modPow (m b e : Nat) : Nat := (below 256).foldl (fun a i => let a := a * a % m; if natBit e (255 - i) then a * b % m else a) 1

/-- The inverse modulo a prime. -/
def modInv (m a : Nat) : Nat := modPow m (a % m) (m - 2)

/-- The third point on a line of slope `s` through two points, reflected. -/
def chord (s x1 y1 x2 : Nat) : CurvePoint :=
  let x := (s * s + 2 * p256 - x1 - x2) % p256
  some (x, (s * (x1 + p256 - x) + p256 - y1) % p256)

/-- The sum of two points. -/
def curveAdd : CurvePoint → CurvePoint → CurvePoint
  | none, b => b
  | a, none => a
  | some (x1, y1), some (x2, y2) =>
    if x1 != x2 then chord ((y2 + p256 - y1) * modInv p256 (x2 + p256 - x1) % p256) x1 y1 x2
    else if (y1 + y2) % p256 = 0 then none
    else chord ((3 * x1 * x1 + p256 - 3) * modInv p256 (2 * y1) % p256) x1 y1 x2

/-- A multiple of a point. -/
def curveMul (k : Nat) (a : CurvePoint) : CurvePoint :=
  (below 256).foldl (fun r i => let r := curveAdd r r; if natBit k (255 - i) then curveAdd r a else r) none

/-- Whether two coordinates are those of a point of the curve. -/
def onCurve (x y : Nat) : Bool := x < p256 && y < p256 && y * y % p256 == (x * x * x + (p256 - 3) * x + b256) % p256

/-- Whether a signature of 64 bytes verifies for a message under a public key of 64 bytes. -/
def ecdsaVerify (key sig msg : List Byte) : Bool :=
  let x := beNat (key.take 32)
  let y := beNat (key.drop 32)
  let r := beNat (sig.take 32)
  let s := beNat (sig.drop 32)
  onCurve x y && 1 ≤ r && r < n256 && 1 ≤ s && s < n256 &&
  (let w := modInv n256 s
   match curveAdd (curveMul (sha256 msg * w % n256) base256) (curveMul (r * w % n256) (some (x, y))) with
   | some (u, _) => u % n256 == r
   | none => false)

end Sys2Proof.Machine
end

