-- ==== Sys2Proof/Machine/StPort.lean ====
section
/-! DEFINITION. The state of a host port: its link, its admission, its streams and its registers (R49-R185), and the
shapes in which requests travel to the slices and answers come back. -/

namespace Sys2Proof.Machine

/-- A register with shadowed fields (R669): the value in force, the value last written, and whether the written value
still waits for its update. -/
structure Rws where
  live   : Nat
  shadow : Nat
  dirty  : Bool
  deriving DecidableEq, Repr

/-- A 64-bit count with the latch of its high word (R667). -/
structure Cnt64 where
  count : Nat := 0
  latch : Nat := 0
  deriving DecidableEq, Repr

/-- A counter of microseconds counted as 2,000 cycles of CK_CORE, with the cycles counted toward the next one. -/
structure WaitCnt where
  us   : Nat := 0
  frac : Nat := 0
  deriving DecidableEq, Repr

/-- The status codes of R118. -/
inductive Status where
  | ok | okCorrected | degraded | poison | capacityLost | aborted | retry | busyTest | e2eFail | seqGap
  | denied | unmapped | badOp | overcommit
  deriving DecidableEq, Repr

/-- The place of a row in the core dies as the host sees it: data channel, pseudo-channel, bank, row (R24). -/
structure RowLoc where
  c : Nat
  p : Nat
  b : Nat
  r : Nat
  deriving DecidableEq, Repr

/-- One block that a request or a granule operation touches. -/
structure BlockAcc where
  ix   : Nat            -- number of the block within the request or the granule
  blk  : Nat            -- block of the row (R188)
  data : Block          -- data to write, or the operands of an ACCUM block
  mask : BitVec 64      -- byte enables (R103)
  deriving DecidableEq, Repr

/-- What is done to each block of a part. -/
inductive AccKind where
  | rd
  | wr
  | wrMasked
  | atom (fn : Nat) (w : Nat) (boff : Nat) (a b : Nat)
  | accum (ty : Nat)
  deriving DecidableEq, Repr

/-- One part of a data request: the blocks it covers in one granule, so in one row (R95, R188). -/
structure SliceReq where
  port    : Nat
  tag     : Nat
  part    : Nat
  kind    : AccKind
  row     : RowLoc
  blocks  : List BlockAcc
  policy  : Nat           -- as R201 encodes it
  noalloc : Bool
  cls     : Nat
  born    : Nat := 0      -- CK_KEEP cycle of its release, its age origin (R262)
  aged    : Bool := false
  deg     : Bool := false -- its pseudo-channel was degraded when the part reached its slice (R138)
  deriving DecidableEq, Repr

/-- What one block access came to: the status it gives its request (R138) and the data read. -/
structure BlkRes where
  ix     : Nat
  status : Status
  data   : Block
  deriving DecidableEq, Repr

/-- A protection window (R196). Bit `4n + j` of `perm` is permission `j` of port `n`: 0 read, 1 write, 2 atomic, 3 job. -/
structure Window where
  en     : Bool
  base   : Nat
  limit  : Nat
  policy : Nat
  perm   : Nat
  deriving DecidableEq, Repr

/-- The phase of an admitted request. -/
inductive Phase where
  | waitRsp      -- admitted, waiting at check 8 for RSP space (R130)
  | waitJob      -- in the job-wait queue (R134)
  | held         -- admitted and not yet released (R155, R164)
  | active       -- released
  | staged       -- its whole response is in the staging buffer, not yet complete
  deriving DecidableEq, Repr

/-- An admitted request that is not complete (R136, R154). -/
structure Req where
  op      : Op
  hdr     : ReqHdr
  payload : List Byte
  phase   : Phase
  cls     : Nat                 -- class stamped at admission (R277)
  e2eOut  : Bool                -- E2E was set and E2E_EN was 1 at admission (R117)
  poly    : Nat                 -- E2E_POLY at admission (R178)
  rspCost : Nat
  parts   : List SliceReq       -- its parts in offer order (R168), with the policy of its admission (R201)
  left    : Nat := 0            -- parts, walks or packets not yet answered
  results : List BlkRes := []   -- block results gathered so far
  status  : Status := .ok       -- the answer formed, once staged
  arg     : Nat := 0
  data    : List Byte := []
  level   : Nat := 2            -- claimed privilege, for MGMT_CMD
  aged    : Bool := false       -- has reached AGED since its release (R261, R307)
  fenced  : Bool := false       -- a FENCE of its stream was admitted after it (R150)
  stale   : Bool := false       -- admitted before a link-down (R75)
  winBase : Nat := 0            -- FLUSH: the bytes of the window at admission (R200)
  winEnd  : Nat := 0
  wins    : List Window := []   -- jobs: the window set in force at admission (R201)
  gap     : Bool := false       -- its stream broke while it waited for RSP space: it is answered SEQ_GAP once it has it (R130, R152)
  deriving DecidableEq, Repr

/-- A response waiting in the transmit staging buffer (R156). -/
structure TxRsp where
  op      : Op
  hdr     : ReqHdr
  status  : Status
  arg     : Nat
  data    : List Byte
  e2e     : Bool
  trailer : Word
  rspCost : Nat                 -- RSP units to return at hand-off (R127)
  mgtCost : Nat                 -- MGT units to return at hand-off
  ownsTag : Bool                -- the response of an admitted request (R96)
  deriving DecidableEq, Repr

/-- A packet handed to the adapter: what the host sees of the transmit stream (R86). -/
inductive TxPacket where
  | response (header : Word × Word) (data : List Byte) (trailer : Option Word)
  | grant (header : Word × Word)   -- R123
  | pad (word : Word)              -- R87: fills the stream where no packet is carried
  deriving DecidableEq, Repr

/-- A received request that has not passed admission (R131): it waits behind one that waits. -/
structure RxReq where
  op      : Op
  hdr     : ReqHdr
  payload : List Byte
  trailer : Word
  look    : Lookup
  deriving DecidableEq, Repr

/-- A stream context (R143); its OUTSTANDING count and held list are those of the port's requests. -/
structure Stream where
  exp     : BitVec 16 := 0
  broken  : Bool := false
  relPend : Bool := false       -- marked for release by a link-down (R180)
  deriving DecidableEq, Repr

/-- The states of PORT_LINK_STATUS.STATE (R65). -/
inductive LinkState where
  | reset | sbInit | mbTrain | adapterInit | activeWait | active | down | retrain
  deriving DecidableEq, Repr

/-- The flit slots of a port's transmit stream (R84, R511): of each run of 16, how many may carry DXP bytes (16 unless the port paces), how
many have passed and how many carried any, and the bytes that the slot begun last still has room for. -/
structure TxSlots where
  pace : Nat := 16
  slot : Nat := 0
  used : Nat := 0
  room : Nat := 0
  stop : Bool := false           -- the port's HPA has met a fatal condition and sends nothing more (R582)
  deriving DecidableEq, Repr

/-- A message that the stack sends on a sideband (R645): its sub-code, with the index in bits [6:0] and LAST in bit 7, and its data. -/
structure SbMsg where
  sub  : Nat
  data : Nat
  deriving DecidableEq, Repr

/-- The READY message (R530, R645). -/
def readyMsg : SbMsg := ⟨0x7F, 0⟩

/-- A host port. -/
structure Port where
  enabled   : Bool := false      -- R56
  strapEn   : Bool := false
  mgmtPort  : Bool := false
  fuseDis   : Bool := false
  bistFail  : Bool := false      -- the HPA failed boot self-test
  state     : LinkState := .reset
  reason    : Nat := 0           -- DOWN_REASON of R72
  rate      : Nat := 0
  sbUp      : Bool := false
  resume    : Bool := false      -- step 2 and 3 of a retrain, not of a bring-up (R68)
  fwdOk     : Bool := false      -- CLK_PORT_CLK.FWD_OK bit (R73)
  granted   : Bool := false      -- the initial credit grants of this session were sent (R65 step 5, R78)
  sbSent    : List SbMsg := []   -- messages of the stack's own on the sideband of this port since its bring-up: READY (R65, R530)
  cvt       : Bool := false
  repTx     : List Nat := []     -- lanes repaired in the current training (R71)
  repRx     : List Nat := []
  system    : Bool := false      -- PORT_CFG.SYSTEM
  cfg       : Rws := ⟨0, 0, false⟩  -- PORT_CFG [5:0]
  replayLim : Nat := 4           -- PORT_LINK_CTL
  rateCap   : Nat := 0
  disable   : Bool := false
  replays   : Nat := 0           -- times in a row that the flit in question was replayed (R68)
  cntCrc    : Nat := 0
  cntReplay : Nat := 0
  cntDiscard : Nat := 0
  cntLinkdown : Nat := 0
  cntRetrain : Nat := 0
  copies    : Option (Nat × Nat × Nat × Nat) := none  -- the copies of the four registers of these counters while CK_PORT[n] is stopped (R666)
  clrPend   : Bool := false      -- a PORT_CNT_CLR waits in the crossing until CK_PORT[n] runs (R666)
  heldReq   : Int := 0           -- units held by the host (R124); RSP may be overdrawn (R130)
  heldRsp   : Int := 0
  heldMgt   : Int := 0
  pendReq   : Nat := 0           -- units pending return (R127)
  pendRsp   : Nat := 0
  pendMgt   : Nat := 0
  rspUsed   : Nat := 0           -- RSP units reserved in the staging buffer
  rxq       : List RxReq := []   -- REQ requests behind one that waits at admission
  ansWait   : Option TxRsp := none  -- an answer at the port that waits for RSP space (R133)
  reqs      : List Req := []     -- admitted and not complete, in admission order
  jobWait   : List Nat := []     -- TAGs of the job-wait queue, in arrival order (R134)
  txq       : List TxRsp := []   -- responses waiting for hand-off
  txMgt     : List TxRsp := []   -- MGT responses waiting for hand-off (R88)
  streams   : Tab Stream := []
  streamSel : Nat := 0
  peak      : Nat := 0
  waitJob   : WaitCnt := {}
  waitRsp   : WaitCnt := {}
  waitOrder : WaitCnt := {}
  cntBadop  : Nat := 0
  cntDenied : Nat := 0
  cntUnmapped : Nat := 0
  cntCredViol : Nat := 0
  rejHdr0   : Nat := 0
  rejDetail : Nat := 0
  rejStatus : Nat := 0
  cntSeqGap : Nat := 0
  cntSplit  : Nat := 0
  e2eCheck  : Nat := 0
  e2eFail   : Nat := 0
  e2eOutCnt : Nat := 0
  strikes   : Nat := 0
  e2eRun    : Nat := 0
  lastTx    : List TxPacket := []   -- packets of the last event that sent any
  slots     : TxSlots := {}
  deriving DecidableEq, Repr

end Sys2Proof.Machine
end

