-- ==== Sys2Proof/Machine/StSlice.lean ====
section
/-! DEFINITION. The state of a decanter slice (R215-R260), of a press (R323-R349) and of the packets between them. -/

namespace Sys2Proof.Machine

/-- The place of a block in a core die: channel controller (0-71), pseudo-channel, bank, row (spare rows from 49,152),
block (R24, R25). -/
structure Phys where
  k : Nat
  p : Nat
  b : Nat
  r : Nat
  j : Nat
  deriving DecidableEq, Repr

/-- Who holds or asks for a line lock (R243, R245). -/
inductive LockOwner where
  | press (p : Nat)   -- a granule operation of press p
  | rack (d : Nat)    -- the racking context of press d
  deriving DecidableEq, Repr

/-- A granule operation of a press (R294): the blocks of one 256-byte granule that the chunk covers. -/
structure GranOp where
  press   : Nat
  write   : Bool
  row     : RowLoc
  blocks  : List BlockAcc        -- `ix` is the block's number in the chunk's range of the read buffer
  poison  : List Nat             -- blocks to be written in the poisoned form (R335)
  policy  : Nat
  noalloc : Bool
  cls     : Nat
  born    : Nat := 0             -- CK_KEEP cycle of its issue (R262)
  aged    : Bool := false
  deg     : Bool := false        -- its pseudo-channel was degraded when the chunk started (R330)
  deriving DecidableEq, Repr

/-- A FLUSH walk (R246, R247): the window's bytes, the mode, the line at which it ends, and the part's owner. -/
structure Walk where
  port  : Nat
  tag   : Nat
  base  : Nat
  last  : Nat                    -- exclusive end in bytes
  inval : Bool
  start : Nat                    -- line at which the walk joined the sweep
  left  : Nat                    -- lines still to visit
  cls   : Nat := 0
  aged  : Bool := false
  st    : Option Status := none  -- what the state of its targets came to when it reached the slice (R138); none while one is in rescue
  deriving DecidableEq, Repr

/-- A packet in the crossbar's source queues (R267). -/
inductive PktBody where
  | part (r : SliceReq)                                            -- REQ: port to slice
  | gran (g : GranOp)                                              -- REQ: press to slice
  | walk (w : Walk)                                                -- REQ: port to slice, a FLUSH
  | job (ctx : Nat)                                                -- REQ: port to press, into its granted context
  | partRsp (port tag part : Nat) (res : List BlkRes)              -- RSP: slice to port
  | walkRsp (port tag : Nat) (st : Status)                                 -- RSP: slice to port, end of a walk
  | jobRsp (port tag : Nat) (status : Status) (arg : Nat) (data : List Byte)   -- RSP: press to port
  | granData (press : Nat) (res : List BlkRes)                     -- RSP: slice to press
  | notice (press : Nat) (res : List BlkRes)                       -- RSP: slice to press, release notice with the outcome of a write
  | mgmtCmd (port tag : Nat) (bytes : List Byte)                   -- MGT: port to MGT
  | mgmtRsp (port tag : Nat) (status : Status) (arg : Nat) (data : List Byte)  -- MGT: MGT to port
  deriving DecidableEq, Repr

/-- A packet with its endpoints, indexed as R308 gives. -/
structure Packet where
  vc   : Vc
  src  : Nat
  dst  : Nat
  body : PktBody
  deriving DecidableEq, Repr

/-- What a command of a pseudo-channel answers to (R229, R364). -/
inductive Origin where
  | fill (c : Nat)                     -- a fill of a sector of slice c
  | opRead (c op ix : Nat)             -- a read for an operation of slice c
  | opWrite (c op ix : Nat)            -- a write that an operation of slice c waits to see queued
  | evict (c evb : Nat)                -- a block of eviction buffer evb of slice c
  | scrub (press : Nat)                -- a block of a scrub row
  | rewrite                            -- a corrected rewrite (R453)
  | rackRead (die : Nat)               -- a block of a racking row, read from where the row stands (R476)
  | rack (die : Nat)                   -- a block of a racking row, written to its target
  | rackGone                           -- a read of a racking that has ended before it came back
  | loose                              -- a write that nothing waits for
  deriving DecidableEq, Repr

/-- A block command on its way to a pseudo-channel (R264). -/
structure Cmd where
  write  : Bool
  loc    : Phys
  home   : RowLoc                      -- the data-bank row the block belongs to
  data   : Block
  poison : Bool                        -- written in the poisoned form (R451)
  origin : Origin
  level  : Nat                         -- 0 DEMOTED, 1 IN_BUDGET, 2 AGED; as it stood when the command entered its crossing FIFO
  age    : Nat                         -- in units of 16 ns (R264)
  cls    : Option Nat := none          -- its budget class, where it has one (R261)
  born   : Nat := 0                    -- CK_KEEP cycle of its age origin (R262)
  grp    : Nat := 0                    -- the group of its slice that one activate serves (R225, R234); 0 for none
  seq    : Nat := 0                    -- the order in which commands entered the queues of the pseudo-channel (R272)
  deriving DecidableEq, Repr

/-- The result of a read that has left the decoder on its way to a slice (R448, R452). -/
structure RetRes where
  origin : Origin
  home   : RowLoc
  j      : Nat
  status : Status
  data   : Block
  deriving DecidableEq, Repr

/-- A decanter line (R216, R230); the slice keeps it under its index, 16 × set + way (R247). -/
structure Line where
  p     : Nat
  b     : Nat
  r     : Nat
  age   : Nat
  hits  : Nat
  valid : Nat                          -- masks of the 16 sectors
  dirty : Nat
  data  : Tab Block                    -- the sectors' data
  deriving DecidableEq, Repr

/-- A host part or a granule operation inside a slice. -/
inductive OpSrc where
  | host (r : SliceReq)
  | gran (g : GranOp)
  deriving DecidableEq, Repr

/-- What one block of an operation still waits for. -/
inductive BlkWait where
  | fill                               -- its sector's fill
  | read                               -- its read from DRAM, nothing filled
  | readQueued                         -- the same, once the read stands in the controller's queue (R297)
  | staging                            -- its read into an ALU staging register (R228)
  | queue                              -- its entry into the write queue
  | done
  deriving DecidableEq, Repr

/-- The progress of one block of an operation. -/
structure BlkProg where
  acc    : BlockAcc
  wait   : BlkWait
  status : Status
  data   : Block
  deriving DecidableEq, Repr

/-- An operation that a slice has taken and not finished. -/
structure SliceOp where
  src    : OpSrc
  blocks : List BlkProg
  deriving DecidableEq, Repr

/-- An eviction buffer (R233, R234): the row, the blocks not yet in the write queue. -/
structure Evb where
  p      : Nat
  b      : Nat
  r      : Nat
  blocks : Tab Block
  sent   : List Nat                    -- blocks that have entered the write queue
  old    : List Nat := []              -- blocks of which the slice has formed a newer write since (R229, R235)
  deriving DecidableEq, Repr

/-- Why a request stands in the conflict queue. -/
inductive CqWhy where
  | busy | lock | way | evb | staging | rescue | order | queue
  deriving DecidableEq, Repr

/-- The modes of DCT_STATUS.MODE. -/
inductive SliceMode where
  | normal | draining | bypassTest | bypassFailed | channelTest
  deriving DecidableEq, Repr

/-- What a drain is for (R240, R241). -/
inductive DrainFor where
  | slice | channel
  deriving DecidableEq, Repr

/-- A packet of a slice's normal lane. -/
inductive InItem where
  | op (r : SliceReq)
  | walk (w : Walk)
  deriving DecidableEq, Repr

/-- A slice. -/
structure Slice where
  mode     : SliceMode := .normal
  drainFor : DrainFor := .slice
  failed   : Bool := false                   -- its bypass block or arrays failed a test (R242)
  cfg      : Rws := ⟨0x411, 0x411, false⟩    -- DCT_CFG
  lineSel  : Nat := 0
  lines    : Tab Line := []                  -- valid lines, by index
  arr      : Nat := 0                        -- arrivals so far: the order that R296 and R319 name
  busy     : List (Nat × Nat × Nat × Nat) := []  -- sectors being filled: (p, b, r, j)
  locks    : List (Nat × Nat × Nat × LockOwner) := []  -- rows under a line lock (p, b, r)
  inBuf    : List (Nat × InItem) := []       -- normal lane of the input buffer (R271)
  lockLane : List (Nat × GranOp) := []       -- lock lane
  cq       : List (Nat × OpSrc × CqWhy) := [] -- conflict queue (R227)
  ops      : Tab SliceOp := []
  evbs     : Tab Evb := []                   -- the eviction buffers in use, 0-3
  granWait : List (Nat × GranOp) := []       -- granule operations that hold their line lock and wait for a way or an eviction buffer
  out      : List Cmd := []                  -- accesses formed and held until their crossing FIFO has a place (R229, R301, R363)
  grp      : Nat := 0                        -- groups formed so far (R225, R234)
  ret      : List RetRes := []               -- read results that have left the decoder
  walks    : List Walk := []
  walkQ    : List Walk := []                 -- FLUSH walks waiting for a place (R247)
  walkPos  : Nat := 0                        -- line that the sweep reaches next
  promptRr : Nat := 31                       -- last port granted the prompt lane; port 0 comes first after reset (R252)
  promptDue : Tab Bool := []                 -- the other ports of the last contest for the lane, whose reads are still to be admitted: whether each won
  cntRdHit : Cnt64 := {}
  cntRdMiss : Cnt64 := {}
  cntWrHit : Cnt64 := {}
  cntWrMiss : Cnt64 := {}
  cntPrompt : Cnt64 := {}
  cntAlu   : Cnt64 := {}
  cntWbSect : Cnt64 := {}
  cntRefHit : Cnt64 := {}
  cntEvict : Cnt64 := {}
  cntPromptFb : Nat := 0
  cntSramCe : Nat := 0
  cntSramUe : Nat := 0
  cntDiscard : Nat := 0
  waitCq   : WaitCnt := {}
  deriving DecidableEq, Repr

/-- The kind of a press job (R325). -/
inductive JobKind where
  | fill | copy | rangeCrc
  deriving DecidableEq, Repr

/-- A press job context (R325). -/
structure JobCtx where
  port    : Nat
  tag     : Nat
  kind    : JobKind
  cls     : Nat
  noalloc : Bool
  dst     : Nat                 -- destination or start address, bytes
  src     : Nat
  len     : Nat
  pattern : Block
  crcPoly : Nat                 -- SUBOP of a RANGE_CRC
  crc     : Nat                 -- running checksum
  wins    : List Window         -- the window set at admission (R201)
  done    : Nat := 0
  lostblk : Nat := 0
  cancel  : Bool := false
  cut     : Bool := false       -- cancelled by a link-down (R76)
  noted   : Bool := false       -- its job packet has reached the press (R325)
  released : Bool := false      -- released under R155 and R164
  running : Bool := false       -- a chunk of it is running
  waitTest : Bool := false      -- waits at its boundary under step 3 of R329
  waitBuf : Bool := false       -- waits at its boundary for read-buffer space (R299)
  ended   : Bool := false       -- final response formed
  aged    : Bool := false       -- at least 2 us at its boundary (R300)
  reqAged : Bool := false       -- at least 2 us since its release, while its packet is on its way (R262)
  counted : Bool := false       -- counted in BWR_CNT_AGED (R307)
  status  : Status := .ok       -- latest status reached so far
  deriving DecidableEq, Repr

/-- The chunk a press runs (R328, R331). -/
structure Chunk where
  ctx     : Nat
  first   : Nat                 -- first byte of the chunk in the destination range
  len     : Nat
  todo    : List GranOp         -- granule operations not yet issued
  issued  : Bool                -- one is out and its release notice has not come
  reads   : Nat                 -- source granule reads whose data has not arrived
  buf     : Tab BlkRes          -- source blocks in the read buffer, by block number in the chunk
  status  : Status
  lost    : Nat
  deriving DecidableEq, Repr

/-- The modes of PRS_STATUS.MODE. -/
inductive PressMode where
  | normal | quiescing | underTest | failed
  deriving DecidableEq, Repr

/-- A press. -/
structure Press where
  mode     : PressMode := .normal
  cfg      : Rws := ⟨0x40, 0x40, false⟩       -- PRS_CFG
  scrubCfg : Rws := ⟨0x18, 0x18, false⟩       -- PRS_SCRUB_CFG (R484)
  ctxSel   : Nat := 0
  ctxs     : Tab JobCtx := []
  chunk    : Option Chunk := none
  jobBuf   : List Nat := []                   -- job packets in the input buffer, by context (R271)
  arrive   : List (List BlkRes) := []         -- granule data that has come over RSP
  jobRr    : Nat := 95                        -- work selected last, jobs before the contexts of dies (R300)
  allocRr  : Nat := 31                        -- port granted last (R324)
  rdbufFree : Nat := 128                      -- units of 256 bytes (R299)
  cntChunk : Cnt64 := {}
  cntJobEnd : Nat := 0
  cntJobAbort : Nat := 0
  cntLostblk : Nat := 0
  waitRdbuf : WaitCnt := {}
  waitTest : WaitCnt := {}
  deriving DecidableEq, Repr

end Sys2Proof.Machine
end

