-- ==== Sys2Proof/Machine/Alu.lean ====
section
/-! DEFINITION. The slice ALU: the functions of ATOM (R310-R313), the additions of ACCUM (R314-R318) and the merge of a
masked write (R103). -/

namespace Sys2Proof.Machine

/-- A `w`-byte number read as two's complement. -/
def signed (w v : Nat) : Int := if v < 2 ^ (8 * w - 1) then v else (v : Int) - 2 ^ (8 * w)

/-- The new value that an ATOM function gives for old value `m` and operands `a`, `b` of `w` bytes (R311). -/
def atomFn (fn w m a b : Nat) : Nat :=
  match fn with
  | 0 => (m + a) % 2 ^ (8 * w)
  | 1 => if signed w a < signed w m then a else m
  | 2 => if signed w m < signed w a then a else m
  | 3 => if a < m then a else m
  | 4 => if m < a then a else m
  | 5 => m &&& a
  | 6 => m ||| a
  | 7 => m ^^^ a
  | 8 => a
  | _ => if m = a then b else m

/-- `w` bytes at byte offset `o` of a block. -/
def blkField (d : Block) (o w : Nat) : Nat := natBits d.toNat (8 * o) (8 * w)

/-- The block with `w` bytes at byte offset `o` replaced. -/
def blkPut (d : Block) (o w v : Nat) : Block :=
  let m := (2 ^ (8 * w) - 1) <<< (8 * o)
  BitVec.ofNat 512 ((d.toNat ^^^ (d.toNat &&& m)) + ((v % 2 ^ (8 * w)) <<< (8 * o)))

/-- An ATOM on a block: the new block and the old value (R311, R312). -/
def atomBlock (fn w boff a b : Nat) (d : Block) : Block × Nat :=
  let m := blkField d boff w
  (blkPut d boff w (atomFn fn w m (a % 2 ^ (8 * w)) (b % 2 ^ (8 * w))), m)

/-! ### Floating point (R316): 8 exponent bits, `fb` fraction bits -/

/-- The canonical quiet NaN of a format. -/
def fpNan (fb : Nat) : Nat := 255 * 2 ^ fb + 2 ^ (fb - 1)

/-- The magnitude of a finite number in units of the least subnormal. -/
def fpMag (fb v : Nat) : Nat :=
  let e := natBits v fb 8
  let f := v % 2 ^ fb
  if e = 0 then f else (2 ^ fb + f) <<< (e - 1)

/-- A magnitude in units of the least subnormal, rounded once to nearest with ties to even, as exponent and fraction bits;
above the largest finite number it is infinity. -/
def fpRound (fb n : Nat) : Nat :=
  if n < 2 ^ (fb + 1) then n
  else
    let sh := Nat.log2 n - fb
    let q := n >>> sh
    let rem := n % 2 ^ sh
    let half := 2 ^ (sh - 1)
    let q := if half < rem || (rem == half && q % 2 == 1) then q + 1 else q
    min (sh * 2 ^ fb + q) (255 * 2 ^ fb)

/-- The sum of two numbers of a format with `fb` fraction bits (R316). -/
def fpAdd (fb x y : Nat) : Nat :=
  let s := 2 ^ (fb + 8)
  let inf := 255 * 2 ^ fb
  let ax := x % s
  let ay := y % s
  let sx := natBit x (fb + 8)
  let sy := natBit y (fb + 8)
  if inf < ax || inf < ay then fpNan fb
  else if ax = inf && ay = inf then (if sx == sy then x % (2 * s) else fpNan fb)
  else if ax = inf then x % (2 * s)
  else if ay = inf then y % (2 * s)
  else
    let mx := fpMag fb ax
    let my := fpMag fb ay
    if sx == sy then
      (if sx then s else 0) + fpRound fb (mx + my)
    else if mx = my then 0
    else if my < mx then (if sx then s else 0) + fpRound fb (mx - my)
    else (if sy then s else 0) + fpRound fb (my - mx)

/-- The width in bytes of an ACCUM element (R102). -/
def accumWidth (ty : Nat) : Nat := match ty with | 0 => 2 | 3 => 8 | _ => 4

/-- The sum of a memory element and a payload element (R315, R316). -/
def accumElem (ty m p : Nat) : Nat :=
  match ty with
  | 0 => fpAdd 7 m p
  | 1 => fpAdd 23 m p
  | 2 => (m + p) % 2 ^ 32
  | _ => (m + p) % 2 ^ 64

/-- All elements of a block updated at once (R314). -/
def accumBlock (ty : Nat) (d p : Block) : Block :=
  let w := accumWidth ty
  (below (64 / w)).foldl (fun acc i => blkPut acc (w * i) w (accumElem ty (blkField d (w * i) w) (blkField p (w * i) w))) d

/-- The bit mask that byte enables select (R103). -/
def maskBits (m : BitVec 64) : Nat :=
  (below 64).foldl (fun a i => if m.getLsbD i then a + (255 <<< (8 * i)) else a) 0

/-- The merge of a masked write: enabled bytes from `p`, the others from `d` (R103). -/
def mergeBlock (m : BitVec 64) (d p : Block) : Block :=
  let k : Block := BitVec.ofNat 512 (maskBits m)
  (p &&& k) ||| (d &&& ~~~k)

/-- What an operation makes of a block's old contents: the new contents, and the old value that an ATOM returns. -/
def aluBlock (k : AccKind) (acc : BlockAcc) (d : Block) : Block × Nat :=
  match k with
  | .atom fn w boff a b => atomBlock fn w boff a b d
  | .accum ty => (accumBlock ty d acc.data, 0)
  | .wrMasked => (mergeBlock acc.mask d acc.data, 0)
  | .wr => (acc.data, 0)
  | .rd => (d, 0)

end Sys2Proof.Machine
end

