-- ==== Sys2Proof/Machine/StChan.lean ====
section
/-! DEFINITION. The state of a channel controller and its two pseudo-channels (R350-R490), and of remapping, row
retirement, scrub and racking (R204-R214, R464-R480). -/

namespace Sys2Proof.Machine

/-- The commands of the TSV command path (R353). -/
inductive DramCmd where
  | act (bank row nr : Nat)
  | pre (bank : Nat)
  | prea
  | refab
  | clrAlert
  | rd (bank block : Nat)
  | wr (bank block : Nat)
  | mrw (mr data : Nat)
  | mrr (mr : Nat)
  deriving DecidableEq, Repr

/-- What a command bus carries in a cycle: the half at the rising edge, the half at the falling edge, and the parity bit
(R351, R352). -/
structure BusWord where
  rise   : Nat
  fall   : Nat
  parity : Bool
  deriving DecidableEq, Repr

/-- An entry of the command retry buffer (R384): the command, for RD and WR the queued access it came from, and for WR
the 576-bit block as it goes to the die. -/
structure RetryEnt where
  p      : Nat
  cmd    : DramCmd
  access : Option Cmd
  data   : Nat            -- 512 data bits, as stored (scrambled)
  check  : Nat            -- 64 check bits, as stored
  wait   : Bool := false  -- retained by a replay that has still to reissue it (R387 step 5)
  aux    : Bool := false  -- of a replay itself: CLR_ALERT, PREA, a re-open; or a REFab that issues while a replay retains commands
  deriving DecidableEq, Repr

/-- A block on its way to the decoder (R364): the access, the block as it came and the place it was read from. -/
structure Burst where
  access : Cmd
  data   : Nat            -- 512 bits as received
  check  : Nat            -- 64 bits as received
  fwd    : Bool           -- served from a queued write (R361), so not scrambled
  newer  : Bool           -- a newer write of the block has reached DRAM since (R45)
  deriving DecidableEq, Repr

/-- The states of CHC_PC_STATE.STATE. -/
inductive PcState where
  | untrained | training | normal | retrainHold | rescue | fenced
  deriving DecidableEq, Repr

/-- A lane setting (R397). -/
structure Setting where
  delay : Nat
  vref  : Nat
  deriving DecidableEq, Repr

/-- A row-tracker entry (R459). -/
structure Track where
  bank  : Nat
  row   : Nat
  count : Nat
  deriving DecidableEq, Repr

/-- A pending change of settings (R399): the settings it gives, and the MRWs of them that have still to issue. -/
structure Change where
  set  : Tab Setting
  todo : List (Nat × Nat)
  deriving DecidableEq, Repr

/-- The progress of one direction of a calibration pass (R426): the windows ended so far, each with its lanes. -/
structure CalDir where
  wins    : List (List (Nat × Nat × Nat × Nat)) := []   -- per window: (lane, D, T, N)
  outcome : Nat := 0                                     -- 0 while running
  deriving DecidableEq, Repr

/-- A calibration pass (R425). -/
structure CalPass where
  startUs : Nat
  monD    : Nat := 12          -- the monitor offsets of the pass (R440: CHC_CAL_CFG applies from the next pass)
  monV    : Nat := 6
  stopped : Bool := false      -- its pseudo-channel has left NORMAL, replays, or its channel is in test: it ends CAL_SKIPPED (R425)
  rd      : CalDir := {}
  wr      : CalDir := {}
  byCmd   : Bool := false      -- run by CALIBRATE (R434)
  deriving DecidableEq, Repr

/-- A pseudo-channel. -/
structure Pc where
  state     : PcState := .untrained
  rate4     : Bool := false
  laneMap   : Nat := 0                     -- CHC_LANE_MAP: the symbols on the spare lanes and the erasures (R412, R413)
  pathFail  : Bool := false                -- its block-code path failed the self-test (R463)
  fifo      : List Cmd := []               -- the command FIFO of the crossing from CK_CORE, at most 16 (R39, R363)
  rrSlice   : Nat := 63                    -- the slice served last, at a reserve controller (R31)
  rrGrp     : Nat := 0                     -- the group of the command taken from it last
  seq       : Nat := 0                     -- commands that have entered the queues so far (R272)
  grpOpen   : Tab (List (Nat × Nat)) := [] -- per open bank, the groups that have taken a column command under its ACT: (slice, group)
  rq        : List Cmd := []               -- read queue (R272)
  wq        : List Cmd := []               -- write queue
  wmode     : Bool := false                -- bus in write mode (R273)
  openRows  : Tab (Nat × Nat) := []        -- open banks: (row, NR)
  bursts    : List Burst := []             -- reads whose bursts have not been decoded
  changes   : List Change := []            -- pending changes of settings, in order (R398, R399)
  base      : Option Int := none           -- temperature in eighths of a degree at which an unlisted setting in force was evaluated
  inForce   : Tab Setting := []            -- settings in force, key group * 64 + lane
  points    : Tab Setting := []            -- stored points, key set * 256 + group * 64 + lane (R430)
  mrs       : Tab Nat := []                -- core-die mode registers that hold no setting (R400; Chc.mr)
  laneMux   : Nat := 0                     -- the active copy of LANE_MUX in the core die (R400)
  mrrs      : List Nat := []               -- mode registers whose MRR has still to issue (R401)
  mrPend    : Tab Nat := []                -- pending copies that MRW has written and no REFab has made active (R398)
  alert     : Bool := false                -- the core die holds ALERT high (R386)
  modelRows : Tab (Nat × Nat) := []        -- the bank model of the commands that have retired: open banks with (row, NR) (R380, R387)
  reopens   : Tab (Nat × Nat) := []        -- the rows that a replay opens again (R387 step 4)
  script    : List DramCmd := []           -- what a replay has to issue before it reissues: CLR_ALERT, PREA, the re-opens (R387)
  timerOn   : Bool := false                -- the refresh timer has started (R372)
  timer     : Nat := 0                     -- units of 5 ns (R367)
  owed      : Nat := 0
  urgent    : Nat := 0                     -- due points that became holds (R369, R391)
  actAt     : Option Nat := none           -- CK_KEEP cycle of its scheduler's last ACT (R509)
  band      : Nat := 0
  bandPend  : Option Nat := none           -- a band that waits (R374)
  payLeft   : Nat := 0                     -- REFabs of the payment still to issue (R375)
  paying    : Bool := false
  ppmPend   : Bool := false                -- a lower POSTPONE_MAX waits for the payment's end (R377)
  postMax   : Nat := 8                     -- POSTPONE_MAX in force for this pseudo-channel
  inRef     : Bool := false                -- within tRFC (R370)
  refCtr    : Nat := 0                     -- the die's refresh counter, in steps of 6 rows (R371)
  replaying : Bool := false
  fails     : Nat := 0                     -- failed replays of the episode
  rescueStep : Nat := 0                    -- 1 training, 2 write-back, 3 racking (R419); 0 none
  rescueWb  : Bool := false                -- the work under way at the rescue's start is done, and lines are written back (R239)
  rescueAt  : Nat := 0                     -- CK_KEEP cycle at which rescue step 1 began
  rescueRows : Nat := 0                    -- rows racked in the rescue
  rescueTimes : List Nat := []             -- times in ns of the last rows racked, newest first, at most 256 (R423)
  rescueMark : Nat := 0                    -- CK_KEEP cycle of the last row's release, or of the start of step 3
  cal       : Option CalPass := none
  outcome   : Nat := 0                     -- CHC_CAL_STATUS.OUTCOME
  dens      : Nat := 0
  track     : Tab Track := []              -- row tracker, entries 0-15
  eccLast   : Nat := 0                     -- CHC_ECC_LAST word
  vectors   : Nat := 0                     -- vectors passed in the last self-test
  chkFail   : Bool := false
  acts      : Tab Nat := []                -- ACTs per bank since the last histogram (R396)
  runRetry  : Bool := false                -- the compare run in progress was run again after an ALERT (R720)
  ownRun    : Option (Bool × Nat) := none  -- the compare run of the training's own sweeps that was run again last (R720)
  lost8     : Bool := false                -- a second ALERT has ruled 8 Gb/s out for the training in progress (R720)
  lost4     : Bool := false                -- and 4 Gb/s
  rowBus    : BusWord := ⟨0, 0, false⟩        -- last word on the row bus (R351)
  colBus    : BusWord := ⟨0, 0, false⟩
  deriving DecidableEq, Repr

/-- The test state of a block that a field test can name (R551). -/
inductive TestState where
  | normal | quiescing | quiesced | underTest | failed
  deriving DecidableEq, Repr

/-- The symbol on spare lane 36 (R412). -/
def Pc.s36 (pc : Pc) : Option Nat := if natBit pc.laneMap 31 then some (natBits pc.laneMap 24 6) else none
/-- The symbol on spare lane 37. -/
def Pc.s37 (pc : Pc) : Option Nat := if natBit pc.laneMap 23 then some (natBits pc.laneMap 16 6) else none
/-- The first erased symbol (R413). -/
def Pc.e0 (pc : Pc) : Option Nat := if natBit pc.laneMap 15 then some (natBits pc.laneMap 8 6) else none
/-- The second erased symbol. -/
def Pc.e1 (pc : Pc) : Option Nat := if natBit pc.laneMap 7 then some (natBits pc.laneMap 0 6) else none

/-- A channel controller. -/
structure Chc where
  pcs       : Tab Pc := []
  retry     : List RetryEnt := []          -- command retry buffer, oldest first (R384)
  rng       : Nat := 0                     -- the sampler's generator (R382)
  test      : TestState := .normal
  bistFail  : Bool := false                -- failed boot or field test
  schedCfg  : Rws := ⟨0x20, 0x20, false⟩
  refCfg    : Rws := ⟨0x18, 0x18, false⟩
  rdCfg     : Rws := ⟨0x09, 0x09, false⟩
  calCfg    : Rws := ⟨0x01060C0A, 0x01060C0A, false⟩
  eccCfg    : Rws := ⟨0x13, 0x13, false⟩
  trnCtl    : Nat := 0                     -- CHC_TRN_CTL but START
  patLo     : Nat := 0
  patHi     : Nat := 0
  trnBusy   : Bool := false
  trnDone   : Bool := false
  trnFail   : Nat := 0                     -- 38-bit mask of lanes that mismatched
  trnCnts   : Tab Nat := []                -- mismatches per lane
  trnSel    : Nat := 0
  runCtl    : Nat := 0                     -- parameters captured at START (R407)
  runPat    : Nat := 0
  calSel    : Nat := 0
  trkSel    : Nat := 0
  cntAct    : Cnt64 := {}
  cntRef    : Nat := 0
  cntRefDebt : Nat := 0
  cntNr1    : Nat := 0
  cntNr2    : Nat := 0
  cntAlert  : Nat := 0
  cntReplayFail : Nat := 0
  cntRetrain : Nat := 0
  cntFwd    : Nat := 0
  waitQ     : WaitCnt := {}
  cntCalAcc : Nat := 0
  cntCalRef : Nat := 0
  cntLane   : Nat := 0
  cntCorr   : Nat := 0
  cntChkonly : Nat := 0
  cntRewrite : Nat := 0
  cntPoisoned : Nat := 0
  cntMisdir : Nat := 0
  cntUndec  : Nat := 0
  deriving DecidableEq, Repr

/-- A bank-remap entry (R204). -/
structure Remap where
  valid   : Bool := false
  cause   : Nat := 0
  racking : Bool := false
  bank    : Nat := 0
  copied  : Bool := false       -- its rescue racking has copied every row, and RACKING falls at step 4 of the rescue (R419, R478)
  deriving DecidableEq, Repr

/-- A row-remap entry (R468). -/
structure RowMap where
  valid    : Bool := false
  racking  : Bool := false
  unusable : Bool := false
  row      : Nat := 0
  deriving DecidableEq, Repr

/-- The kind of a racking (R475). -/
inductive RackKind where
  | row | bank | rescue
  deriving DecidableEq, Repr

/-- A racking in progress or queued. -/
structure RackJob where
  kind   : RackKind
  bank   : Nat             -- device-wide data bank
  row    : Nat             -- the row, or the row pointer of a bank racking (R478)
  entry  : Nat             -- row-remap or bank-remap entry
  prev   : Option Nat := none  -- row entry that becomes unusable at the end (R470)
  copied : Nat := 0
  corr   : Nat := 0
  lost   : Nat := 0
  poison : Bool := false   -- the remaining rows are written in the poisoned form (R421)
  logged : Bool := false   -- its STARTED record has been written (R474)
  deriving DecidableEq, Repr

/-- A racking row whose 16 writes have not all entered the write queue (R297). -/
structure RackRow where
  bank  : Nat
  row   : Nat
  left  : Nat
  deriving DecidableEq, Repr

/-- The scrub and racking contexts of a die's press (R343). -/
structure DieCtx where
  scrubOn   : Bool := false              -- a pass is in progress
  scrubRow  : Nat := 0                   -- position of the pass (R464)
  scrubLc   : Nat := 0
  scrubP    : Nat := 0
  scrubB    : Nat := 0
  scrubPeriod : Nat := 0                 -- PERIOD of the pass in progress
  scrubOut  : Nat := 0                   -- reads of its rows that are not back yet (R467)
  scrubDue  : Bool := false              -- the spacing timer has expired and the row it has reached is to be read (R465)
  scrubSince : Nat := 0                  -- CK_KEEP cycle at which its scrub context became ready for its row (R300)
  rackSince : Nat := 0                   -- CK_KEEP cycle at which its racking context reached its row boundary (R300)
  passes    : Nat := 0
  passStart : Nat := 0                   -- CK_KEEP cycle
  passCorr  : Nat := 0
  passLost  : Nat := 0
  queue     : List RackJob := []         -- queued rackings, in order (R475)
  cur       : Option RackJob := none
  rowOut    : Option RackRow := none     -- the row being copied
  lockWait  : Option RowLoc := none      -- the row whose line lock the racking context asks for
  deriving DecidableEq, Repr

end Sys2Proof.Machine
end

