-- ==== Sys2Proof/Machine/Code.lean ====
section
/-! DEFINITION. The codes: the end-to-end and record checks (R175, R336), the block code (R443-R448) with its poisoned
form (R451), and the lane scrambler (R424). -/

namespace Sys2Proof.Machine

/-! ### Cyclic codes -/

/-- One bit of a reflected 32-bit CRC. -/
def crcStepR (rpoly crc : Nat) : Nat := if crc % 2 = 1 then (crc >>> 1) ^^^ rpoly else crc >>> 1

/-- One byte into a reflected 32-bit CRC (R336). -/
def crcByteR (rpoly crc : Nat) (b : Byte) : Nat :=
  (below 8).foldl (fun c _ => crcStepR rpoly c) (crc ^^^ b.toNat)

/-- The running reflected CRC over bytes, without initial value and final XOR. -/
def crcRunR (rpoly crc : Nat) (bs : List Byte) : Nat := bs.foldl (crcByteR rpoly) crc

/-- The bit-reversed polynomials of R336: SUBOP 0 and 1. -/
def rpolyOf (sub : Nat) : Nat := if sub = 1 then 0xEDB88320 else 0x82F63B78

/-- A reflected CRC-32 with initial value and final XOR all ones (R175). -/
def crc32 (rpoly : Nat) (bs : List Byte) : Nat := crcRunR rpoly max32 bs ^^^ max32

/-- CRC32C, which the fuse check words and the cellar book's records use too (R175, R601, R617). -/
def crc32c (bs : List Byte) : Nat := crc32 0x82F63B78 bs

/-- One byte into the 16-bit CRC with polynomial 0x1021, most significant bit first (R175). -/
def crc16Byte (crc : Nat) (b : Byte) : Nat :=
  (below 8).foldl (fun c _ => (if natBit c 15 then (c <<< 1) ^^^ 0x1021 else c <<< 1) % 65536) (crc ^^^ (b.toNat <<< 8))

/-- The 16-bit check of R175. -/
def crc16 (bs : List Byte) : Nat := bs.foldl crc16Byte 0xFFFF

/-- The check that an E2E_POLY value names; 11 is taken as 00 (R175). -/
def e2eCrc (poly : Nat) (bs : List Byte) : Nat :=
  match poly with
  | 1 => crc32 0x82F63B78 bs
  | 2 => crc32 0xEDB88320 bs
  | _ => crc16 bs

/-- The message of an end-to-end check (R174). -/
def e2eMessage (addr seq : Nat) (payload : List Byte) : List Byte := leBytes 5 addr ++ leBytes 2 seq ++ payload

/-! ### GF(2^16) on 0x1_100B (R443) -/

/-- Multiply by alpha. -/
def gfX (a : Nat) : Nat := if a < 32768 then a <<< 1 else ((a <<< 1) ^^^ 0x1100B) % 65536

/-- Multiply, with `n` bits of the second factor. -/
def gfMulN : Nat → Nat → Nat → Nat
  | 0, _, _ => 0
  | n + 1, a, b => (if b % 2 = 1 then a else 0) ^^^ gfMulN n (gfX a) (b >>> 1)

/-- The product. -/
def gfMul (a b : Nat) : Nat := gfMulN 16 a b

/-- `a` to the power 2^n - 1 ... used for the inverse: the product of `a^(2^i)` for `1 ≤ i ≤ n`. -/
def gfSqProd : Nat → Nat → Nat
  | 0, _ => 1
  | n + 1, a => let s := gfMul a a; gfMul s (gfSqProd n s)

/-- The inverse of a non-zero element: a^(2^16 - 2). -/
def gfInv (a : Nat) : Nat := gfSqProd 15 a

/-- alpha^i. -/
def gfPow : Nat → Nat
  | 0 => 1
  | n + 1 => gfX (gfPow n)

/-- The coefficients g0..g3 of the monic generator polynomial with roots alpha^0..alpha^3 (R446), built from its roots. -/
def genPoly : List Nat :=
  ((below 4).foldl (fun p i =>
    -- multiply p (lowest first, monic top coefficient included) by (x + alpha^i)
    let r := gfPow i
    List.zipWith (fun hi lo => hi ^^^ lo) (0 :: p) ((p.map (gfMul r)) ++ [0])) [1]).take 4

/-- One step of the division of R446: the remainder after taking in coefficient `m`, highest first. -/
def encStep (g : List Nat) (r : List Nat) (m : Nat) : List Nat :=
  let fb := m ^^^ r.getD 3 0
  (below 4).map (fun i => (if i = 0 then 0 else r.getD (i - 1) 0) ^^^ gfMul fb (g.getD i 0))

/-- The check symbols q0..q3 of 35 coefficients d0..d31, a0, a1, a2 (R446). -/
def encode (m : List Nat) : List Nat := m.reverse.foldl (encStep genPoly) [0, 0, 0, 0]

/-- The virtual symbols of a physical place (R444, R445). -/
def virtSyms (l : Phys) (poison : Bool) : List Nat :=
  [l.r, fld' 9 7 l.k + fld' 8 1 l.p + fld' 4 4 l.b + fld' 0 4 l.j, if poison then 0x8000 else 0]
where fld' (lo w v : Nat) : Nat := (v % 2 ^ w) * 2 ^ lo

/-- The 32 data symbols of a block (R28). -/
def dataSyms (d : Nat) : List Nat := (below 32).map (fun s => natBits d (16 * s) 16)

/-- The number whose 16-bit digits are the given symbols. -/
def symsNat : List Nat → Nat
  | [] => 0
  | s :: t => s + 65536 * symsNat t

/-- The 64 check bits of a block at a place (R446); the poisoned form carries POISON (R451). -/
def checkOf (l : Phys) (poison : Bool) (d : Nat) : Nat := symsNat (encode (dataSyms d ++ virtSyms l poison))

/-- A block as it is stored: its 512 data bits and 64 check bits, before scrambling; the poisoned form has data 0 (R451). -/
def storedForm (l : Phys) (poison : Bool) (d : Nat) : Nat × Nat :=
  let d := if poison then 0 else d % 2 ^ 512
  (d, checkOf l poison d)

/-! ### The decoder -/

/-- The received word as its 39 positions (R444): q0..q3, d0..d31, and the virtual symbols of the place asked for. -/
def received (l : Phys) (d q : Nat) : List Nat :=
  (below 4).map (fun i => natBits q (16 * i) 16) ++ dataSyms d ++ virtSyms l false

/-- The polynomial with coefficients `w` (lowest first) at `x`. -/
def polyAt (x : Nat) : List Nat → Nat
  | [] => 0
  | c :: t => c ^^^ gfMul x (polyAt x t)

/-- The four syndromes of a word (R446). -/
def syndromes (w : List Nat) : List Nat := (below 4).map (fun i => polyAt (gfPow i) w)

/-- The polynomial with the given roots, lowest coefficient first, monic. -/
def locator : List Nat → List Nat
  | [] => [1]
  | x :: t =>
    let p := locator t
    List.zipWith (fun hi lo => hi ^^^ lo) (0 :: p) ((p.map (gfMul x)) ++ [0])

/-- The XOR of products of two lists. -/
def gfDot : List Nat → List Nat → Nat
  | a :: s, b :: t => gfMul a b ^^^ gfDot s t
  | _, _ => 0

/-- Whether errors confined to positions with locators `xs` explain the syndromes. -/
def explains (syn xs : List Nat) : Bool :=
  let lam := locator xs
  (below (4 - xs.length)).all (fun i => gfDot lam (syn.drop i) == 0)

/-- The error value at locator `x`, the other locators being `others`. -/
def errorValue (syn : List Nat) (x : Nat) (others : List Nat) : Nat :=
  let den := others.foldl (fun a y => gfMul a (x ^^^ y)) 1
  gfMul (gfDot (locator others) syn) (gfInv den)

/-- The error values at a set of positions. -/
def errorValues (syn : List Nat) (pos : List Nat) : List (Nat × Nat) :=
  pos.map (fun p => (p, errorValue syn (gfPow p) ((pos.filter (· != p)).map gfPow)))

/-- The `e`-element sets of positions below 39 outside `er`, rising. -/
def posSets (er : List Nat) : Nat → List (List Nat)
  | 0 => [[]]
  | e + 1 => (posSets er e).flatMap (fun s =>
      (below 39).filterMap (fun p =>
        if !er.contains p && (match s with | [] => true | h :: _ => p < h) then some (p :: s) else none))

/-- The solution with exactly `e` errors beside the erasures, if there is one. -/
def solveWith (syn er : List Nat) (e : Nat) : Option (List (Nat × Nat)) :=
  (posSets er e).findSome? (fun s =>
    if explains syn ((er ++ s).map gfPow) then
      let vs := errorValues syn (er ++ s)
      if s.all (fun p => vs.any (fun v => v.1 == p && v.2 != 0)) then some vs else none
    else none)

/-- The solution nearest the received word with 2e + f ≤ 4 (R447): its errors, and the values at the positions changed. -/
def solve (syn er : List Nat) : Option (Nat × List (Nat × Nat)) :=
  (below ((4 - er.length) / 2 + 1)).findSome? (fun e => (solveWith syn er e).map (fun vs => (e, vs)))

/-- The decode outcomes of R448. -/
inductive DecodeOut where
  | undecodable | poisoned | misdirected | corrected | erased | clean
  deriving DecidableEq, Repr

/-- What the decoder finds: the outcome, the data, the error positions (not erasures). -/
structure Decoded where
  outcome : DecodeOut
  data    : Block
  errs    : List Nat
  deriving DecidableEq, Repr

/-- The codeword position of a symbol number as CHC_LANE_MAP numbers symbols (R447). -/
def posOfSym (s : Nat) : Nat := if s < 32 then s + 4 else s - 32

/-- The symbol number of a stored position. -/
def symOfPos (p : Nat) : Nat := if p < 4 then p + 32 else p - 4

/-- Decode a received block of place `l` with the erased symbols `er` (R447, R448). -/
def decode (l : Phys) (er : List Nat) (d q : Nat) : Decoded :=
  let w := received l d q
  let eps := er.map posOfSym
  match solve (syndromes w) eps with
  | none => ⟨.undecodable, 0, []⟩
  | some (e, vs) =>
    let errs := (vs.filter (fun v => !eps.contains v.1)).map (·.1)
    let virt := vs.filter (fun v => 36 ≤ v.1)
    let fix := (below 32).map (fun s => natBits d (16 * s) 16 ^^^
      ((vs.find? (fun v => v.1 == s + 4)).elim 0 (·.2)))
    let data : Block := BitVec.ofNat 512 (symsNat fix)
    if virt == [(38, 0x8000)] then ⟨.poisoned, 0, errs⟩
    else if !virt.isEmpty then ⟨.misdirected, 0, errs⟩
    else if 1 ≤ e then ⟨.corrected, data, errs⟩
    else if !er.isEmpty then ⟨.erased, data, []⟩
    else ⟨.clean, data, []⟩

/-! ### The scrambler (R424) -/

/-- `n` output bits of the 31-bit LFSR x^31 + x^28 + 1, first output in bit 0. DEDUCED: the output is the bit shifted out
at the top, log entry 10. -/
def lfsrOut : Nat → Nat → Nat
  | 0, _ => 0
  | n + 1, s =>
    let top := natBits s 30 1
    let fb := top ^^^ natBits s 27 1
    top + 2 * lfsrOut n ((s <<< 1) % 2 ^ 31 + fb)

/-- The scramble word of lane `l` for a block (R424). -/
def scrambleWord (l : Nat) (ph : Phys) : Nat :=
  let s := ((16 * ph.r + ph.j) ^^^ (ph.b * 2 ^ 20) ^^^ (l * 2 ^ 25)) % 2 ^ 31
  lfsrOut 16 (if s = 0 then 1 else s)

/-- The lane that carries symbol `s` of a pseudo-channel: a spare that a repair moved it to, or its own (R27, R412). -/
def Pc.laneOf (pc : Pc) (s : Nat) : Nat :=
  if pc.s36 == some s then 36 else if pc.s37 == some s then 37 else s

/-- The 512-bit and 64-bit scramble masks of a block (R424). -/
def scrambleMask (pc : Pc) (off : Bool) (ph : Phys) : Nat × Nat :=
  if off then (0, 0)
  else
    (symsNat ((below 32).map (fun s => scrambleWord (pc.laneOf s) ph)),
     symsNat ((upFrom 32 4).map (fun s => scrambleWord (pc.laneOf s) ph)))

/-- A block on the data lanes with the lanes of the erased symbols `er` driven low (R413). -/
def lanesLow (er : List Nat) (d q : Nat) : Nat × Nat :=
  er.foldl (fun x s =>
    if s < 32 then (x.1 - natBits x.1 (16 * s) 16 * 2 ^ (16 * s), x.2)
    else (x.1, x.2 - natBits x.2 (16 * (s - 32)) 16 * 2 ^ (16 * (s - 32)))) (d, q)

end Sys2Proof.Machine

namespace Sys2Proof

/-- A checker self-test passes only when all 40 outcomes match and the count of vectors run is 40 (R462). -/
def CheckerRun.passes (v : CheckerRun) : Bool := v.matched.val == 40 && v.ran.val == 40

end Sys2Proof
end

