-- ==== Sys2Proof/Config.lean ====
section
/-! DEFINITION. What an implementation fixes and the manual leaves open, as free values: each is a constant without a body, so no proof can rest on a value of it. -/

namespace Sys2Proof
namespace Config

/-- The byte that a core-die cell holds before anything has written it in this power-up: `coldCell epoch addr`.
R344 and R457 say that every block then holds whatever its cells hold. Free value, log entry 1. -/
opaque coldCell : Nat → Nat → Byte

/-- The pattern sampled on a strap group that did not hold its level through the sampling (R41, R701): `floatStrap n`.
Free value, log entry 2. -/
opaque floatStrap : Nat → BitVec 10

/-- Whether a RESET_N pulse of at least 50 ns and less than 1 us is seen (R693): `shortPulse n`. Free value, log entry 3. -/
opaque shortPulse : Nat → Bool

/-- The contents of a UCIe adapter or physical-layer register, which the standard and not this manual defines (R52):
`ucieReg port addr n`. Free value, log entry 4. -/
opaque ucieReg : Nat → Nat → Nat → Word

/-- The device counter mixed into the neighbour sampler's seed (R382): `samplerEntropy n`. Free value, log entry 5. -/
opaque samplerEntropy : Nat → Nat

/-- The compensated trim that THM forms from the mean temperature (R513), whose transfer function the manual does not
give: `trimComp which mean fused`, `which` 0 for the CK_KEEP oscillator and 1 for the base-die references, `mean` 840
times the mean in quarter degrees, a whole number for any count of sensors up to 8. Free value, log entry 6. -/
opaque trimComp : Nat → Int → Nat → Int

/-- The calibration settings that the factory wrote as generation 1 (R437, R715), whose values the manual does not give:
`factoryCal i` is the 16-bit setting number `i` of the set. Free value, log entry 8. -/
opaque factoryCal : Nat → Nat

/-- The ones density shown after a calibration pass in which no window ended, which the manual does not give (CHC_CAL_STATUS):
`noDensity n`. Free value, log entry 9. -/
opaque noDensity : Nat → Nat

/-- The shift of a lane whose monitor window saw no transition, where R428 would divide by 0: `noTransition d- d+`, of which the
model takes a value from -4 to 4. Free value, log entry 9. -/
opaque noTransition : Nat → Nat → Nat

/-- Which of several longest runs of passing codes a sweep with this mask takes for its window, which the manual does not say (R409):
`windowTie mask`. Free value, log entry 53. -/
opaque windowTie : Nat → Nat

/-- The mismatches that a lane of a compare run had reached when its pseudo-channel left the states of R406, which ends the run sooner
(R407): `runReached n lane`. Free value, log entry 53. -/
opaque runReached : Nat → Nat → Nat

/-- Whether a fuse whose programming pulse was cut short reads 1 at the normal reference (R616): `cutFuse n`. Free value, log
entry 11. -/
opaque cutFuse : Nat → Bool

/-- What a record write that was cut short leaves in the copy it was writing (R517, R619, R694), `cutRecord n`: 0 the copy as it
was, 1 a copy whose CRC fails, anything else the new record. Free value, log entry 12. -/
opaque cutRecord : Nat → Nat

/-- ARG of a reply for which the manual gives none: BAD_PARAM for a packet whose header breaks R643, so that no parameter is bad
(R656), and FAILED of CAL_STORE and NVM_WRITE (R658), `openArg n`. Free value, log entry 16. -/
opaque openArg : Nat → Nat

/-- The MIPI manufacturer ID of the provisional ID (R647), which the manual does not give. Free value, log entry 17. -/
opaque mipiManufacturer : Nat

/-- The status word that GETSTATUS returns (R647), whose fields the I3C standard and not this manual defines: `i3cStatus n`. Free
value, log entry 17. -/
opaque i3cStatus : Nat → Nat

end Config
end Sys2Proof
end

