-- ==== Sys2Proof/Machine/Mem.lean ====
section
/-! DEFINITION. The core-die cells (R7, R24, R25): memory as a list of (address, byte) pairs with addresses rising, where an
unlisted byte has not been written since the memory was last lost and reads as its cell does (R344, R457). -/

namespace Sys2Proof.Machine

/-- The cells of the core dies that have been written. -/
abbrev Memory := List Host.Cell

/-- The canonical form: addresses rising, and no entry equal to what an unlisted address reads as. -/
def Memory.wf (epoch : Nat) : Memory → Bool
  | [] => true
  | [(a, b)] => b != Config.coldCell epoch a
  | (a, b) :: (a', b') :: t => b != Config.coldCell epoch a && a < a' && Memory.wf epoch ((a', b') :: t)

/-- The byte at an address. -/
def Memory.read (epoch : Nat) : Memory → Nat → Byte
  | [], a => Config.coldCell epoch a
  | (k, b) :: t, a => if a = k then b else Memory.read epoch t a

/-- The memory with a byte listed at an address. -/
def Memory.insert : Memory → Nat → Byte → Memory
  | [], a, v => [(a, v)]
  | (k, b) :: t, a, v =>
    if a = k then (a, v) :: t else if a < k then (a, v) :: (k, b) :: t else (k, b) :: Memory.insert t a v

/-- The memory without an entry at an address. -/
def Memory.erase : Memory → Nat → Memory
  | [], _ => []
  | (k, b) :: t, a => if a = k then t else (k, b) :: Memory.erase t a

/-- Write one byte. -/
def Memory.write (epoch : Nat) (m : Memory) (a : Nat) (v : Byte) : Memory :=
  if v = Config.coldCell epoch a then m.erase a else m.insert a v

/-- Write bytes from an address on. -/
def Memory.writeBytes (epoch : Nat) : Memory → Nat → List Byte → Memory
  | m, _, [] => m
  | m, a, v :: t => Memory.writeBytes epoch (m.write epoch a v) (a + 1) t

/-- The address of the first byte of a block: 72 bytes for each of the 16 blocks of the 49,168 rows of a bank, banks in the
order of R24. -/
def Phys.addr (l : Phys) : Nat := (((32 * l.k + 16 * l.p + l.b) * 49168 + l.r) * 16 + l.j) * 72

/-- `n` bytes from an address on, as a little-endian number. -/
def Memory.readNat (epoch : Nat) (m : Memory) : Nat → Nat → Nat
  | _, 0 => 0
  | a, n + 1 => (m.read epoch a).toNat + 256 * Memory.readNat epoch m (a + 1) n

/-- A block as stored: its 512 data bits and its 64 check bits. -/
def Memory.block (epoch : Nat) (m : Memory) (l : Phys) : Nat × Nat :=
  (m.readNat epoch l.addr 64, m.readNat epoch (l.addr + 64) 8)

/-- Store a block's data and check bits. -/
def Memory.putBlock (epoch : Nat) (m : Memory) (l : Phys) (d q : Nat) : Memory :=
  m.writeBytes epoch l.addr (leBytes 64 d ++ leBytes 8 q)

end Sys2Proof.Machine
end

