-- ==== Sys2Proof/Machine/StFlt.lean ====
section
/-! DEFINITION. The state of the fault collector and its pins (R562-R597), of the error ring (R481-R490), of the
bandwidth regulator (R277-R309) and of the address map and windows (R186-R214). -/

namespace Sys2Proof.Machine

/-- An event of the fault catalogue (R594): class 1 corrected, 2 uncorrected-contained, 3 fatal (R572). -/
structure Event where
  cls    : Nat
  code   : Nat
  detail : Nat
  deriving DecidableEq, Repr

/-- The event register of a block (R563, R564): the earliest unfetched event, the count behind it, and the level
conditions that last. -/
structure EvReg where
  pend   : Option Event := none
  count  : Nat := 0
  levels : List Event := []
  owed   : Option Event := none  -- a fatal level condition that began behind an unfetched event (R515, R583)
  fatal  : Bool := false         -- the block has met a fatal condition (R582)
  deriving DecidableEq, Repr

/-- A record of FLT (R568). -/
structure FltRec where
  ev    : Event
  multi : Nat
  deriving DecidableEq, Repr

/-- A captured line whose event has not been fetched: the block, the capture it belongs to, its time, and the blocks whose lines were
captured with it (R565, R575). -/
structure Capture where
  blk   : Nat
  grp   : Nat
  time  : Nat
  blank : Bool             -- captured while a window over the block was open (R578)
  mates : List Nat := []
  deriving DecidableEq, Repr

/-- The first event (R574, R575). -/
structure First where
  ev   : Event
  blk  : Nat
  time : Nat
  grp  : Nat
  also : List Nat
  done : Bool              -- every line captured with it has been fetched
  deriving DecidableEq, Repr

/-- An open blanking window: the reacting block and its neighbour mask (R577). -/
structure BlankWin where
  blk   : Nat
  mask  : List Nat
  closes : Nat             -- CK_KEEP cycle
  deriving DecidableEq, Repr

/-- The fault collector. -/
structure Flt where
  on        : Bool := false          -- capture has begun (R567)
  evs       : Tab EvReg := []
  high      : List Nat := []         -- blocks whose line FLT has captured high
  caps      : List Capture := []     -- captures waiting for their fetch
  grp       : Nat := 0
  recs      : Tab FltRec := []
  first     : Option First := none
  firstLatch : Nat := 0              -- FLT_FIRST_TIME_HI latch
  firstFrom : Nat := 0               -- captures before this group cannot be the first event (R576)
  resetEnd  : Option Nat := none     -- CK_KEEP cycle at which the last block reset of MGT ended (R581)
  windows   : List BlankWin := []
  frozen    : List Nat := []         -- blocks whose FLT_STATUS bit was 1 as the fault state began (R583)
  frozenAt  : Nat := 0               -- the CK_KEEP cycle of that moment
  lastWin   : Nat := 0
  conseq    : List Nat := []
  statusLatch : Nat := 0             -- FLT_STATUS as latched by a read of word 0
  blkSel    : Nat := 0
  ibiUc     : Bool := true
  ibiCe     : Bool := false
  cntCe     : Nat := 0
  cntUc     : Nat := 0
  cntConseq : Nat := 0
  cntAckRef : Nat := 0
  fault     : Bool := false          -- the stack is in the fault state (R583)
  aliveOn   : Bool := false          -- ALIVE toggles (R587)
  alive     : Bool := false          -- the ALIVE pin
  deriving DecidableEq, Repr

/-- The error ring (R481-R484): records of eight words. -/
structure Ring where
  recs   : Tab (List Nat) := []
  wr     : Nat := 0
  rd     : Nat := 0
  unread : Nat := 0
  seq    : Nat := 0
  sel    : Nat := 0
  ovwr   : Nat := 0
  deriving DecidableEq, Repr

/-- One budget class (R277-R290). -/
structure BwClass where
  guar    : Nat := 0               -- committed rate in force, in steps
  budget  : Nat := 0xFFFF          -- budget applied, in full (R722)
  counter : Nat := 0               -- window counter, 17 bits
  overBud : Bool := false
  bytes   : Nat := 0               -- 48-bit count
  latch   : Nat := 0
  demote  : Nat := 0
  deriving DecidableEq, Repr

/-- The bandwidth regulator. -/
structure Bwr where
  cls     : Tab BwClass := []
  inForce : Bool := false          -- a guarantee set is in force
  pendSet : Option (List Nat) := none  -- a committed set that takes effect at the next boundary (R286)
  factor  : Nat := 4096
  deliver : Nat := 0               -- BWR_CAP.DELIVERABLE
  degraded : Bool := false
  cfg     : Rws := ⟨0x0010, 0x0010, false⟩
  thr     : Rws := ⟨0x080C0C10, 0x080C0C10, false⟩
  cntAged : Nat := 0
  bypass  : Bool := false          -- failed boot self-test (R542)
  deriving DecidableEq, Repr

/-- The crossbar: packets in the source queues, oldest first, and the arbitration registers. -/
structure Xbr where
  pkts    : List Packet := []
  rrReq   : Tab Nat := []          -- per destination, the source granted last (R270)
  rrRsp   : Tab Nat := []
  rrMgt   : Tab Nat := []
  arbSel  : Nat := 0
  stall   : Tab WaitCnt := []      -- per endpoint (R308)
  deriving DecidableEq, Repr

/-- The address map, the windows and the remap entries. -/
structure Addr where
  mode     : Nat := 0              -- ADDR_MAP_CFG.MODE
  req      : Nat := 3
  reqSet   : Bool := false         -- REQ was written since reset (WL)
  waiting  : Bool := false
  fixed    : Bool := false         -- step 10 has begun (R194)
  wins     : Tab Window := []
  winSel   : Nat := 0
  remap    : Tab Remap := []
  remapSel : Nat := 0
  rowmap   : Tab RowMap := []
  rowmapSel : Nat := 0
  left     : List Nat := []        -- data banks left without an entry in the field (R205)
  deriving DecidableEq, Repr

/-- Window 0 as reset leaves it (R202). -/
def Window.first : Window := ⟨true, 0, 0x17FFFF, 0, 2 ^ 128 - 1⟩

/-- A disabled window with every field 0 (R202). -/
def Window.off : Window := ⟨false, 0, 0, 0, 0⟩

end Sys2Proof.Machine
end

