-- ==== Sys2Proof/Machine/StStack.lean ====
section
/-! DEFINITION. The state of reset, boot and test (R521-R561), of thermal management (R491-R520), of the fuse array and the
cellar book (R598-R639), and of the management paths and registers (R640-R678). -/

namespace Sys2Proof.Machine

/-! ### Reset, boot and test -/

/-- A field with access code WL (R17, R676): its value, and whether its first write since reset has come. -/
structure Wl where
  v    : Nat := 0
  done : Bool := false
  deriving DecidableEq, Repr

/-- What BOOT_STATUS.STATE names; TEST is shown by `Boot.testMode`. -/
inductive BootSt where
  | booting | ready | safe | noService | fault | rearmWait
  deriving DecidableEq, Repr

/-- A BST_RESULT (R560). -/
structure BstRes where
  result   : Nat := 0
  field    : Bool := false
  patterns : Nat := 0
  deriving DecidableEq, Repr

/-- The target of an in-field test (R551): its test-block index, the phase of BST_FIELD, the step within the row of R551,
the moment QUIESCE took effect with its E, and the moment the step began. -/
structure FieldTest where
  block   : Nat
  phase   : Nat
  step    : Nat := 0
  q       : Nat                -- cycles of CK_KEEP
  e       : Nat
  since   : Nat := 0
  held    : Bool := false      -- the retraining that ended the test has begun (R556)
  abort   : Bool := false
  res     : Nat := 1           -- the result of the parts of the test that have ended (R532, R533)
  pats    : Nat := 0           -- their patterns
  owed0   : Nat × Nat := (0, 0) -- OWED of its pseudo-channels at the escalation (R556)
  upd     : Bool := false      -- an update of its shadows waits for the restore (R673)
  deriving DecidableEq, Repr

/-- The keeper's and RST's view of boot. -/
structure Boot where
  pwrgd     : Bool := false
  resetN    : Bool := false            -- synchronised RESET_N
  settled   : Bool := false            -- the settling time of step 2 has passed
  st        : BootSt := .booting
  step      : Nat := 0
  cause     : Nat := 0
  failBlock : Nat := 0x1FF
  patchRejected : Bool := false
  saveRamFail : Bool := false
  bwrBypass : Bool := false
  sbiFail   : Bool := false
  nvmFail   : Bool := false
  strapInvalid : Bool := false
  xbrFail   : Bool := false
  pcFenced  : Nat := 0                 -- BOOT_DETAIL
  portFail  : Nat := 0
  sliceByp  : Nat := 0                 -- SLICE_BYP and PRESS_FAIL as they stood when the main domain was reset
  pressFail : Nat := 0
  last      : Nat := 1                 -- RST_CAUSE
  resetnCnt : Nat := 0
  portEn    : Nat := 0                 -- straps as sampled (R41)
  mgmtSel   : Nat := 0
  refclkOk  : Bool := false
  pllA      : Bool := false
  pllB      : Bool := false
  results   : Tab BstRes := []
  sel       : Nat := 0
  testMode  : Bool := false
  testLock  : Wl := {}
  cntRuns   : Nat := 0
  cntFails  : Nat := 0
  field     : Option FieldTest := none
  linkTimed : Bool := false            -- the deadline of R66 has passed
  mapWaited : Bool := false            -- the wait of R193 has ended
  patchVersion : Nat := 0              -- ID_PATCH
  deriving DecidableEq, Repr

/-! ### Thermal management -/

/-- A sensor (R491, R492, R498): its latest sample, and how many samples in a row had its raw code. -/
structure Sensor where
  temp   : Int := 0
  raw    : Nat := 0
  same   : Nat := 0
  broken : Bool := false
  deriving DecidableEq, Repr

/-- The thresholds in degrees (R501). -/
structure Limits where
  warn  : Nat := 0x5C
  throt : Nat := 0x64
  shut  : Nat := 0x6C
  rearm : Nat := 0x5F
  deriving DecidableEq, Repr

/-- A zone (R493): its temperature, the thresholds it is judged against, its states. -/
structure Zone where
  temp   : Int := 0
  seen   : Bool := false         -- evaluated since reset
  lim    : Limits := {}
  cfg    : Nat := 0x080A1010     -- THM_CFG as the zone applies it (R519)
  cfgNew : Bool := false         -- it has applied the word written last
  warn   : Bool := false
  step   : Nat := 0
  since  : Nat := 0              -- CK_KEEP cycle at which the step began
  below  : Bool := true          -- every evaluation since found it below T - H (step 1) or at or above T (step 2)
  pacing : Bool := false         -- port groups
  fast   : Bool := false
  conv   : Bool := false         -- a conversion is under way (R496)
  band   : Nat := 0              -- core dies (R504)
  blind  : Bool := false
  given  : List (Nat × Nat) := []   -- the pseudo-channels given up as the die was found blind (R500, R577)
  deriving DecidableEq, Repr

/-- THM_SHUT_INFO, which the keeper holds. -/
structure ShutInfo where
  valid  : Bool := false
  cut    : Nat := 0
  cutOp  : Nat := 0
  sensor : Nat := 0
  temp   : Nat := 0
  deriving DecidableEq, Repr

/-- Where a thermal shutdown stands (R515, R518). -/
inductive ShutPhase where
  | none | grace | released
  deriving DecidableEq, Repr

/-- THM. -/
structure Thm where
  cfg      : Rws := ⟨0x080A1010, 0x080A1010, false⟩
  lim      : Limits := {}
  fused    : Nat := 0            -- THM_FUSED_MAX
  lock     : Wl := {}
  sensors  : Tab Sensor := []
  zones    : Tab Zone := []      -- 0-17 core dies, 18-25 slice pairs, 26-33 port groups
  sel      : Nat := 0
  cntThrot : Nat := 0
  cntWarn  : Nat := 0
  trimKeep : Int := 0            -- trims in force (R513)
  trimRef  : Int := 0
  shut     : ShutPhase := .none
  fuseInGrace : Bool := false    -- a fuse pulse was in progress when the grace began
  nvmInGrace  : Bool := false
  shutStart : Nat := 0           -- CK_KEEP cycle
  tripLow  : Bool := false       -- THERMTRIP_N is low
  rearm    : Nat := 0            -- REARM in force at the shutdown
  lowSeen  : Bool := false       -- RESET_N has been low since the shutdown (R518)
  info     : ShutInfo := {}
  deriving DecidableEq, Repr

/-! ### The fuse array -/

/-- A word of the fuse array: what each of its two fuse planes reads at the normal and at the strict reference (R599). -/
structure FuseWord where
  n0 : Nat := 0
  s0 : Nat := 0
  n1 : Nat := 0
  s1 : Nat := 0
  deriving DecidableEq, Repr

/-- The value at the normal reference. -/
def FuseWord.norm (w : FuseWord) : Nat := w.n0 ||| w.n1
/-- The value at the strict reference. -/
def FuseWord.strict (w : FuseWord) : Nat := w.s0 ||| w.s1

/-- The fuse array: words 64 × region + word, as their fuses read; a word not listed is blank. -/
abbrev FuseArray := Tab FuseWord

/-- A programmed word: both fuses of each bit read 1 at both references. -/
def solidWord (v : Nat) : FuseWord := ⟨v, v, v, v⟩

/-- The fuse array of a WGS-9618-32C as shipped (R600, R601, R713, R715): region 0 sealed with its check word, the others blank. The
words whose factory contents the manual does not give are 0, log entry 13. -/
def shippedFuses : FuseArray :=
  [ (0, solidWord 0x96180011), (4, solidWord 0x00030000), (6, solidWord 0x005F6C64), (62, solidWord 1), (63, solidWord 0xa0e1e5ca) ]

/-- A fuse command in progress (R611-R614): the word, the bits still to program, the pulse in progress (0 and 1 the first pulses of
the two fuses, 2 and 3 their further ones) and the bits done. REINFORCE pulses its bits first, those that `blind` lists, and then reads. -/
structure FuseCmd where
  word      : Nat
  bits      : List Nat
  phase     : Nat := 0
  pulsed    : Nat := 0
  sealing   : Bool := false
  reinforce : Bool := false
  blind     : List Nat := []
  deriving DecidableEq, Repr

/-- FUS. -/
structure Fus where
  eff      : Tab Nat := []       -- words in force after the boot read (R604-R606), by word address
  cfg      : Nat := 0x0A00
  progEn   : Bool := false
  progLock : Wl := {}
  vprogOk  : Bool := false
  locked   : Nat := 0
  state    : Nat := 0
  marginal : Nat := 0
  margCnt  : Nat := 0
  amendReg : Nat := 0
  amendCnt : Nat := 0
  cntPulse : Nat := 0
  cntFail  : Nat := 0
  cred     : Nat := 0            -- credential shadow
  key0     : Nat := 0            -- key digest shadows
  key1     : Nat := 0
  zeroised : Bool := false       -- the shadows are zeroised or reloading (R534, R535)
  zeroBad  : Bool := false       -- a read-back found a bit that is not 0 (R536)
  credSet  : Bool := false       -- the boot read found a credential (MGT_CRED_STATUS)
  rdBuf    : Nat := 0            -- the fuse-array read buffer: the word read last (R534)
  cmd      : Option FuseCmd := none
  deriving DecidableEq, Repr

/-! ### The cellar book -/

/-- A record of the cellar book (R617). -/
structure BookRec where
  payload : List Byte
  slot    : Nat
  area    : Nat
  format  : Nat := 1
  gen     : Nat
  seq     : Nat
  crc     : Nat
  deriving DecidableEq, Repr

/-- The cellar book: physical records 2s and 2s + 1 are the copies of slot s; `none` is a copy that a write left unreadable, whose CRC fails (R617-R619).
A record not listed is as the part was shipped (R715). -/
abbrev Book := Tab (Option BookRec)

/-- What the end of a record write brings about besides the write. -/
inductive NvmFor where
  | nothing
  | started (row : Bool) (entry : Nat)   -- the STARTED item of a retirement (R633)
  | calStore                             -- a record of CAL_STORE (R437)
  | patchWrite                           -- the record of an NVM_WRITE (R636)
  | fatal                                -- the fault record of a fatal event (R625)
  deriving DecidableEq, Repr

/-- A record waiting to be written: its area, its slot (none: the journal's head), its bytes, the generation it carries
and, for journals, the microseconds of its event. -/
structure NvmReq where
  area : Nat
  slot : Option Nat
  body : List Byte
  gen  : Nat := 0
  us   : Nat := 0
  what : NvmFor := .nothing
  deriving DecidableEq, Repr

/-- A record write in progress (R619): the record, and the writes of the same copy that did not read back. -/
structure NvmWrite where
  req   : NvmReq
  tries : Nat := 0
  place : Option (Nat × Nat) := none   -- the physical record and the SEQ of the copy that a first try did not fill
  deriving DecidableEq, Repr

/-- NVM. -/
structure Nvm where
  up       : Bool := false        -- NVM passed its boot test and loaded (R629)
  failed   : Bool := false        -- R543 applies
  cfg      : Rws := ⟨0x0A, 0x0A, false⟩
  dirQ     : List NvmReq := []    -- directory slots of a relocation (R622)
  faultQ   : List NvmReq := []    -- from here in the precedence of R623
  retireQ  : List NvmReq := []
  journalQ : List NvmReq := []
  userQ    : List NvmReq := []
  flushQ   : List NvmReq := []
  cur      : Option NvmWrite := none
  reloc    : List (Nat × Nat) := []  -- relocation entries in order: slot and spare slot (R622)
  heads    : Tab Nat := []        -- journal heads by area (R630)
  jseq     : Tab Nat := []        -- JSEQ written last, by area
  secCnt   : Tab Nat := []        -- records accepted in this second, by area (R624)
  recent   : List (Nat × Nat × Nat) := []  -- (area, slot, CK_KEEP cycle) of PATCH and USER writes
  calEnd   : Option Nat := none   -- CK_KEEP cycle at which the last CAL_STORE ended
  calGen   : Nat := 0
  patchGen : Nat := 0
  counters : Tab Nat := []        -- the counter image, 12 × slot + i (R626)
  retire   : Tab Nat := []        -- the image of the retirement log, by item: row entries, then 32,772 + bank entries
  cntWrite : Nat := 0
  cntBad   : Nat := 0
  cntDrop  : Nat := 0
  cntPend  : Nat := 0             -- counter slots of a flush still to write
  deriving DecidableEq, Repr

/-! ### Management -/

/-- A command packet that has reached the management controller (R640): path 0 in-band, 1 sideband, 2 I3C, 3 JTAG,
4 Ilael; the claimed level of an in-band packet. -/
structure MgtPkt where
  path  : Nat
  port  : Nat := 0
  tag   : Nat := 0
  level : Nat := 0
  bytes : List Byte
  deriving DecidableEq, Repr

/-- What a long command is doing (R655). -/
inductive LongJob where
  | train (k mask start : Nat) (quiesced : Bool)
  | calibrate (k mask : Nat)
  | calStore (gen next : Nat)
  | bist (block : Nat)
  | quiesce (block : Nat)
  | fuse
  | nvmWrite (done : Bool)
  deriving DecidableEq, Repr

/-- The long command running. -/
structure LongCmd where
  cmd : Nat
  pkt : MgtPkt
  job : LongJob
  deriving DecidableEq, Repr

/-- A posted write held by its frame (R670). -/
structure Posted where
  off : Nat
  v   : Nat
  deriving DecidableEq, Repr

/-- The I3C target (R647-R649). -/
structure I3c where
  addr    : Option Nat := none
  ibiEn   : Bool := false
  hjOff   : Bool := false
  hotJoin : Bool := false
  busy    : Bool := false               -- a command of the path is outstanding
  reply   : Option (List Byte) := none  -- a reply that is not read in full
  out     : List Byte := []             -- the bytes the target gave last
  acked   : Bool := false               -- whether the last access was acknowledged
  ibi1    : Option (Nat × Nat) := none  -- pending interrupts by mandatory byte
  ibi2    : Option (Nat × Nat) := none
  ibi3    : Option (Nat × Nat) := none
  lastIbi : Option (Nat × Nat × Nat) := none
  deriving DecidableEq, Repr

/-- MGT, SBI and the JTAG access register. -/
structure Mgt where
  buf      : List MgtPkt := []    -- MGT input buffer (R271)
  queue    : List MgtPkt := []    -- Ilael's queue
  rsm      : List MgtPkt := []    -- waiting for the register state machine
  rsmLast  : Nat := 4             -- path it served last (R641)
  long     : Option LongCmd := none
  inReset  : Bool := false        -- within the block reset of R595
  updAuto  : Nat := 0
  lock     : Wl := {}
  trimOfs  : Nat := 0
  fails    : Nat := 0
  holdoff  : Bool := false
  posted   : Tab Posted := []     -- by frame number
  drops    : Tab Nat := []        -- ACC_DROP_CNT by frame number
  sbNext   : Nat := 0             -- sideband: index of the next segment
  sbBytes  : List Byte := []
  sbBusy   : Bool := false        -- a sideband command is complete and unanswered
  sbOut    : List SbMsg := []     -- the messages of the last reply sent on the sideband
  sbWait   : List MgtPkt := []    -- packets at the SBI that MGT has not taken
  i3c      : I3c := {}
  jtagReg  : Nat := 0             -- REGACC
  jtagBusy : Bool := false
  bootstat : Nat := 0             -- BOOTSTAT as captured
  ilaelOut : List Byte := []      -- the last reply to Ilael's own orders
  sbReg    : Option Nat := none   -- the answer to the last sideband register access, none: unsupported
  deriving DecidableEq, Repr

end Sys2Proof.Machine
end

