-- ==== Sys2Proof/Machine/State.lean ====
section
/-! DEFINITION. The state of the block, its faults and refusals, and its state at reset. -/

namespace Sys2Proof.Machine

/-- Everything but the memory cells, the fuses and the cellar book. -/
structure Chip where
  keep    : Nat := 0               -- cycles of CK_KEEP since PWRGD (R721)
  free    : Nat := 0               -- free values drawn so far
  ports   : Tab Port := []
  slices  : Tab Slice := []
  presses : Tab Press := []
  chcs    : Tab Chc := []
  dies    : Tab DieCtx := []
  xbr     : Xbr := {}
  addr    : Addr := {}
  bwr     : Bwr := {}
  flt     : Flt := {}
  ring    : Ring := {}
  boot    : Boot := {}
  thm     : Thm := {}
  fus     : Fus := {}
  nvm     : Nvm := {}
  mgt     : Mgt := {}
  deriving DecidableEq, Repr

/-- The whole state: the queue of commands that wait, first in, first out; the cells of the core dies that have been written since
they last lost their contents, and the number of times they lost them (R344, R523); the fuse array and the cellar book, which keep
their contents without power (R521); and the rest. -/
structure State where
  pending : List Instr := []
  mem     : Memory := []
  epoch   : Nat := 0
  fuses   : FuseArray := shippedFuses
  book    : Book := []
  chip    : Chip := {}
  deriving DecidableEq, Repr

/-- Faults. The block has none: every event of the manual has an effect, or changes nothing where it cannot happen. -/
inductive Fault where
  deriving DecidableEq, Repr

/-- Refusals. -/
inductive Refusal where
  /-- Raised by an arm of `exec` for a command that has no meaning yet; safe, since the machine stops. -/
  | notModelled (mnemonic : String)
  deriving DecidableEq, Repr

/-- The machine before PWRGD rises: the keeper and the main domain in reset, every register at its reset value, the non-volatile
arrays as the part was shipped (R521, R713, R715). -/
def State.reset : State := {}

/-- Change everything but the queue, the cells, the fuses and the cellar book. -/
def State.onChip (s : State) (f : Chip → Chip) : State := { s with chip := f s.chip }

end Sys2Proof.Machine
end

