-- ==== Sys2Proof/Machine/Ops.lean ====
section
/-! DEFINITION. Named operations over the parts of the state: the homes of ports, slices, presses, channel controllers and
pseudo-channels, the time base, raising an event, writing an error-ring record, and waits counted in microseconds. -/

namespace Sys2Proof.Machine

/-- Port `n`. -/
def Chip.port (c : Chip) (n : Nat) : Port := c.ports.get {} n
/-- Change port `n`. -/
def Chip.onPort (c : Chip) (n : Nat) (f : Port → Port) : Chip := { c with ports := c.ports.upd {} n f }
/-- Slice `n`. -/
def Chip.slice (c : Chip) (n : Nat) : Slice := c.slices.get {} n
/-- Change slice `n`. -/
def Chip.onSlice (c : Chip) (n : Nat) (f : Slice → Slice) : Chip := { c with slices := c.slices.upd {} n f }
/-- Press `n`. -/
def Chip.press (c : Chip) (n : Nat) : Press := c.presses.get {} n
/-- Change press `n`. -/
def Chip.onPress (c : Chip) (n : Nat) (f : Press → Press) : Chip := { c with presses := c.presses.upd {} n f }
/-- Channel controller `k`. -/
def Chip.chc (c : Chip) (k : Nat) : Chc := c.chcs.get {} k
/-- Change channel controller `k`. -/
def Chip.onChc (c : Chip) (k : Nat) (f : Chc → Chc) : Chip := { c with chcs := c.chcs.upd {} k f }
/-- Pseudo-channel `p` of a channel controller. -/
def Chc.pc (h : Chc) (p : Nat) : Pc := h.pcs.get {} p
/-- Change pseudo-channel `p` of a channel controller. -/
def Chc.onPc (h : Chc) (p : Nat) (f : Pc → Pc) : Chc := { h with pcs := h.pcs.upd {} p f }
/-- Pseudo-channel `p` of channel controller `k`. -/
def Chip.pc (c : Chip) (k p : Nat) : Pc := (c.chc k).pc p
/-- Change pseudo-channel `p` of channel controller `k`. -/
def Chip.onPc (c : Chip) (k p : Nat) (f : Pc → Pc) : Chip := c.onChc k (·.onPc p f)
/-- The scrub and racking contexts of die `d`. -/
def Chip.die (c : Chip) (d : Nat) : DieCtx := c.dies.get {} d
/-- Change the scrub and racking contexts of die `d`. -/
def Chip.onDie (c : Chip) (d : Nat) (f : DieCtx → DieCtx) : Chip := { c with dies := c.dies.upd {} d f }
/-- Budget class `k`. -/
def Chip.cls (c : Chip) (k : Nat) : BwClass := c.bwr.cls.get {} k

/-- Microseconds on the time base of R721: 25 cycles of CK_KEEP each. -/
def Chip.us (c : Chip) : Nat := c.keep / 25

/-- Whether the main domain runs: it is out of reset and the stack is not in SAFE, held for re-arm or shut down
(R518, R521, R539). -/
def Chip.on (c : Chip) : Bool :=
  c.boot.pwrgd && c.boot.resetN && c.boot.settled && 3 ≤ c.boot.step && c.boot.st != .safe && c.boot.st != .rearmWait &&
  c.thm.shut != .released

/-- Whether the main domain runs and the stack is not in the fault state (R584). -/
def Chip.live (c : Chip) : Bool := c.on && !c.flt.fault

/-- Add `cycles` of CK_CORE, out of `per` a microsecond, to a wait counter while its condition holds. -/
def WaitCnt.tick (w : WaitCnt) (on : Bool) (cycles per : Nat) : WaitCnt :=
  if on then
    let f := w.frac + cycles
    { us := satAdd max32 w.us (f / per), frac := f % per }
  else w

/-- Count one more in a 64-bit counter. -/
def Cnt64.bump (n : Cnt64) : Cnt64 := { n with count := bump64 n.count }
/-- Count `k` more in a 64-bit counter. -/
def Cnt64.add (n : Cnt64) (k : Nat) : Cnt64 := { n with count := satAdd max64 n.count k }

/-- A register field shown: `v` in `w` bits from bit `lo` (R16). -/
def fld (lo w v : Nat) : Nat := (v % 2 ^ w) * 2 ^ lo

/-- A one-bit register field shown. -/
def flag (lo : Nat) (b : Bool) : Nat := if b then 2 ^ lo else 0

/-! ### FLT block indices (R562) -/

/-- FLT index of HPA n. -/
def fltHpa (n : Nat) : Nat := 16 + n
/-- FLT index of DCT c. -/
def fltDct (c : Nat) : Nat := 48 + c
/-- FLT index of CHC k. -/
def fltChc (k : Nat) : Nat := 112 + k
/-- FLT index of PRS p. -/
def fltPrs (p : Nat) : Nat := 184 + p

/-- Whether `a` is kept before `b` when both arise at once: the higher class, then the lower code (R563). -/
def Event.before (a b : Event) : Bool := b.cls < a.cls || (a.cls == b.cls && a.code ≤ b.code)

/-- An event reaches a block's event register: the earliest unfetched one stays and later ones are counted (R563).
`same` tells that it arises in the same cycle as the one held, so that the more severe is kept. -/
def EvReg.take (r : EvReg) (e : Event) (same : Bool) : EvReg :=
  let r := { r with fatal := r.fatal || e.cls == 3 }
  match r.pend with
  | none => { r with pend := some e }
  | some h =>
    if same && !h.before e then { r with pend := some e, count := bump16 r.count }
    else { r with count := bump16 r.count }

/-- Whether the block's error line is high (R564). -/
def EvReg.line (r : EvReg) : Bool := r.pend.isSome || !r.levels.isEmpty

/-- Block `blk` raises a pulse event (R563, R564). A block with a level condition that FLT has fetched drops its line and
raises it again, which FLT takes as a new capture (R723). -/
def Chip.raise (c : Chip) (blk : Nat) (e : Event) : Chip :=
  let r := c.flt.evs.get {} blk
  let again := r.pend.isNone
  { c with flt := { c.flt with
      evs := c.flt.evs.put blk (r.take e false)
      high := if again then c.flt.high.filter (· != blk) else c.flt.high } }

/-- Block `blk` raises an event in the same cycle as the one it holds (R563). -/
def Chip.raiseWith (c : Chip) (blk : Nat) (e : Event) : Chip :=
  let r := c.flt.evs.get {} blk
  let again := r.pend.isNone
  { c with flt := { c.flt with
      evs := c.flt.evs.put blk (r.take e true)
      high := if again then c.flt.high.filter (· != blk) else c.flt.high } }

/-- The condition of a level event that the register has taken lasts (R564). A fatal one that began behind an unfetched event is fetched
after that one, since FLT must classify it (R515, R583). -/
def EvReg.hold (r : EvReg) (e : Event) : EvReg :=
  { r with
    levels := r.levels.filter (· != e) ++ [e]
    owed := if e.cls == 3 && r.pend != some e then some e else r.owed }

/-- A level condition of block `blk`, whose event its register has taken, lasts. -/
def Chip.holdLevel (c : Chip) (blk : Nat) (e : Event) : Chip :=
  { c with flt := { c.flt with evs := c.flt.evs.upd {} blk (·.hold e) } }

/-- A level condition of block `blk` begins (R564). -/
def Chip.raiseLevel (c : Chip) (blk : Nat) (e : Event) : Chip := (c.raise blk e).holdLevel blk e

/-- The level condition of `e` ends (R564): its unfetched event goes with it, unless others have joined the count behind it, which hold the
line until FLT has fetched the register. -/
def EvReg.release (r : EvReg) (e : Event) : EvReg :=
  { r with levels := r.levels.filter (· != e), pend := if r.pend == some e && r.count == 0 then none else r.pend }

/-- Whether a block has stopped its own output, since it has met a fatal condition (R582). -/
def Chip.halted (c : Chip) (blk : Nat) : Bool := (c.flt.evs.get {} blk).fatal

/-- The areas of the cellar book that hold journals (R621). -/
def areaLane : Nat := 2
def areaMargin : Nat := 3
def areaFault : Nat := 4
def areaRing : Nat := 5

/-- Whether NVM takes records now: it has loaded, it has not failed, the stack is not in the fault state,
and no shutdown has begun (R515, R543, R625). -/
def Chip.nvmOpen (c : Chip) : Bool := c.nvm.up && !c.nvm.failed && !c.flt.fault && c.thm.shut == .none

/-- Count a record against its area's limit of 1,000 a second, or drop it (R624). -/
def Nvm.takesRecord (n : Nvm) (area : Nat) : Option Nvm :=
  if 1000 ≤ n.secCnt.get 0 area then none
  else some { n with secCnt := n.secCnt.upd 0 area (· + 1) }

/-- The next pending record in the precedence of R623, and NVM without it: directory slots, fault records, retirement items, other
journals, CAL, PATCH and USER, then the slots of a counter flush. -/
def Nvm.pop (n : Nvm) : Option (NvmReq × Nvm) :=
  match n.dirQ, n.faultQ, n.retireQ, n.journalQ, n.userQ, n.flushQ with
  | r :: t, _, _, _, _, _ => some (r, { n with dirQ := t })
  | [], r :: t, _, _, _, _ => some (r, { n with faultQ := t })
  | [], [], r :: t, _, _, _ => some (r, { n with retireQ := t })
  | [], [], [], r :: t, _, _ => some (r, { n with journalQ := t })
  | [], [], [], [], r :: t, _ => some (r, { n with userQ := t })
  | [], [], [], [], [], r :: t => some (r, { n with flushQ := t })
  | [], [], [], [], [], [] =>
    if n.cntPend = 0 then none
    else some ({ area := 1, slot := some (3128 - n.cntPend), body := [] }, { n with cntPend := n.cntPend - 1 })

/-- NVM starts the next pending record write when none is in progress (R623). -/
def Nvm.kick (n : Nvm) : Nvm :=
  if n.cur.isSome then n
  else match n.pop with
    | some (r, n') => { n' with cur := some { req := r } }
    | none => n

/-- Queue a journal record for the cellar book, its bytes from byte 14 on given: the queue holds 64, and a record that finds
it full, or its area at its limit, is dropped and counted (R623, R624, R630). -/
def Chip.journal (c : Chip) (area : Nat) (body : List Byte) : Chip :=
  if !c.nvmOpen then c
  else
    match c.nvm.takesRecord area with
    | some n =>
      if n.journalQ.length < 64 then
        { c with nvm := Nvm.kick { n with journalQ := n.journalQ ++ [{ area := area, slot := none, body := body, us := c.us }] } }
      else { c with nvm := { c.nvm with cntDrop := bump32 c.nvm.cntDrop } }
    | none => { c with nvm := { c.nvm with cntDrop := bump32 c.nvm.cntDrop } }

/-- What an error-ring record names besides its type (R481). -/
structure RingArgs where
  type   : Nat
  cls    : Nat
  source : Nat
  port   : Nat := 0
  tag    : Nat := 0
  row    : Nat := 0
  bank   : Nat := 0
  block  : Nat := 0
  arg0   : Nat := 0
  arg1   : Nat := 0
  arg2   : Nat := 0
  deriving DecidableEq, Repr

/-- The eight words of a ring record (R481). -/
def ringWords (seq us : Nat) (a : RingArgs) : List Nat :=
  [ seq % 2 ^ 32
  , us % 2 ^ 32
  , fld 0 16 (us / 2 ^ 32) + fld 16 8 a.type + fld 24 2 a.cls
  , fld 0 8 a.source + fld 8 5 a.port + fld 13 10 a.tag
  , fld 0 16 a.row + fld 16 11 a.bank + fld 27 4 a.block
  , a.arg0 % 2 ^ 32, a.arg1 % 2 ^ 32, a.arg2 % 2 ^ 32 ]

/-- A record enters the error ring; at 1,024 unread ones it overwrites the oldest (R482). -/
def Ring.push (r : Ring) (us : Nat) (a : RingArgs) : Ring :=
  let full := r.unread == 1024
  { r with
    recs := r.recs.put r.wr (ringWords r.seq us a)
    wr := (r.wr + 1) % 1024
    seq := (r.seq + 1) % 2 ^ 32
    unread := if full then 1024 else r.unread + 1
    rd := if full then (r.rd + 1) % 1024 else r.rd
    ovwr := if full then bump32 r.ovwr else r.ovwr }

/-- Write an error-ring record, which also goes to the cellar book (R481). -/
def Chip.ringRec (c : Chip) (a : RingArgs) : Chip :=
  let ws := ringWords c.ring.seq c.us a
  { c with ring := c.ring.push c.us a }.journal areaRing ((0 : Byte) :: 0 :: ws.flatMap (leBytes 4))

/-- Draw a fresh index for a free value. -/
def Chip.drawFree (c : Chip) : Nat × Chip := (c.free, { c with free := c.free + 1 })

end Sys2Proof.Machine
end

