-- ==== Sys2Proof/Machine/Operands.lean ====
section
/-! DEFINITION. The operand forms: the request header (R91), the opcodes and their payloads (R100-R107, R716), the address
maps (R186-R191), the protection windows (R196-R201), and where a data-bank row stands now (R204, R468, R478). -/

namespace Sys2Proof.Machine

/-! ### Opcodes and header -/

/-- The opcode of a request (R100). -/
def opCode : Op → Nat
  | .rd => 0x01 | .wr => 0x02 | .wrMasked => 0x03 | .atom => 0x08 | .accum => 0x09
  | .fill => 0x10 | .copy => 0x11 | .rangeCrc => 0x12 | .jobStatus => 0x13 | .jobCancel => 0x14
  | .fence => 0x18 | .flush => 0x19 | .mgmtCmd => 0x20 | .nopCredit => 0x3F
  | .reserved c => c.toNat

/-- A bit of a header word. -/
def flagBit (b : Bool) : BitVec 1 := if b then 1#1 else 0#1

/-- The four header words of a request, word 3 first (R91). -/
def packHdr (op : BitVec 6) (h : ReqHdr) : Word × Word × Word × Word :=
  ( h.priv ++ h.stream ++ h.tag ++ h.size ++ op
  , h.rsvd1 ++ flagBit h.e2e ++ flagBit h.poisonOk ++ flagBit h.noalloc ++ flagBit h.ordered ++ flagBit h.prompt
      ++ h.subop ++ h.seq
  , h.rsvd2 ++ h.addr
  , h.hver ++ h.rsvd3 ++ h.boff )

/-- The opcode and the fields that four header words carry (R91). -/
def parseHdr (w : Word × Word × Word × Word) : BitVec 6 × ReqHdr :=
  let (w0, w1, w2, w3) := w
  ( w0.extractLsb' 0 6
  , { size := w0.extractLsb' 6 3, tag := w0.extractLsb' 9 10, stream := w0.extractLsb' 19 11, priv := w0.extractLsb' 30 2
      seq := w1.extractLsb' 0 16, subop := w1.extractLsb' 16 8
      prompt := w1.getLsbD 24, ordered := w1.getLsbD 25, noalloc := w1.getLsbD 26, poisonOk := w1.getLsbD 27
      e2e := w1.getLsbD 28, rsvd1 := w1.extractLsb' 29 3
      addr := w2.extractLsb' 0 31, rsvd2 := w2.extractLsb' 31 1
      boff := w3.extractLsb' 0 6, rsvd3 := w3.extractLsb' 6 22, hver := w3.extractLsb' 28 4 } )

/-- The size in bytes of a SIZE code, 0 for the reserved code (R99 table, R716). -/
def sizeBytes (s : BitVec 3) : Nat :=
  match s.toNat with
  | 0 => 4 | 1 => 8 | 2 => 16 | 4 => 64 | 5 => 128 | 6 => 256 | 7 => 512 | _ => 0

/-- Payload bytes of a request, by its header alone (R100, R716). -/
def payloadLen (op : Op) (h : ReqHdr) : Nat :=
  let s := sizeBytes h.size
  match op with
  | .wr | .accum | .mgmtCmd => s
  | .wrMasked => ceilDiv s 64 * 8 + s
  | .atom => 32
  | .fill => 96
  | .copy | .rangeCrc | .jobStatus | .jobCancel => 32
  | .rd | .fence | .flush | .nopCredit | .reserved _ => 0

/-- Whether the request carries a trailer on the link (R716). -/
def hasTrailer (op : Op) (h : ReqHdr) : Bool :=
  h.e2e && (match op with | .wr | .wrMasked | .atom | .accum => true | _ => false)

/-- The largest response data of an opcode, in bytes (R100). -/
def respMax (op : Op) (h : ReqHdr) : Nat :=
  match op with
  | .rd => sizeBytes h.size
  | .atom | .fill | .copy | .rangeCrc | .jobStatus | .jobCancel | .nopCredit => 16
  | .mgmtCmd => 512
  | .wr | .wrMasked | .accum | .fence | .flush | .reserved _ => 0

/-- REQ units of a request (R125). -/
def reqCost (op : Op) (h : ReqHdr) : Nat := 1 + ceilDiv (payloadLen op h) 64
/-- RSP units of a request (R125). -/
def rspCost (op : Op) (h : ReqHdr) : Nat := 1 + ceilDiv (respMax op h) 64
/-- MGT units of the request part of an MGMT_CMD (R125). For a malformed one whose SIZE gives fewer than 64 bytes, S / 64 is rounded down
(log entry 49). -/
def mgtReqCost (h : ReqHdr) : Nat := 1 + sizeBytes h.size / 64

/-- A member of its stream (R145). -/
def isMember : Op → Bool
  | .rd | .wr | .wrMasked | .atom | .accum | .fill | .copy | .rangeCrc | .flush | .fence => true
  | _ => false

/-- A press job (R106). -/
def isJob : Op → Bool
  | .fill | .copy | .rangeCrc => true
  | _ => false

/-- A data request (R94). -/
def isData : Op → Bool
  | .rd | .wr | .wrMasked | .atom | .accum => true
  | _ => false

/-- The start address in bytes (R93). -/
def startAddr (h : ReqHdr) : Nat := h.addr.toNat * 64 + h.boff.toNat

/-- Bytes that a data request covers: SIZE, or the operand width of an ATOM (R94), which SIZE gives too. -/
def coverBytes (h : ReqHdr) : Nat := sizeBytes h.size

/-! ### Job parameters (R106, R107) -/

/-- LENGTH of a job. -/
def jobLen (pl : List Byte) : Nat := natBits (leNat (byteSlice pl 0 8)) 0 37
/-- SRC of a COPY. -/
def jobSrc (pl : List Byte) : Nat := leNat (byteSlice pl 8 8)
/-- SEED of a RANGE_CRC. -/
def jobSeed (pl : List Byte) : Nat := natBits (leNat (byteSlice pl 8 8)) 0 32
/-- JTAG of a JOB_STATUS or JOB_CANCEL. -/
def jobJtag (pl : List Byte) : Nat := natBits (leNat (byteSlice pl 0 8)) 0 10

/-- Whether the parameter block of a job or job query keeps R106 and R107. -/
def jobParamOk (op : Op) (h : ReqHdr) (pl : List Byte) : Bool :=
  let q0 := leNat (byteSlice pl 0 8)
  let q1 := leNat (byteSlice pl 8 8)
  let z := leNat (byteSlice pl 16 16) == 0
  let len := q0
  let lenOk := q0 < 2 ^ 37 && q0 != 0 && q0 % 64 == 0
  match op with
  | .fill => lenOk && q1 == 0 && z
  | .copy =>
    let d := startAddr h
    lenOk && q1 < 2 ^ 37 && q1 % 64 == 0 && z && (q1 + len ≤ d || d + len ≤ q1)
  | .rangeCrc => lenOk && q1 < 2 ^ 32 && z
  | .jobStatus | .jobCancel => q0 < 2 ^ 10 && q1 == 0 && z
  | _ => true

/-! ### Address maps -/

/-- The end of memory (R186). -/
def memEnd : Nat := 0x1800000000

/-- The hash of R190. -/
def mapHash (a : Nat) : Nat :=
  natBits a 14 6 ^^^ natBits a 20 6 ^^^ natBits a 26 6 ^^^ natBits a 32 5

/-- Where a host address lies under a map: row, block of the row, byte of the block (R187-R190). -/
def mapAddr (mode a : Nat) : RowLoc × Nat × Nat :=
  let hi := natBits a 35 2 * 16384
  let blk := natBits a 6 2
  let byte := natBits a 0 6
  match mode with
  | 2 =>
    (⟨natBits a 29 6, natBits a 28 1, 4 * natBits a 10 2 + natBits a 12 2, hi + natBits a 14 14⟩,
      4 * natBits a 8 2 + blk, byte)
  | 1 =>
    (⟨natBits a 8 6, natBits a 16 1, 4 * natBits a 17 2 + natBits a 19 2, hi + natBits a 21 14⟩,
      4 * natBits a 14 2 + blk, byte)
  | _ =>
    (⟨natBits a 8 6 ^^^ mapHash a, natBits a 16 1 ^^^ natBits a 22 1,
      4 * (natBits a 17 2 ^^^ natBits a 23 2) + natBits a 19 2, hi + natBits a 21 14⟩,
      4 * natBits a 14 2 + blk, byte)

/-- The host address of a block of a row under a map: the inverse that R191 promises. -/
def unmapBlock (mode : Nat) (l : RowLoc) (j : Nat) : Nat :=
  let hi := (l.r / 16384) * 2 ^ 35
  let low := l.r % 16384
  let bg := l.b / 4
  let k := l.b % 4
  let col := j / 4
  let blk := (j % 4) * 64
  match mode with
  | 2 => hi + l.c * 2 ^ 29 + l.p * 2 ^ 28 + low * 2 ^ 14 + k * 2 ^ 12 + bg * 2 ^ 10 + col * 2 ^ 8 + blk
  | 1 => hi + low * 2 ^ 21 + k * 2 ^ 19 + bg * 2 ^ 17 + l.p * 2 ^ 16 + col * 2 ^ 14 + l.c * 2 ^ 8 + blk
  | _ =>
    let up := hi + low * 2 ^ 21
    let p := l.p ^^^ natBits up 22 1
    let g := bg ^^^ natBits up 23 2
    let up := up + k * 2 ^ 19 + g * 2 ^ 17 + p * 2 ^ 16 + col * 2 ^ 14
    up + (l.c ^^^ mapHash up) * 2 ^ 8 + blk

/-- Device-wide index of a data bank (R24). -/
def bankIndex (l : RowLoc) : Nat := 32 * l.c + 16 * l.p + l.b

/-! ### Protection windows -/

/-- Window `i`; window 0 starts as R202 gives. -/
def Chip.window (c : Chip) (i : Nat) : Window :=
  c.addr.wins.get (if i = 0 then Window.first else Window.off) i

/-- The 64 windows, rising. -/
def Chip.windowSet (c : Chip) : List Window := (below 64).map c.window

/-- Whether an enabled window contains the 64 KiB granule `g` (R196). -/
def Window.holds (w : Window) (g : Nat) : Bool := w.en && w.base ≤ g && g ≤ w.limit

/-- The window that rules granule `g`: the lowest-numbered enabled one that contains it (R197). -/
def ruling (ws : List Window) (g : Nat) : Option Window := ws.find? (·.holds g)

/-- The permissions of R196. -/
inductive Perm where
  | read | write | atomic | job
  deriving DecidableEq, Repr

/-- Bit of a permission within a port's four (WIN_PERM). -/
def Perm.bit : Perm → Nat
  | .read => 0 | .write => 1 | .atomic => 2 | .job => 3

/-- Whether a window grants port `n` a permission. -/
def Window.grants (w : Window) (n : Nat) (p : Perm) : Bool := natBit w.perm (4 * n + p.bit)

/-- The decanter policy of a byte address: 0 write-back, 1 write-through, 2 and 3 bypass (R201). -/
def policyAt (ws : List Window) (a : Nat) : Nat := (ruling ws (a / 65536)).elim 0 (·.policy)

/-- The windows' granule borders inside `[g, last]`: within a run between two borders one window rules throughout. -/
def borders (ws : List Window) (g last : Nat) : List Nat :=
  g :: ws.flatMap (fun w =>
    (if g < w.base && w.base ≤ last then [w.base] else []) ++
    (if g < w.limit + 1 && w.limit + 1 ≤ last then [w.limit + 1] else []))

/-- Whether every 64 KiB granule that bytes `[a, a + len)` touch grants port `n` permission `p` (R199). The ruling window
changes only at borders, so the borders decide. -/
def rangeGrants (ws : List Window) (n a len : Nat) (p : Perm) : Bool :=
  len == 0 ||
  (borders ws (a / 65536) ((a + len - 1) / 65536)).all (fun g => (ruling ws g).elim false (·.grants n p))

/-! ### Where a row stands -/

/-- Remap entry `e`. -/
def Chip.remapE (c : Chip) (e : Nat) : Remap := c.addr.remap.get {} e
/-- Row-remap entry `e`. -/
def Chip.rowmapE (c : Chip) (e : Nat) : RowMap := c.addr.rowmap.get {} e

/-- The valid remap entry that names a data bank, if any (R204). -/
def Chip.entryOf (c : Chip) (bank : Nat) : Option Nat :=
  (List.find? (fun (e : Nat × Remap) => e.2.valid && e.2.bank == bank) c.addr.remap).map (·.1)

/-- The reserve bank of remap entry `e` (R204): controller, pseudo-channel, bank. -/
def entryPlace (e : Nat) : Nat × Nat × Nat := (64 + e / 32, (e / 16) % 2, e % 16)

/-- The spare row that serves a row of a data bank, if its racking has ended (R468). -/
def Chip.spareOf (c : Chip) (bank row : Nat) : Option Nat :=
  (List.find? (fun (e : Nat × RowMap) => e.1 / 16 == bank && e.2.valid && !e.2.racking && !e.2.unusable && e.2.row == row) c.addr.rowmap).map
    (fun e => 49152 + e.1 % 16)

/-- Whether a data pseudo-channel is fenced. -/
def Chip.fenced (c : Chip) (k p : Nat) : Bool := (c.pc k p).state == .fenced

/-- Whether slice `s` is slice-dead: its bypass block failed a test (R544, R557). -/
def Chip.sliceDead (c : Chip) (s : Nat) : Bool :=
  let r := (c.boot.results.get {} (112 + s)).result
  r == 2 || r == 3

/-- Whether a data bank is served (R209): no bank of a slice-dead channel is (R544). -/
def Chip.served (c : Chip) (bank : Nat) : Bool :=
  !c.sliceDead (bank / 32) && ((c.entryOf bank).isSome || (!c.fenced (bank / 32) ((bank / 16) % 2) && !c.addr.left.contains bank))

/-- The row pointer of a bank's racking in progress: rows below it are on the reserve bank (R478). A racking that is
queued has copied none. -/
def Chip.rackPtr (c : Chip) (bank : Nat) : Nat :=
  match (c.die (bank / 128)).cur with
  | some j => if j.kind != .row && j.bank == bank then j.row else 0
  | none => 0

/-- Where the block of a data-bank row stands now (R204, R468, R478): its own bank, the spare row of it, or the reserve
bank for a row already copied. -/
def Chip.locate (c : Chip) (l : RowLoc) (j : Nat) : Phys :=
  let bank := bankIndex l
  let home : Phys := ⟨l.c, l.p, l.b, (c.spareOf bank l.r).getD l.r, j⟩
  match c.entryOf bank with
  | none => home
  | some e =>
    if (c.remapE e).racking && !(c.remapE e).copied && !(l.r < c.rackPtr bank) then home
    else
      let (k, p, b) := entryPlace e
      ⟨k, p, b, l.r, j⟩

end Sys2Proof.Machine
end

