-- ==== Sys2Proof/Machine/Flags.lean ====
section
/-! DEFINITION. The status computations: the order of statuses and their merge (R118-R122, R137), the state of a target
(R121, R138, R717), the retry hints (R423, R558), and the budget state of a class with its charges (R261, R277-R283). -/

namespace Sys2Proof.Machine

/-- The code of a status (R118). -/
def Status.code : Status → Nat
  | .ok => 0x00 | .okCorrected => 0x01 | .degraded => 0x02 | .poison => 0x03 | .capacityLost => 0x04 | .aborted => 0x05
  | .retry => 0x06 | .busyTest => 0x07 | .e2eFail => 0x08 | .seqGap => 0x09 | .denied => 0x0A | .unmapped => 0x0B
  | .badOp => 0x0C | .overcommit => 0x0D

/-- The place of a status in the list of R120. -/
def Status.rank : Status → Nat
  | .ok => 0 | .okCorrected => 1 | .degraded => 2 | .poison => 3 | .capacityLost => 4 | _ => 5

/-- The later of two statuses in the list of R120. -/
def Status.merge (a b : Status) : Status := if a.rank < b.rank then b else a

/-- Whether a block with this status is flagged in ARG: lost or not committed (R118). -/
def Status.flagged : Status → Bool
  | .poison | .capacityLost => true
  | _ => false

/-- The status of a request's blocks together (R120). -/
def mergeStatus (rs : List BlkRes) : Status := rs.foldl (fun s r => s.merge r.status) .ok

/-- The block flags of a request (R118): bit k for block k. -/
def mergeFlags (rs : List BlkRes) : Nat :=
  rs.foldl (fun a r => if r.status.flagged && !natBit a r.ix then a + 2 ^ r.ix else a) 0

/-- Whether an outcome is N or A in the legend of R137, so that it breaks an ORDERED request's stream (R150). -/
def breaks (op : Op) (s : Status) : Bool :=
  match s with
  | .aborted | .retry | .busyTest | .e2eFail | .seqGap | .denied | .unmapped | .badOp | .overcommit => true
  | .poison => op == .atom
  | .capacityLost => op == .atom || isJob op
  | .ok | .okCorrected | .degraded => false

/-- OK and OK_CORRECTED become DEGRADED on a degraded pseudo-channel (R138, R452). -/
def Status.degrade (s : Status) (deg : Bool) : Status :=
  if deg then (match s with | .ok | .okCorrected => .degraded | _ => s) else s

/-! ### Targets -/

/-- Erased symbols of a pseudo-channel (R413). -/
def Pc.erased (pc : Pc) : List Nat := pc.e0.toList ++ pc.e1.toList

/-- A pseudo-channel in erasure mode or at the fallback rate (R138, R414, R415). -/
def Pc.degraded (pc : Pc) : Bool := pc.rate4 || !pc.erased.isEmpty

/-- Whether the pseudo-channel that serves a row now is degraded. -/
def Chip.rowDegraded (c : Chip) (l : RowLoc) : Bool :=
  let ph := c.locate l 0
  (c.pc ph.k ph.p).degraded

/-- Whether a row's target is under in-field test (R717): its slice in CHANNEL_TEST, or its reserve bank's controller past
its write-back edge. -/
def Chip.underTest (c : Chip) (l : RowLoc) : Bool :=
  (c.slice l.c).mode == .channelTest ||
  (let ph := c.locate l 0
   64 ≤ ph.k && ((c.chc ph.k).test == .quiesced || (c.chc ph.k).test == .underTest))

/-- Whether a row's target is in rescue: its pseudo-channel is, and no reserve bank serves it in full (R138, R419). -/
def Chip.inRescue (c : Chip) (l : RowLoc) : Bool :=
  (c.pc l.c l.p).state == .rescue &&
  (match c.entryOf (bankIndex l) with
   | none => true
   | some e => (c.remapE e).racking)

/-- Whether the place where a row stands now executes nothing for the time being: its pseudo-channel is in the first step of a
rescue (R239), or is fenced while a racking has still to carry the row to its reserve bank (R421). -/
def Chip.rowWaits (c : Chip) (l : RowLoc) : Bool :=
  let ph := c.locate l 0
  let pc := c.pc ph.k ph.p
  (pc.state == .rescue && pc.rescueStep ≤ 1) || pc.state == .fenced

/-- Rows that the rescue of a pseudo-channel still has to rack (R423): 49,152 for each bank that will take an entry and has
not started, and the rows remaining of those being racked, a RETIRE_BANK racking of one of its banks among them (R420). -/
def Chip.rescueRowsLeft (c : Chip) (k p : Nat) : Nat :=
  let fresh := if (c.pc k p).rescueStep < 3 then ((below 16).filter (fun b => (c.entryOf (32 * k + 16 * p + b)).isNone)).length else 0
  let d := c.die (k / 4)
  let js := (d.cur.toList ++ d.queue).filter (fun j => j.kind != .row && j.bank / 16 == 2 * k + p)
  49152 * fresh + (js.map (fun j => 49152 - j.row)).foldl (· + ·) 0

/-- 256 times the mean time in nanoseconds of the last 256 rows racked in a rescue; 250 before 256 have been (R423). -/
def Pc.rowTime256 (pc : Pc) : Nat := if pc.rescueTimes.length < 256 then 250 * 256 else pc.rescueTimes.foldl (· + ·) 0

/-- The hint of a RETRY for a pseudo-channel in rescue (R423). -/
def Chip.retryHint (c : Chip) (k p : Nat) : Nat :=
  let pc := c.pc k p
  let t := if pc.rescueStep ≤ 1 then 625000 - (c.keep - pc.rescueAt) else 0
  min 0xFFFF (ceilDiv (t * 10240 + c.rescueRowsLeft k p * pc.rowTime256) 256000)

/-- The bounds in microseconds of the steps of an in-field test (R551), by test-block index (R537). -/
def testBounds (block : Nat) : List Nat :=
  if block < 112 then [240]
  else if block < 176 then [1, 4, 200, 4, 20]
  else if block < 248 then [1, 16, 600, 20, 16, 20]
  else [1, 8, 300, 5, 8, 20]

/-- The hint of R558 for an in-field test, from the moments in cycles of CK_KEEP, 25 to the microsecond (R721). -/
def FieldTest.hint (t : FieldTest) (now : Nat) : Nat :=
  let bs := (testBounds t.block).map (25 * ·)
  let r := if t.phase < 3 then 0
    else (bs.getD t.step 0 - (now - t.since)) + (bs.drop (t.step + 1)).foldl (· + ·) 0
  min 0xFFFF (max 10 (max (ceilDiv r 25) (ceilDiv (t.q + 25 * t.e - now) 25)))

/-- The hint of the in-field test in progress (R558). -/
def Chip.fieldHint (c : Chip) : Nat := match c.boot.field with | some t => t.hint c.keep | none => 10

/-- The hint of a BUSY_TEST for the target of a row: the time left of TRAIN when TRAIN holds the target (R416), else that of
the in-field test (R558). -/
def Chip.testHint (c : Chip) (w : RowLoc) : Nat :=
  match c.mgt.long with
  | some ⟨_, _, .train k _ s _⟩ =>
    if k == w.c || k == (c.locate w 0).k then max 10 (ceilDiv (1150000 - (c.keep - s)) 25) else c.fieldHint
  | _ => c.fieldHint

/-! ### Budget classes -/

/-- Whether class `k` is over budget (R280, R281). -/
def Chip.overBudget (c : Chip) (k : Nat) : Bool := c.bwr.inForce && (c.cls k).overBud

/-- The level of an access of class `k` (R261). -/
def Chip.level (c : Chip) (k : Nat) (aged : Bool) : Nat := if aged then 2 else if c.overBudget k then 0 else 1

/-- Charge a class `units` of 64 bytes (R279, R281, R283, R722). -/
def BwClass.charge (b : BwClass) (inForce : Bool) (units : Nat) : BwClass :=
  let n := satAdd 0x1FFFF b.counter units
  let hit := inForce && !b.overBud && b.budget ≤ n
  { b with
    counter := n
    bytes := (b.bytes + 64 * units) % 2 ^ 48
    overBud := b.overBud || hit
    demote := if hit then bump32 b.demote else b.demote }

/-- Charge class `k` (R279). -/
def Chip.charge (c : Chip) (k units : Nat) : Chip :=
  { c with bwr := { c.bwr with cls := c.bwr.cls.upd {} k (·.charge c.bwr.inForce units) } }

/-- Count `n` requests or press accesses that reached AGED (R307: BWR_CNT_AGED). -/
def Chip.countAged (c : Chip) (n : Nat) : Chip := { c with bwr := { c.bwr with cntAged := satAdd max32 c.bwr.cntAged n } }

end Sys2Proof.Machine
end

