-- ==== Sys2Proof/Machine/SliceOps.lean ====
section
/-! DEFINITION. The slice's own operations: finding and touching lines (R217, R224), choosing a way and ageing a set
(R231, R232), eviction buffers (R229, R233-R235), SRAM errors (R218), and sending accesses to a pseudo-channel (R229, R264). -/

namespace Sys2Proof.Machine

/-! ### Lines -/

/-- The set of a row (R217). -/
def lineSet (p b r : Nat) : Nat := (r % 128) ^^^ (64 * p + 4 * b)

/-- Whether a line holds a row. -/
def Line.isRow (l : Line) (w : RowLoc) : Bool := l.p == w.p && l.b == w.b && l.r == w.r

/-- The line that holds a row, with its index (R217). -/
def Slice.lineOf (s : Slice) (w : RowLoc) : Option (Nat × Line) :=
  List.find? (fun (e : Nat × Line) => e.2.isRow w) s.lines

/-- HOT_THRESH, PREFETCH and PROMPT_EN in force (DCT_CFG). -/
def Slice.hotThresh (s : Slice) : Nat := natBits s.cfg.live 8 4
/-- Sectors prefetched above the highest requested one. -/
def Slice.prefetch (s : Slice) : Nat := natBits s.cfg.live 4 2
/-- Whether prompt lookups are accepted. -/
def Slice.promptEn (s : Slice) : Bool := natBit s.cfg.live 0

/-- A hot line (R230). -/
def Slice.hot (s : Slice) (l : Line) : Bool := s.hotThresh < l.hits

/-- Whether a sector is busy (R227). -/
def Slice.sectBusy (s : Slice) (w : RowLoc) (j : Nat) : Bool := s.busy.contains (w.p, w.b, w.r, j)

/-- Whether any sector of a row is busy. -/
def Slice.rowBusy (s : Slice) (w : RowLoc) : Bool := s.busy.any (fun (p, b, r, _) => p == w.p && b == w.b && r == w.r)

/-- Whether a row is under a line lock. -/
def Slice.rowLocked (s : Slice) (w : RowLoc) : Bool := s.locks.any (fun (p, b, r, _) => p == w.p && b == w.b && r == w.r)

/-- The row of a line of slice `c`. -/
def Line.rowLoc (l : Line) (c : Nat) : RowLoc := ⟨c, l.p, l.b, l.r⟩

/-- Set or clear bit `j` of a mask. -/
def maskSet (m j : Nat) (on : Bool) : Nat :=
  if natBit m j then (if on then m else m - 2 ^ j) else (if on then m + 2 ^ j else m)

/-- The data of sector `j` of a line. -/
def Line.sect (l : Line) (j : Nat) : Block := l.data.get 0 j

/-- Write sector `j` of a line. -/
def Line.putSect (l : Line) (j : Nat) (d : Block) (dirty : Bool) : Line :=
  { l with data := l.data.put j d, valid := maskSet l.valid j true, dirty := maskSet l.dirty j dirty }

/-- Invalidate sector `j` of a line. -/
def Line.dropSect (l : Line) (j : Nat) : Line :=
  { l with data := l.data.del j, valid := maskSet l.valid j false, dirty := maskSet l.dirty j false }

/-- A hit's effect on AGE and HITS (R224). -/
def Line.touch (l : Line) : Line := { l with age := 0, hits := min 15 (l.hits + 1) }

/-- Change the line at an index. -/
def Slice.onLine (s : Slice) (i : Nat) (f : Line → Line) : Slice :=
  match s.lines.look i with
  | some l => { s with lines := s.lines.put i (f l) }
  | none => s

/-! ### Eviction buffers (R229, R233-R235) -/

/-- Whether an eviction buffer holds blocks of a row. -/
def Evb.isRow (e : Evb) (w : RowLoc) : Bool := e.p == w.p && e.b == w.b && e.r == w.r

/-- The block that an eviction buffer holds for a place (R235), if the slice has formed no newer write of it since: until the buffer is
freed, whether or not the block has entered the write queue. -/
def Slice.evbBlock (s : Slice) (w : RowLoc) (j : Nat) : Option Block :=
  s.evbs.findSome? (fun (e : Nat × Evb) => if e.2.isRow w && !e.2.old.contains j then e.2.blocks.look j else none)

/-- Whether an eviction buffer holds a block (R244, R453). -/
def Slice.evbHas (s : Slice) (w : RowLoc) (j : Nat) : Bool := s.evbs.any (fun e => e.2.isRow w && e.2.blocks.has j)

/-- Whether an eviction buffer holds any block of a row (R476). -/
def Slice.evbHolds (s : Slice) (w : RowLoc) : Bool := s.evbs.any (fun e => e.2.isRow w)

/-- A newer write of a block is formed: what the eviction buffers hold of it is old from here on (R229). -/
def Slice.supersede (s : Slice) (w : RowLoc) (j : Nat) : Slice :=
  { s with evbs := s.evbs.map (fun (i, e) => (i, if e.isRow w && e.blocks.has j then { e with old := e.old ++ [j] } else e)) }

/-! ### Sending accesses (R31, R38, R39, R229, R264) -/

/-- What an access carries of its origin (R261, R262): its level as the slice forms it, its budget class where it has one, and its age
origin. -/
structure Lvl where
  level : Nat
  cls   : Option Nat
  born  : Nat
  deriving DecidableEq, Repr

/-- AGE in units of 16 ns since an age origin, saturating at 125 (R264). -/
def Chip.ageOf (c : Chip) (born : Nat) : Nat := min 125 ((c.keep - born) * 5 / 2)

/-- The place to which an access goes when it is issued (R245): where its row stands then. A racking keeps the places that it chose. -/
def Chip.placeOf (c : Chip) (m : Cmd) : Phys :=
  match m.origin with
  | .rack _ | .rackRead _ | .rackGone => m.loc
  | _ => c.locate m.home m.loc.j

/-- Whether an access goes to a pseudo-channel. -/
def Chip.goesTo (c : Chip) (k p : Nat) (m : Cmd) : Bool := let l := c.placeOf m; l.k == k && l.p == p

/-- The first access that slice `s` holds for a pseudo-channel, with its place among those it holds; a slice that has met a fatal condition
sends none (R582). -/
def Chip.heldFor (c : Chip) (s k p : Nat) : Option (Nat × Cmd) :=
  if c.halted (fltDct s) then none else (numbered 0 (c.slice s).out).find? (fun x => c.goesTo k p x.2)

/-- An access as it is written into the crossing FIFO (R264): its place, and its LEVEL and AGE as they stand in that cycle. -/
def Chip.stamp (c : Chip) (m : Cmd) : Cmd :=
  let a := c.ageOf m.born
  { m with
    loc := c.placeOf m, age := a
    level := if m.level == 2 || a == 125 then 2 else match m.cls with | some k => c.level k false | none => 1 }

/-- A corrected rewrite whose row racking has copied since the read (R453). -/
def Chip.outdated (c : Chip) (m : Cmd) : Bool := m.origin == .rewrite && c.locate m.home m.loc.j != m.loc

/-- The slice from which the command FIFO of a pseudo-channel takes its next access: a data channel has its own, and a reserve
controller serves the slices in round-robin order (R31). A group goes in whole, so that one activate can serve it (R225, R234). -/
def Chip.nextSlice (c : Chip) (k p : Nat) : Option Nat :=
  if k < 64 then (if (c.heldFor k k p).isSome then some k else none)
  else
    let pc := c.pc k p
    let more := match c.heldFor pc.rrSlice k p with | some (_, m) => m.grp != 0 && m.grp == pc.rrGrp | none => false
    if more then some pc.rrSlice
    else roundRobin 64 pc.rrSlice ((c.slices.map (·.1)).filter (fun s => (c.heldFor s k p).isSome))

/-- Accesses that slices hold enter the command FIFO of a pseudo-channel while it has a place, at most `fuel` of them (R38, R39, R363). -/
def Chip.fillFifo (c : Chip) (k p : Nat) : Nat → Chip
  | 0 => c
  | f + 1 =>
    if 16 ≤ (c.pc k p).fifo.length then c
    else
      match c.nextSlice k p with
      | none => c
      | some s =>
        match c.heldFor s k p with
        | none => c
        | some (i, m) =>
          let c' := c.onSlice s (fun sl => { sl with out := listDel sl.out i })
          (if c.outdated m then c'
           else c'.onPc k p (fun pc => { pc with fifo := pc.fifo ++ [c.stamp m], rrSlice := s, rrGrp := m.grp })).fillFifo k p f

/-- The accesses that slice `s` holds go on, wherever a FIFO has a place for them. -/
def Chip.pushOut (c : Chip) (s : Nat) : Chip :=
  (c.slice s).out.foldl (fun c m => let l := c.placeOf m; c.fillFifo l.k l.p 16) c

/-- The slice forms an access, which goes behind those it holds (R229). -/
def Chip.sendCmd (c : Chip) (m : Cmd) : Chip :=
  (c.onSlice m.home.c (fun s => { s with out := s.out ++ [m] })).fillFifo m.loc.k m.loc.p 16

/-- Form a write of block `j` of a row. -/
def Chip.sendWrite (c : Chip) (w : RowLoc) (j : Nat) (d : Block) (poison : Bool) (o : Origin) (l : Lvl) : Chip :=
  (c.onSlice w.c (·.supersede w j)).sendCmd
    { write := true, loc := c.locate w j, home := w, data := d, poison := poison, origin := o, level := l.level, age := 0
      cls := l.cls, born := l.born }

/-- Form a read of block `j` of a row, in a group or in none. -/
def Chip.sendRead (c : Chip) (w : RowLoc) (j : Nat) (o : Origin) (l : Lvl) (grp : Nat) : Chip :=
  c.sendCmd { write := false, loc := c.locate w j, home := w, data := 0, poison := false, origin := o, level := l.level, age := 0
              cls := l.cls, born := l.born, grp := grp }

/-- A slice forms a new group (R225, R234): its number. -/
def Chip.newGroup (c : Chip) (s : Nat) : Nat × Chip := ((c.slice s).grp + 1, c.onSlice s (fun sl => { sl with grp := sl.grp + 1 }))

/-! ### Eviction (R233, R234) -/

/-- The dirty sectors of a line. -/
def Line.dirtyBlocks (l : Line) : Tab Block := List.filter (fun (e : Nat × Block) => natBit l.dirty e.1) l.data

/-- A free eviction buffer of the four (R233). -/
def Slice.freeEvb (s : Slice) : Option Nat := (below 4).find? (fun i => !s.evbs.has i)

/-- Fill eviction buffer `i` of slice `s` and send its blocks to the row's pseudo-channel as one group (R234). Evictions
have no budget class (R262). DCT_CNT_WB_SECT counts the sectors of every write-back, those of a rescue (R239) and of a reserve's quiesce
(R551) too, which R260 does not list (DESIGN CHOICE, log entry 55). -/
def Chip.fillEvb (c : Chip) (s i : Nat) (l : Line) : Chip :=
  let w := l.rowLoc s
  let bs := l.dirtyBlocks
  let (g, c) := c.newGroup s
  let c := c.onSlice s (fun sl =>
    let sl := bs.foldl (fun sl b => sl.supersede w b.1) sl
    { sl with
      evbs := sl.evbs.put i { p := l.p, b := l.b, r := l.r, blocks := bs, sent := [] }
      cntEvict := sl.cntEvict.bump
      cntWbSect := sl.cntWbSect.add bs.length })
  let born := c.keep
  bs.foldl (fun c b => c.sendCmd { write := true, loc := c.locate w b.1, home := w, data := b.2, poison := false, origin := .evict s i
                                   level := 1, age := 0, born := born, grp := g }) c

/-- Whether the dirty sectors of a line could leave now: it has none, or an eviction buffer is free (R233, R249). -/
def Slice.roomFor (s : Slice) (l : Line) : Bool := l.dirtyBlocks.isEmpty || s.freeEvb.isSome

/-- The dirty sectors of a line leave for an eviction buffer (R233, R249). -/
def Chip.writeBack (c : Chip) (s : Nat) (l : Line) : Chip :=
  if l.dirtyBlocks.isEmpty then c
  else match (c.slice s).freeEvb with
    | some i => c.fillEvb s i l
    | none => c

/-! ### Replacement (R231, R232) -/

/-- Whether the line of a way may be replaced: no busy sector, no line lock. -/
def Slice.replaceable (s : Slice) (c : Nat) (l : Line) : Bool :=
  !s.rowBusy (l.rowLoc c) && !s.rowLocked (l.rowLoc c)

/-- Whether slice `s` may act on a line: it is replaceable, and its pseudo-channel is not in the first step of a rescue, in which the slice
keeps its lines (R239). -/
def Chip.lineFree (c : Chip) (s : Nat) (l : Line) : Bool :=
  (c.slice s).replaceable s l && !((c.pc s l.p).state == .rescue && (c.pc s l.p).rescueStep ≤ 1)

/-- The way of the highest AGE among ways, ties to the lowest (R231). -/
def oldestWay : List (Nat × Line) → Option (Nat × Line)
  | [] => none
  | (i, l) :: t =>
    match oldestWay t with
    | none => some (i, l)
    | some (k, m) => if l.age < m.age then some (k, m) else some (i, l)

/-- The way that R231 chooses in a set: an invalid one, else a line that may be replaced. -/
def Slice.chooseWay (s : Slice) (set : Nat) (free : Line → Bool) : Option (Nat × Option Line) :=
  match (below 16).find? (fun w => !s.lines.has (16 * set + w)) with
  | some w => some (16 * set + w, none)
  | none =>
    let ways := List.filter (fun (e : Nat × Line) => e.1 / 16 == set && free e.2) s.lines
    match oldestWay (List.filter (fun (e : Nat × Line) => !s.hot e.2) ways) with
    | some (i, l) => some (i, some l)
    | none => (oldestWay ways).map (fun (i, l) => (i, some l))

/-- Ageing at an allocation: hot lines at AGE 7 lose half their HITS, then every other valid line ages (R232). -/
def Slice.ageSet (s : Slice) (set new : Nat) : Slice :=
  { s with lines := s.lines.map (fun (i, l) =>
      if i / 16 == set && i != new then
        let h := if s.hot l && l.age == 7 then l.hits / 2 else l.hits
        (i, { l with hits := h, age := min 7 (l.age + 1) })
      else (i, l)) }

/-- Why an allocation cannot be made now. -/
inductive Alloc where
  | ok (c : Chip) (idx : Nat)
  | wait (why : CqWhy)

/-- Allocate a line for a row (R231-R233). -/
def Chip.allocate (c : Chip) (w : RowLoc) : Alloc :=
  let s := c.slice w.c
  let set := lineSet w.p w.b w.r
  match s.chooseWay set (c.lineFree w.c) with
  | none => .wait .way
  | some (i, old) =>
    let fresh : Line := ⟨w.p, w.b, w.r, 0, 0, 0, 0, []⟩
    let place (c : Chip) : Chip :=
      c.onSlice w.c (fun sl => let sl := sl.ageSet set i; { sl with lines := sl.lines.put i fresh })
    match old with
    | some l =>
      if l.dirty = 0 then .ok (place c) i
      else
        match s.freeEvb with
        | none => .wait .evb
        | some e => .ok ((place c).fillEvb w.c e l) i
    | none => .ok (place c) i

/-! ### SRAM errors (R218) -/

/-- The detail of a DCT event: set and way (R594). -/
def dctDetail (idx : Nat) : Nat := idx % 2048

/-- Raise a corrected-error event of a slice and count it. -/
def Chip.dctCe (c : Chip) (s idx : Nat) : Chip :=
  (c.onSlice s (fun sl => { sl with cntSramCe := bump32 sl.cntSramCe })).raise (fltDct s) ⟨1, 0x50, dctDetail idx⟩

/-- Count an uncorrectable SRAM error of a slice and raise its event. -/
def Chip.dctUe (c : Chip) (s idx cls code : Nat) : Chip :=
  (c.onSlice s (fun sl => { sl with cntSramUe := bump32 sl.cntSramUe })).raise (fltDct s) ⟨cls, code, dctDetail idx⟩

/-- What an SRAM error leaves of an access: it goes on, the block is lost, or the slice has stopped (R218, R582). -/
inductive SramOut where
  | go | lost | stop
  deriving DecidableEq, Repr

/-- Handle an SRAM error found on sector `j` of the line at `idx` (R218). `reads` tells that the access reads the sector. -/
def Chip.sramError (c : Chip) (w : RowLoc) (idx j : Nat) (reads : Bool) (err : SramErr) : Chip × SramOut :=
  let s := c.slice w.c
  match s.lines.look idx with
  | none => (c, .go)
  | some l =>
    match err with
    | .none => (c, .go)
    | .dataCe => if reads && natBit l.valid j then (c.dctCe w.c idx, .go) else (c, .go)
    | .tagCe => (c.dctCe w.c idx, .go)
    | .dataUe =>
      if !(reads && natBit l.valid j) then (c, .go)
      else
        let c' := c.onSlice w.c (fun sl => sl.onLine idx (·.dropSect j))
        if natBit l.dirty j then
          let c' := c'.dctUe w.c idx 2 0x52
          let c' := c'.ringRec { type := 0x0A, cls := 2, source := fltDct w.c, row := w.r, bank := bankIndex w, block := j,
                                 arg0 := w.c, arg1 := idx }
          (c'.sendWrite w j 0 true .loose ⟨1, none, c.keep⟩, .lost)
        else (c'.dctUe w.c idx 1 0x51, .go)
    | .tagUe =>
      if l.dirty = 0 then
        ((c.onSlice w.c (fun sl => { sl with lines := sl.lines.del idx })).dctUe w.c idx 1 0x51, .go)
      else (c.dctUe w.c idx 3 0x53, .stop)

end Sys2Proof.Machine
end

