-- ==== Sys2Proof/Machine/SliceServe.lean ====
section
/-! DEFINITION. How a slice serves a part or a granule operation (R220-R229, R310-R322): the table of R222 block by block,
and the answers. -/

namespace Sys2Proof.Machine

/-- Endpoint index of slice `s` (R308). -/
def epSlice (s : Nat) : Nat := 32 + s
/-- Endpoint index of press `p` (R308). -/
def epPress (p : Nat) : Nat := 96 + p
/-- Endpoint index of MGT (R308). -/
def epMgt : Nat := 112

/-- Put a packet into its source queue (R269). -/
def Chip.sendPkt (c : Chip) (vc : Vc) (src dst : Nat) (b : PktBody) : Chip :=
  { c with xbr := { c.xbr with pkts := c.xbr.pkts ++ [⟨vc, src, dst, b⟩] } }

/-! ### What an operation is -/

/-- The row of an operation. -/
def OpSrc.row : OpSrc → RowLoc
  | .host r => r.row
  | .gran g => g.row

/-- The blocks of an operation. -/
def OpSrc.blocks : OpSrc → List BlockAcc
  | .host r => r.blocks
  | .gran g => g.blocks

/-- The kind of access of an operation. -/
def OpSrc.kind : OpSrc → AccKind
  | .host r => r.kind
  | .gran g => if g.write then .wr else .rd

/-- Whether the access is a press read, which never allocates (R222). -/
def OpSrc.pressRead : OpSrc → Bool
  | .host _ => false
  | .gran g => !g.write

/-- The level, class and age origin of the operation's accesses; those under a line lock are AGED (R262, R264, R298). -/
def OpSrc.level (o : OpSrc) (c : Chip) : Lvl :=
  match o with
  | .host r => ⟨c.level r.cls r.aged, some r.cls, r.born⟩
  | .gran g => ⟨2, some g.cls, g.born⟩

/-- Whether an operation's blocks answer DEGRADED for OK: its pseudo-channel was degraded when the part reached the slice, or when the
chunk started (R138, R330), or the operation is work under way that a rescue completes (R239); a bank that a reserve serves in full is
no part of the rescue. -/
def Chip.opDegraded (c : Chip) (o : OpSrc) : Bool :=
  (match o with | .host r => r.deg | .gran g => g.deg) || c.inRescue o.row

/-- The effective policy of an operation in its slice (R201, R220): 0 write-back, 1 write-through, 2 bypass. -/
def OpSrc.policy (o : OpSrc) (s : Slice) : Nat :=
  let (pol, na) := match o with
    | .host r => (r.policy, r.noalloc)
    | .gran g => (g.policy, g.noalloc)
  if na || s.mode != .normal then 2 else min pol 2

/-- What is done to one block (R222). -/
inductive Plan where
  | none_        -- a masked block whose mask is 0 (R103)
  | readHit
  | readFill     -- miss: allocate if needed, fill
  | readBypass   -- miss: read from DRAM, nothing filled
  | write        -- whole block
  | aluHit
  | aluFill
  | aluStage     -- bypass miss: through a staging register (R228)
  | poisonWrite  -- a lost COPY source (R335)
  deriving DecidableEq, Repr

/-- The plan for a block under an effective policy (R222, R103). -/
def planOf (o : OpSrc) (pol : Nat) (acc : BlockAcc) (hit : Bool) : Plan :=
  let poisoned := match o with | .gran g => g.write && g.poison.contains acc.ix | _ => false
  if poisoned then .poisonWrite
  else match o.kind with
  | .rd => if hit then .readHit else if o.pressRead || pol = 2 then .readBypass else .readFill
  | .wr => .write
  | .wrMasked =>
    if acc.mask = 0 then .none_
    else if acc.mask = BitVec.allOnes 64 then .write
    else if hit then .aluHit else if pol = 2 then .aluStage else .aluFill
  | .atom .. | .accum _ => if hit then .aluHit else if pol = 2 then .aluStage else .aluFill

/-- Whether a plan needs a resident line (R222). -/
def Plan.needsLine (pl : Plan) (pol : Nat) (hit : Bool) : Bool :=
  match pl with
  | .readFill | .aluFill => true
  | .write => pol = 0 && !hit
  | _ => false

/-- The blocks of an operation with their plans, given the line that holds its row. -/
def plansOf (s : Slice) (o : OpSrc) : List (BlockAcc × Plan × Bool) :=
  let pol := o.policy s
  let valid := (s.lineOf o.row).elim 0 (·.2.valid)
  o.blocks.map (fun a => let h := natBit valid a.blk; (a, planOf o pol a h, h))

/-- ALU staging registers in use (R228). -/
def Slice.staged (s : Slice) : Nat :=
  (s.ops.map (fun o => (o.2.blocks.filter (fun b => b.wait == .staging)).length)).foldl (· + ·) 0

/-- Why an operation must wait before it can be served (R227, R228), other than for a line of its own. -/
def Slice.mustWait (s : Slice) (o : OpSrc) : Option CqWhy :=
  let w := o.row
  let ps := plansOf s o
  let touched := ps.filter (fun x => x.2.1 != .none_)
  let stage := (ps.filter (fun x => x.2.1 == .aluStage)).length
  if touched.isEmpty then none
  else if s.rowLocked w && (match o with | .host _ => true | .gran _ => false) then some .lock
  else if touched.any (fun x => s.sectBusy w x.1.blk) then some .busy
  else if stage != 0 && 8 < s.staged + stage then some .staging
  else none

/-! ### Counting (R260) -/

/-- Count a block access as R260 gives. -/
def Slice.count (s : Slice) (k : AccKind) (pl : Plan) (hit inRef : Bool) : Slice :=
  let s := if hit && inRef && pl != .none_ then { s with cntRefHit := s.cntRefHit.bump } else s
  match pl with
  | .none_ => s
  | _ =>
    match k with
    | .rd => if hit then { s with cntRdHit := s.cntRdHit.bump } else { s with cntRdMiss := s.cntRdMiss.bump }
    | .wr | .wrMasked => if hit then { s with cntWrHit := s.cntWrHit.bump } else { s with cntWrMiss := s.cntWrMiss.bump }
    | .atom .. | .accum _ => { s with cntAlu := s.cntAlu.bump }

/-! ### Finishing -/

/-- Whether every block of an operation is done. -/
def SliceOp.isDone (o : SliceOp) : Bool := o.blocks.all (·.wait == .done)

/-- The results of an operation's blocks. -/
def SliceOp.results (o : SliceOp) : List BlkRes := o.blocks.map (fun b => ⟨b.acc.ix, b.status, b.data⟩)

/-- The answer of a finished operation: a response part to the port, or granule data to the press; a granule write answers
by its release notice (R295). -/
def Chip.answerOp (c : Chip) (s : Nat) (o : SliceOp) : Chip :=
  match o.src with
  | .host r => c.sendPkt .rsp (epSlice s) r.port (.partRsp r.port r.tag r.part o.results)
  | .gran g =>
    if g.write then c else c.sendPkt .rsp (epSlice s) (epPress g.press) (.granData g.press o.results)

/-- Whether an operation holds its line lock still: a granule write stays until LINE_LOCK_RELEASE. -/
def SliceOp.keeps (o : SliceOp) : Bool := match o.src with | .gran g => g.write | _ => false

/-- Answer and drop operation `i` of slice `s` if it is done. -/
def Chip.closeOp (c : Chip) (s i : Nat) : Chip :=
  match (c.slice s).ops.look i with
  | some o => if o.isDone && !o.keeps then (c.onSlice s (fun sl => { sl with ops := sl.ops.del i })).answerOp s o else c
  | none => c

/-- Change block number `ix` of operation `i` of slice `s`. -/
def Slice.onBlk (s : Slice) (i ix : Nat) (f : BlkProg → BlkProg) : Slice :=
  match s.ops.look i with
  | some o => { s with ops := s.ops.put i { o with blocks := o.blocks.map (fun b => if b.acc.ix = ix then f b else b) } }
  | none => s

/-- Block `ix` of operation `i` is done. -/
def Slice.blkDone (s : Slice) (i ix : Nat) (st : Status) (d : Block) : Slice :=
  s.onBlk i ix (fun b => { b with wait := .done, status := st, data := d })

/-- Mark a sector busy or free it (R227). -/
def Slice.setBusy (s : Slice) (w : RowLoc) (j : Nat) (on : Bool) : Slice :=
  let rest := s.busy.filter (· != (w.p, w.b, w.r, j))
  { s with busy := if on then rest ++ [(w.p, w.b, w.r, j)] else rest }

/-! ### One block -/

/-- Whether the pseudo-channel where a block stands is in all-bank refresh (R236, R260). -/
def Chip.inRefresh (c : Chip) (w : RowLoc) (j : Nat) : Bool := let ph := c.locate w j; (c.pc ph.k ph.p).inRef

/-- Serve one block of operation `i` by its plan, once its line, buffers and registers are there (R222-R229). -/
def Chip.serveBlock (c : Chip) (i : Nat) (o : OpSrc) (pol : Nat) (x : BlockAcc × Plan × Bool) : Chip :=
  let (a, pl, hit) := x
  let w := o.row
  let s := w.c
  let lvl := o.level c
  let good := Status.ok.degrade (c.opDegraded o)
  let idx := ((c.slice s).lineOf w).elim 0 (·.1)
  let c := c.onSlice s (·.count o.kind pl hit (c.inRefresh w a.blk))
  let wtr := pol = 1 || pol = 2      -- the block goes to the write queue
  let queued (c : Chip) (d : Block) (poison : Bool) : Chip := c.sendWrite w a.blk d poison (.opWrite s i a.ix) lvl
  match pl with
  | .none_ => c.onSlice s (·.blkDone i a.ix good 0)
  | .readHit =>
    c.onSlice s (fun sl =>
      let d := ((sl.lines.look idx).elim 0 (·.sect a.blk))
      let sl := if pol = 2 || o.pressRead then sl else sl.onLine idx (·.touch)
      sl.blkDone i a.ix good d)
  | .write =>
    let c := c.onSlice s (fun sl =>
      if hit then
        let sl := sl.onLine idx (·.putSect a.blk a.data (pol = 0))
        if pol = 2 then sl else sl.onLine idx (·.touch)
      else if pol = 0 then sl.onLine idx (·.putSect a.blk a.data true)
      else sl)
    if wtr then queued (c.onSlice s (·.onBlk i a.ix (fun b => { b with wait := .queue, status := good }))) a.data false
    else c.onSlice s (·.blkDone i a.ix good 0)
  | .aluHit =>
    let d := ((c.slice s).lines.look idx).elim 0 (·.sect a.blk)
    let (n, old) := aluBlock o.kind a d
    let c := c.onSlice s (fun sl =>
      let sl := sl.onLine idx (·.putSect a.blk n (pol = 0))
      if pol = 2 then sl else sl.onLine idx (·.touch))
    let v : Block := BitVec.ofNat 512 old
    if wtr then queued (c.onSlice s (·.onBlk i a.ix (fun b => { b with wait := .queue, status := good, data := v }))) n false
    else c.onSlice s (·.blkDone i a.ix good v)
  | .readFill | .aluFill => c.onSlice s (·.onBlk i a.ix (fun b => { b with wait := .fill }))
  | .readBypass =>
    match (c.slice s).evbBlock w a.blk with
    | some d => c.onSlice s (·.blkDone i a.ix good d)
    | none => (c.onSlice s (·.onBlk i a.ix (fun b => { b with wait := .read }))).sendRead w a.blk (.opRead s i a.ix) lvl 0
  | .aluStage =>
    let c := c.onSlice s (fun sl => (sl.onBlk i a.ix (fun b => { b with wait := .staging })).setBusy w a.blk true)
    match (c.slice s).evbBlock w a.blk with
    | some d =>
      let (n, old) := aluBlock o.kind a d
      queued (c.onSlice s (·.onBlk i a.ix (fun b => { b with status := good, data := BitVec.ofNat 512 old }))) n false
    | none => c.sendRead w a.blk (.opRead s i a.ix) lvl 0
  | .poisonWrite =>
    let c := c.onSlice s (fun sl =>
      let sl := if hit then sl.onLine idx (·.dropSect a.blk) else sl
      sl.onBlk i a.ix (fun b => { b with wait := .queue, status := good }))
    queued c 0 true

/-- A block taken as filled: the operations that wait for it go on (R226, R313, R318). `st` is what the decoder gave. -/
def Chip.fillBlock (c : Chip) (w : RowLoc) (j : Nat) (st : Status) (d : Block) : Chip :=
  let s := w.c
  let lost := st.flagged
  let c := c.onSlice s (fun sl =>
    let sl := sl.setBusy w j false
    match sl.lineOf w with
    | some (idx, _) => if lost then sl else sl.onLine idx (fun l => { l.putSect j d false with age := 0 })
    | none => sl)
  -- operations waiting on this sector, in order of arrival
  let ids := List.filter (fun (e : Nat × SliceOp) => e.2.src.row == w && e.2.blocks.any (fun b => b.wait == .fill && b.acc.blk == j))
    (c.slice s).ops
  ids.foldl (fun c (i, op) =>
    let o := op.src
    let deg := c.opDegraded o
    let pol := o.policy (c.slice s)
    (op.blocks.filter (fun b => b.wait == .fill && b.acc.blk == j)).foldl (fun c b =>
      if lost then c.onSlice s (·.blkDone i b.acc.ix st 0)
      else
        match o.kind with
        | .rd => c.onSlice s (·.blkDone i b.acc.ix (st.degrade deg) d)
        | k =>
          let (n, old) := aluBlock k b.acc d
          let line := (c.slice s).lineOf w
          let c := match line with | some (idx, _) => c.onSlice s (·.onLine idx (·.putSect j n (pol = 0))) | none => c
          let v : Block := BitVec.ofNat 512 old
          if pol = 0 && line.isSome then c.onSlice s (·.blkDone i b.acc.ix (st.degrade deg) v)
          else (c.onSlice s (·.onBlk i b.acc.ix (fun b => { b with wait := .queue, status := st.degrade deg, data := v }))).sendWrite
            w j n false (.opWrite s i b.acc.ix) (o.level c)) c |>.closeOp s i) c

/-- Start the fill of a row's missing sectors with its prefetch (R225, R235): a sector that an eviction buffer holds comes
from there, the others are read from DRAM as one group. The prefetch starts above the highest sector that misses: R225 leaves open whether
a requested sector that hits counts (DESIGN CHOICE, log entry 55). -/
def Chip.startFill (c : Chip) (w : RowLoc) (need : List Nat) (level : Lvl) : Chip :=
  let s := w.c
  let sl := c.slice s
  let valid := (sl.lineOf w).elim 0 (·.2.valid)
  let top := need.foldl max 0
  let pre := (upFrom (top + 1) sl.prefetch).filter (fun j => j < 16 && !natBit valid j && !sl.sectBusy w j)
  let all := need ++ pre
  let c := all.foldl (fun c j => c.onSlice s (·.setBusy w j true)) c
  let (g, c) := c.newGroup s
  all.foldl (fun c j =>
    match (c.slice s).evbBlock w j with
    | some d => c.fillBlock w j .ok d
    | none => c.sendRead w j (.fill s) level g) c

/-! ### The whole operation -/

/-- The outcome of offering an operation to the slice. -/
inductive Serve where
  | served (c : Chip)
  | wait (why : CqWhy)

/-- Enter an operation whose blocks all take CAPACITY_LOST: its bank is unserved (R138, R209). A block of a WR_MASKED whose mask is all 0 is
not touched (R103) and counts as OK here, while in a degraded pseudo-channel it counts as DEGRADED like the others (log entry 49). -/
def Chip.serveUnserved (c : Chip) (o : OpSrc) : Chip :=
  let s := o.row.c
  let bs := o.blocks.map (fun a =>
    let st := if o.kind == .wrMasked && a.mask == 0 then Status.ok else Status.capacityLost
    (⟨a, .done, st, 0⟩ : BlkProg))
  let i := (c.slice s).ops.freeKey 4096 0
  (c.onSlice s (fun sl => { sl with ops := sl.ops.put i ⟨o, bs⟩ })).closeOp s i

/-- Whether an operation forms an access to the channel controller (R222). -/
def OpSrc.needsChannel (o : OpSrc) (s : Slice) : Bool :=
  (plansOf s o).any (fun x => match x.2.1 with
    | .none_ | .readHit => false
    | .write | .aluHit => o.policy s != 0
    | .readFill | .readBypass | .aluFill | .aluStage | .poisonWrite => true)

/-- Whether a host request must wait because the slice already holds accesses for its pseudo-channel (R38, R301, R363). It waits in the
conflict queue, so that hits and the other pseudo-channel are not delayed by it (R236; log entry 50). -/
def Chip.backlog (c : Chip) (o : OpSrc) : Bool :=
  match o with
  | .gran _ => false
  | .host r =>
    let l := c.locate r.row 0
    o.needsChannel (c.slice r.row.c) && (c.slice r.row.c).out.any (c.goesTo l.k l.p)

/-- Serve an operation that has the slice's attention: it is served as R222 gives, or it must wait (R227, R228, R231, R233). The blocks
`lost` were taken by an SRAM error: they had hit (R218, R260). -/
def Chip.serve (c : Chip) (o : OpSrc) (lost : List Nat) : Serve :=
  let w := o.row
  let s := w.c
  let sl := c.slice s
  if !c.served (bankIndex w) then .served (c.serveUnserved o)
  else if c.rowWaits w then .wait .rescue
  else
    match sl.mustWait o with
    | some why => .wait why
    | none =>
      if c.backlog o then .wait .queue
      else
      let pol := o.policy sl
      let ps := (plansOf sl o).filter (fun x => !lost.contains x.1.ix)
      let need := (ps.filter (fun x => x.2.1 == .readFill || x.2.1 == .aluFill)).map (fun x => x.1.blk)
      let needLine := (sl.lineOf w).isNone && ps.any (fun x => x.2.1.needsLine pol x.2.2)
      let go (c : Chip) : Serve :=
        let i := (c.slice s).ops.freeKey 4096 0
        let bs := o.blocks.map (fun a => (⟨a, .done, if lost.contains a.ix then .poison else .ok, 0⟩ : BlkProg))
        let c := c.onSlice s (fun sl => { sl with ops := sl.ops.put i ⟨o, bs⟩ })
        let c := (o.blocks.filter (fun a => lost.contains a.ix)).foldl
          (fun c a => c.onSlice s (·.count o.kind .readHit true (c.inRefresh w a.blk))) c
        let c := ps.foldl (fun c x => c.serveBlock i o pol x) c
        let c := if need.isEmpty then c else c.startFill w need (o.level c)
        .served (c.closeOp s i)
      if needLine then
        match c.allocate w with
        | .wait why => .wait why
        | .ok c _ => go c
      else go c

/-- Apply an SRAM error of an access to the line it reads, before it is served (R218): the state, the blocks it loses, and
whether the slice has stopped. -/
def Chip.serveErr (c : Chip) (o : OpSrc) (err : SramErr) : Chip × List Nat × Bool :=
  let w := o.row
  match (c.slice w.c).lineOf w with
  | none => (c, [], false)
  | some (idx, _) =>
    match (plansOf (c.slice w.c) o).filter (fun x => x.2.1 == .readHit || x.2.1 == .aluHit) with
    | [] => let (c, r) := c.sramError w idx 0 false err; (c, [], r == .stop)
    | x :: _ =>
      let (c, r) := c.sramError w idx x.1.blk true err
      match r with
      | .go => (c, [], false)
      | .lost => (c, [x.1.ix], false)
      | .stop => (c, [], true)

end Sys2Proof.Machine
end

