-- ==== Sys2Proof/Machine/Slice.lean ====
section
/-! DEFINITION. The slice's steps: SLICE_REQUEST, CONFLICT_QUEUE_RETRY, EVICTION_BUFFER_FREE, FILL_RETURN, LINE_LOCK_GRANT
(R222-R237, R296), and what the channel controller tells the slice. -/

namespace Sys2Proof.Machine

/-- The blocks that an operation touches (R103). -/
def OpSrc.touches (o : OpSrc) : List Nat :=
  (o.blocks.filter (fun a => !(o.kind == .wrMasked && a.mask == 0))).map (·.blk)

/-- Whether an operation that arrives must stand behind older work: a request of the conflict queue for one of its blocks (R227, R319),
or a granule operation that waits for the line (R296). -/
def Slice.standsBehind (s : Slice) (seq : Nat) (o : OpSrc) : Bool :=
  s.cq.any (fun x => x.1 < seq && x.2.1.row == o.row && x.2.1.touches.any o.touches.contains) ||
  s.lockLane.any (fun x => x.1 < seq && x.2.row == o.row)

/-- What keeps a request that arrives from being served at once (R227, R239, R319). -/
def Chip.arrivalWait (c : Chip) (seq : Nat) (o : OpSrc) : Option CqWhy :=
  let sl := c.slice o.row.c
  if c.served (bankIndex o.row) && c.rowWaits o.row then some .rescue
  else if sl.standsBehind seq o then some .order
  else sl.mustWait o

/-- The slice takes the packet at the head of its normal lane, unless its conflict queue is full (R222, R227, R296). -/
def Chip.sliceRequest (c : Chip) (s : Nat) (err : SramErr) : Chip :=
  let sl := c.slice s
  match sl.inBuf with
  | [] => c
  | (seq, it) :: rest =>
    if 32 ≤ sl.cq.length then c
    else
      let taken := c.onSlice s (fun sl => { sl with inBuf := rest })
      match it with
      | .walk w =>
        taken.onSlice s (fun sl =>
          if sl.walks.length < 4 then
            let pos := if sl.walks.isEmpty then 0 else sl.walkPos
            { sl with walks := sl.walks ++ [{ w with start := pos, left := 2048 }], walkPos := pos }
          else { sl with walkQ := sl.walkQ ++ [w] })
      | .op r =>
        let o := OpSrc.host r
        match c.arrivalWait seq o with
        | some why => taken.onSlice s (fun sl => { sl with cq := sl.cq ++ [(seq, o, why)] })
        | none =>
          let (c', lost, stop) := taken.serveErr o err
          if stop then c'
          else
            match c'.serve o lost with
            | .served c'' => c''
            | .wait why => c'.onSlice s (fun sl => { sl with cq := sl.cq ++ [(seq, o, why)] })

/-- Whether an older waiting request or granule operation asks for the same line (R296, R319). -/
def Slice.olderWaits (s : Slice) (seq : Nat) (w : RowLoc) : Bool :=
  s.cq.any (fun x => x.1 < seq && x.2.1.row == w) || s.lockLane.any (fun x => x.1 < seq && x.2.row == w)

/-- A request of the conflict queue goes on, once nothing it waits for holds it and no older one asks for its line
(R227, R322). -/
def Chip.cqRetry (c : Chip) (s i : Nat) : Chip :=
  let sl := c.slice s
  match sl.cq[i]? with
  | none => c
  | some (seq, o, _) =>
    if sl.olderWaits seq o.row then c
    else
      let c' := c.onSlice s (fun sl => { sl with cq := listDel sl.cq i })
      match c'.serve o [] with
      | .served c'' => c''
      | .wait _ => c

/-- A granule operation that holds its line lock and waits for a way or an eviction buffer goes on, if it can (R231, R233). -/
def Chip.granRetry (c : Chip) (s i : Nat) : Chip :=
  match (c.slice s).granWait[i]? with
  | none => c
  | some (_, g) =>
    match (c.onSlice s (fun sl => { sl with granWait := listDel sl.granWait i })).serve (.gran g) [] with
    | .served c' => c'
    | .wait _ => c

/-- A free eviction buffer is offered to the oldest operation that waits for an allocation (R233). -/
def Chip.evbOffer (c : Chip) (s : Nat) : Chip :=
  let sl := c.slice s
  match listIdx (fun (x : Nat × OpSrc × CqWhy) => x.2.2 == .evb) sl.cq, sl.granWait with
  | some k, (seq, _) :: _ => if seq < (sl.cq.map (·.1)).getD k 0 then c.granRetry s 0 else c.cqRetry s k
  | some k, [] => c.cqRetry s k
  | none, _ => c.granRetry s 0

/-- Eviction buffer `i` is freed once every block of it has entered the write queue (R234); the oldest operation that waits for an
allocation takes it. -/
def Chip.evbFree (c : Chip) (s i : Nat) : Chip :=
  match (c.slice s).evbs.look i with
  | none => c
  | some e =>
    if List.all e.blocks (fun b => e.sent.contains b.1) then (c.onSlice s (fun sl => { sl with evbs := sl.evbs.del i })).evbOffer s
    else c

/-- A read result comes back to an operation of the slice: a bypass read, a press read, or a read into a staging register
(R222, R228, R452). -/
def Chip.opReadBack (c : Chip) (s i ix : Nat) (st : Status) (d : Block) : Chip :=
  match (c.slice s).ops.look i with
  | none => c
  | some op =>
    match op.blocks.find? (fun b => b.acc.ix == ix) with
    | none => c
    | some b =>
      let o := op.src
      let w := o.row
      let st' := st.degrade (c.opDegraded o)
      match b.wait with
      | .staging =>
        if st.flagged then
          (c.onSlice s (fun sl => (sl.blkDone i ix st 0).setBusy w b.acc.blk false)).closeOp s i
        else
          let (n, old) := aluBlock o.kind b.acc d
          let c := c.onSlice s (·.onBlk i ix (fun b => { b with status := st', data := BitVec.ofNat 512 old }))
          c.sendWrite w b.acc.blk n false (.opWrite s i ix) (o.level c)
      | .read | .readQueued => (c.onSlice s (·.blkDone i ix st' (if st.flagged then 0 else d))).closeOp s i
      | _ => c

/-- The result at the head of the slice's return queue is installed, or flagged as lost (R226, R452). -/
def Chip.fillReturn (c : Chip) (s : Nat) : Chip :=
  match (c.slice s).ret with
  | [] => c
  | r :: rest =>
    let c := c.onSlice s (fun sl => { sl with ret := rest })
    match r.origin with
    | .fill _ => c.fillBlock r.home r.j r.status r.data
    | .opRead _ i ix => c.opReadBack s i ix r.status r.data
    | _ => c

/-- A write that an operation of a slice formed has entered its write queue, so it is visible there (R45, R321). -/
def Chip.opWriteQueued (c : Chip) (s i ix : Nat) : Chip :=
  match (c.slice s).ops.look i with
  | none => c
  | some op =>
    let blk := (op.blocks.find? (fun b => b.acc.ix == ix)).elim 0 (·.acc.blk)
    let staged := op.blocks.any (fun b => b.acc.ix == ix && b.wait == .staging)
    let deg := c.opDegraded op.src
    (c.onSlice s (fun sl =>
      let sl := sl.onBlk i ix (fun b => { b with wait := .done, status := b.status.degrade deg })
      if staged then sl.setBusy op.src.row blk false else sl)).closeOp s i

/-- Block `j` of eviction buffer `i` has entered the write queue (R234). -/
def Chip.evbSent (c : Chip) (s i j : Nat) : Chip :=
  c.onSlice s (fun sl =>
    match sl.evbs.look i with
    | some e => { sl with evbs := sl.evbs.put i { e with sent := e.sent ++ [j] } }
    | none => sl)

/-- What the slice that sent an access learns when the access enters a queue of the channel controller (R234, R297, R321). -/
def Chip.accessQueued (c : Chip) (m : Cmd) : Chip :=
  match m.origin with
  | .opWrite s i ix => c.opWriteQueued s i ix
  | .evict s i => c.evbSent s i m.loc.j
  | .opRead s i ix => c.onSlice s (·.onBlk i ix (fun b => if b.wait == .read then { b with wait := .readQueued } else b))
  | .rack d => c.onDie d (fun x => { x with rowOut := x.rowOut.map (fun r => { r with left := r.left - 1 }) })
  | _ => c

/-- The oldest granule operation of the lock lane whose line is free, with its place and its number of arrival (R296): no sector of the
line is busy, no lock is held on it, no older request asks for it, and no rescue keeps it waiting (R239). -/
def Chip.grantable (c : Chip) (s : Nat) : Option (Nat × Nat × GranOp) :=
  let sl := c.slice s
  (listIdx (fun (x : Nat × GranOp) =>
    !sl.rowBusy x.2.row && !sl.rowLocked x.2.row && !sl.olderWaits x.1 x.2.row &&
    !(c.served (bankIndex x.2.row) && c.rowWaits x.2.row)) sl.lockLane).bind
    (fun i => (sl.lockLane[i]?).map (fun x => (i, x.1, x.2)))

/-- Take a line lock (R296). -/
def Slice.lock (s : Slice) (w : RowLoc) (o : LockOwner) : Slice := { s with locks := s.locks ++ [(w.p, w.b, w.r, o)] }

/-- Give a line lock back. -/
def Slice.unlock (s : Slice) (o : LockOwner) : Slice := { s with locks := s.locks.filter (fun x => x.2.2.2 != o) }

/-- The row that the racking context of die `d` asks for in slice `s`, once it may be locked (R245, R476). -/
def Chip.rackGrantable (c : Chip) (s d : Nat) : Option RowLoc :=
  match (c.die d).lockWait with
  | none => none
  | some w =>
    let sl := c.slice s
    if w.c == s && !sl.rowBusy w && !sl.rowLocked w && !sl.evbHolds w then some w else none

/-- A line lock of slice `s` is granted: to the oldest granule operation that can take it, else to the racking context
that asks for a row of the slice (R243, R245, R296). A granule operation whose line then finds no way or no eviction buffer waits with
its lock held (R231, R233). Its accesses are AGED from here on (R262, R298, R307), and a racking row is charged here (R279). -/
def Chip.lineLockGrant (c : Chip) (s : Nat) : Chip :=
  match c.grantable s with
  | some (i, seq, g) =>
    let c := c.onSlice s (fun sl => { (sl.lock g.row (.press g.press)) with lockLane := listDel sl.lockLane i })
    let c := if g.aged then c else c.countAged g.blocks.length
    match c.serve (.gran { g with aged := true }) [] with
    | .served c' => c'
    | .wait _ => c.onSlice s (fun sl => { sl with granWait := sl.granWait ++ [(seq, { g with aged := true })] })
  | none =>
    match c.rackGrantable s (s / 4) with
    | some w =>
      ((c.onSlice s (·.lock w (.rack (s / 4)))).onDie (s / 4) (fun d => { d with lockWait := none })).charge 7 32
    | none => c

/-- Whether every access of the granule operation that holds a lock is served or queued (R297). -/
def Slice.granQueued (s : Slice) (p : Nat) : Bool :=
  !s.granWait.any (fun x => x.2.press == p) && List.all s.ops (fun (e : Nat × SliceOp) =>
    match e.2.src with
    | .gran g => g.press != p || e.2.blocks.all (fun b => b.wait == .done || b.wait == .readQueued)
    | .host _ => true)

/-- Whether an operation is the granule write of press `p`. -/
def SliceOp.granWriteOf (p : Nat) (o : SliceOp) : Bool :=
  match o.src with
  | .gran g => g.press == p && g.write
  | .host _ => false

/-- The line lock of a press in slice `s` is released and its notice goes to the press on RSP (R295, R297). -/
def Chip.granRelease (c : Chip) (s p : Nat) : Chip :=
  let sl := c.slice s
  if sl.locks.any (fun x => x.2.2.2 == .press p) && sl.granQueued p then
    let mine := List.filter (fun (e : Nat × SliceOp) => e.2.granWriteOf p) sl.ops
    let res := mine.flatMap (fun e => e.2.results)
    (c.onSlice s (fun sl => { (sl.unlock (.press p)) with
      ops := List.filter (fun (e : Nat × SliceOp) => !e.2.granWriteOf p) sl.ops })).sendPkt
        .rsp (epSlice s) (epPress p) (.notice p res)
  else c

/-! ### The part of a FLUSH in one slice (R138, R246) -/

/-- Whether some data bank that a window's bytes reach satisfies `P`. Under MODE 0 and 1 a granule of 64 KiB reaches one bank
of every channel, and 32 granules in line reach all; under MODE 2 it reaches the 16 banks of one pseudo-channel (R187-R190). -/
def anyBank (mode base last : Nat) (P : Nat → Bool) : Bool :=
  let last := min last memEnd
  if last ≤ base then false
  else if mode = 2 then
    (upFrom (base / 2 ^ 28) ((last - 1) / 2 ^ 28 - base / 2 ^ 28 + 1)).any (fun s =>
      let l := (mapAddr 2 (s * 2 ^ 28)).1
      (below 16).any (fun b => P (bankIndex { l with b := b })))
  else
    let n := min 64 ((last - base) / 65536)
    (upFrom (base / 65536) n).any (fun g =>
      let l := (mapAddr mode (g * 65536)).1
      (below 64).any (fun k => P (bankIndex { l with c := k })))

/-- Whether the pseudo-channel where a data bank stands is degraded. -/
def Chip.bankDegraded (c : Chip) (bank : Nat) : Bool :=
  c.served bank && c.rowDegraded ⟨bank / 32, (bank / 16) % 2, bank % 16, 0⟩

/-- The status that the banks of slice `s` give a FLUSH of a window (R138, R239). -/
def Chip.flushStatus (c : Chip) (s base last : Nat) : Status :=
  if anyBank c.addr.mode base last (fun b => b / 32 == s && !c.served b) then .capacityLost
  else if anyBank c.addr.mode base last (fun b => b / 32 == s && c.bankDegraded b) then .degraded
  else .ok

/-- Whether a window reaches a pseudo-channel of slice `s` that is in rescue (R138). -/
def Chip.windowInRescue (c : Chip) (s base last : Nat) : Bool :=
  anyBank c.addr.mode base last (fun b => b / 32 == s && c.inRescue ⟨b / 32, (b / 16) % 2, b % 16, 0⟩)

end Sys2Proof.Machine
end

