-- ==== Sys2Proof/Machine/Stream.lean ====
section
/-! DEFINITION. Streams and the answering of requests: completion, broken streams, release and offer (R143-R185, R95, R121,
R168, R250-R253), the staging buffer and its credits (R127, R128, R156). -/

namespace Sys2Proof.Machine

/-- Stream context `k` of a port. -/
def Port.stream (p : Port) (k : Nat) : Stream := p.streams.get {} k
/-- Change stream context `k` of a port. -/
def Port.onStream (p : Port) (k : Nat) (f : Stream → Stream) : Port := { p with streams := p.streams.upd {} k f }

/-- The stream of a request as a number. -/
def Req.streamN (r : Req) : Nat := r.hdr.stream.toNat
/-- The TAG of a request as a number. -/
def Req.tagN (r : Req) : Nat := r.hdr.tag.toNat

/-- The admitted request with a TAG. -/
def Port.req? (p : Port) (tag : Nat) : Option Req := p.reqs.find? (fun r => r.tagN == tag)

/-- Change the request with a TAG. -/
def Port.onReq (p : Port) (tag : Nat) (f : Req → Req) : Port :=
  { p with reqs := p.reqs.map (fun r => if r.tagN == tag then f r else r) }

/-- Requests of a stream admitted and not complete (R143): its OUTSTANDING count. -/
def Port.outstanding (p : Port) (k : Nat) : Nat :=
  (p.reqs.filter (fun r => isMember r.op && r.streamN == k)).length

/-- Whether request `r`, standing behind the requests `before`, must be held: behind the incomplete ORDERED request before
it in its stream when it is ORDERED (R155), or behind a FENCE (R164). A FENCE waits for every earlier member (R162). -/
def heldBehind (before : List Req) (r : Req) : Bool :=
  isMember r.op &&
  before.any (fun q => isMember q.op && q.streamN == r.streamN &&
    (q.op == .fence || r.op == .fence || (r.hdr.ordered && q.hdr.ordered)))

/-- Whether request `r`, standing behind the requests `before`, is held under R155 or behind a FENCE: what R161 counts. A FENCE is held
behind an earlier FENCE only (R145). -/
def orderHeld (before : List Req) (r : Req) : Bool :=
  isMember r.op &&
  before.any (fun q => isMember q.op && q.streamN == r.streamN && (q.op == .fence || (r.hdr.ordered && q.hdr.ordered)))

/-- The requests admitted before the one with a TAG. -/
def Port.before (p : Port) (tag : Nat) : List Req := p.reqs.takeWhile (fun r => r.tagN != tag)

/-- Whether the request with a TAG is held now. -/
def Port.isHeld (p : Port) (tag : Nat) : Bool :=
  match p.req? tag with
  | some r => heldBehind (p.before tag) r
  | none => false

/-- Whether at least one request of the port is held under R155 or behind a FENCE (R161, R184): one that is held at the port, one that waits
for its RSP space at check 8, or a job that waits in the job-wait queue. -/
def Port.holdsOne (p : Port) : Bool :=
  p.reqs.any (fun r => (r.phase == .held || r.phase == .waitJob || r.phase == .waitRsp) && orderHeld (p.before r.tagN) r)

/-! ### Credits and the transmit stream -/

/-- Whether the port can transmit and has given its initial grants. -/
def Port.canSend (p : Port) : Bool := p.state == .active && p.granted

/-- The header of a credit grant (R123). -/
def grantHeader (req rsp mgt : Nat) : Word × Word :=
  (BitVec.ofNat 32 (fld 0 2 2 + fld 2 12 req + fld 14 12 rsp), BitVec.ofNat 32 (fld 0 12 mgt))

/-! ### Flit slots (R84, R511) -/

/-- The bytes of the stream that a flit carries (R84). -/
def slotBytes : Nat := 244

/-- The next slot that may carry DXP bytes: where the run has had all of its own, the run's other slots carry PAD words only. -/
def TxSlots.next (x : TxSlots) : TxSlots :=
  if x.used < x.pace then (if 15 ≤ x.slot then { x with slot := 0, used := 0 } else { x with slot := x.slot + 1, used := x.used + 1 })
  else { x with slot := 1, used := 1 }

/-- The next `k` slots that may carry DXP bytes. -/
def TxSlots.skip (x : TxSlots) : Nat → TxSlots
  | 0 => x
  | k + 1 => x.next.skip k

/-- Bytes of a packet go into the slot begun last and the slots after it. A packet that a run's slots cannot end goes on in those of the
next run (DEDUCED, log entry 57). -/
def TxSlots.spend (x : TxSlots) (bytes : Nat) : TxSlots :=
  if bytes ≤ x.room then { x with room := x.room - bytes }
  else
    let k := ceilDiv (bytes - x.room) slotBytes
    { x.skip k with room := slotBytes * k + x.room - bytes }

/-- Whether a packet of so many bytes may begin now. -/
def TxSlots.opens (x : TxSlots) (bytes : Nat) : Bool := !x.stop && (bytes ≤ x.room || x.used < x.pace)

/-- The rest of the slot begun last, or a whole slot, carries PAD words. -/
def TxSlots.padOut (x : TxSlots) : TxSlots :=
  if x.room != 0 then { x with room := 0 }
  else if 15 ≤ x.slot then { x with slot := 0, used := 0 }
  else { x with slot := x.slot + 1 }

/-- Send the pending units in one credit grant (R123, R128). -/
def Port.sendGrant (p : Port) : Port :=
  { p with
    heldReq := p.heldReq + p.pendReq, heldRsp := p.heldRsp + p.pendRsp, heldMgt := p.heldMgt + p.pendMgt
    pendReq := 0, pendRsp := 0, pendMgt := 0
    lastTx := p.lastTx ++ [.grant (grantHeader p.pendReq p.pendRsp p.pendMgt)]
    slots := p.slots.spend 8 }

/-- A credit grant goes once 32 units of a pool are pending (R128), as soon as a flit slot may carry it (R511). -/
def Port.grantIfDue (p : Port) : Port :=
  if p.canSend && p.slots.opens 8 && (32 ≤ p.pendReq || 32 ≤ p.pendRsp || 32 ≤ p.pendMgt) then p.sendGrant else p

/-- Units of the RSP pool that are free (R124, R130). -/
def Port.rspFree (p : Port) : Nat := 1536 - p.rspUsed

/-- The words of a response header (R116). R145 has STREAM echoed in the response and the header of R116 has no field for it: the model
follows R116 and sends none (log entry 49). -/
def rspHeader (t : TxRsp) : Word × Word :=
  ( BitVec.ofNat 32 (fld 0 2 1 + fld 2 10 t.hdr.tag.toNat + fld 12 5 t.status.code + flag 17 t.e2e
      + fld 18 6 (t.data.length / 16) + fld 24 6 (opCode t.op))
  , BitVec.ofNat 32 (fld 0 16 t.hdr.seq.toNat + fld 16 16 t.arg) )

/-- Response data with its length in whole units of 16 bytes (R116). -/
def rspData (d : List Byte) : List Byte := padBytes (16 * ceilDiv d.length 16) d

/-- A response ready for the transmit synchroniser: its E2E bit and trailer as R117 and R178 give. -/
def mkTx (op : Op) (h : ReqHdr) (st : Status) (arg : Nat) (data : List Byte) (e2eOut : Bool) (poly cost mgt : Nat)
    (owns : Bool) : TxRsp :=
  let d := rspData data
  let e := e2eOut && !d.isEmpty
  { op := op, hdr := h, status := st, arg := arg, data := d, e2e := e
    trailer := if e then BitVec.ofNat 32 (e2eCrc poly (e2eMessage (startAddr h) h.seq.toNat d)) else 0
    rspCost := cost, mgtCost := mgt, ownsTag := owns }

/-- Put a response into the staging buffer's queue; an outbound trailer is counted (R183). A response that is discarded instead (R75) has
no trailer computed, and none is counted (log entry 49). -/
def Port.queueTx (p : Port) (t : TxRsp) : Port :=
  let p := if t.e2e then { p with e2eOutCnt := bump32 p.e2eOutCnt } else p
  if t.op == .mgmtCmd then { p with txMgt := p.txMgt ++ [t] } else { p with txq := p.txq ++ [t] }

/-! ### Press contexts of a port's jobs -/

/-- The press and context that hold a port's job, if any does (R325). -/
def Chip.jobOf (c : Chip) (n tag : Nat) : Option (Nat × Nat × JobCtx) :=
  c.presses.findSome? (fun (p, pr) =>
    pr.ctxs.findSome? (fun (i, j) => if j.port == n && j.tag == tag then some (p, i, j) else none))

/-- Free the context of a port's job, once its final response is handed off or discarded (R325). -/
def Chip.freeJob (c : Chip) (n tag : Nat) : Chip :=
  match c.jobOf n tag with
  | some (p, i, _) => c.onPress p (fun pr => { pr with ctxs := pr.ctxs.del i })
  | none => c

/-! ### Completion (R154) -/

/-- Discard a response at the staging buffer: it is counted and its TAG and space are free (R75). -/
def Port.discard (p : Port) (cost : Nat) : Port :=
  { p with cntDiscard := bump32 p.cntDiscard, rspUsed := p.rspUsed - cost }

/-- Release a marked context that has no outstanding request (R180, R144). -/
def Port.releaseStream (p : Port) (k : Nat) : Port :=
  if (p.stream k).relPend && p.outstanding k == 0 then { p with streams := p.streams.del k } else p

/-- The counters and rejection registers that a response's status moves (R140, R141, R183). -/
def Port.countAnswer (p : Port) (op : Op) (h : ReqHdr) (st : Status) (arg : Nat) : Port :=
  let p := match st with
    | .badOp => { p with cntBadop := bump32 p.cntBadop }
    | .denied => { p with cntDenied := bump32 p.cntDenied }
    | .unmapped => { p with cntUnmapped := bump32 p.cntUnmapped }
    | .seqGap => { p with cntSeqGap := bump32 p.cntSeqGap }
    | _ => p
  match st with
  | .badOp | .denied | .unmapped | .e2eFail =>
    { p with rejHdr0 := (packHdr (BitVec.ofNat 6 (opCode op)) h).1.toNat, rejDetail := arg % 256, rejStatus := st.code }
  | _ => p

/-- A port closes an admitted request with a response: the response enters the staging queue, or is discarded when its link has gone
down since; its stream follows R150 and R180. -/
def Port.close (p : Port) (r : Req) (t : TxRsp) : Port :=
  let p := { p with reqs := p.reqs.filter (fun q => q.tagN != r.tagN), jobWait := p.jobWait.filter (· != r.tagN) }
  let p := p.countAnswer r.op r.hdr t.status t.arg
  let p := if r.stale then p.discard (if r.phase == .waitRsp then 0 else r.rspCost) else p.queueTx t
  let p := if isMember r.op && r.hdr.ordered && !r.fenced && breaks r.op t.status then
    p.onStream r.streamN (fun s => { s with broken := true }) else p
  p.releaseStream r.streamN

/-- A request completes with an answer. A held job that holds a context and is answered SEQ_GAP ends on its press (R346). -/
def Chip.finishOne (c : Chip) (n tag : Nat) (st : Status) (arg : Nat) (data : List Byte) : Chip :=
  match (c.port n).req? tag with
  | none => c
  | some r =>
    let t := mkTx r.op r.hdr st arg data r.e2eOut r.poly r.rspCost (if r.op == .mgmtCmd then 9 else 0) true
    let c := c.onPort n (·.close r t)
    if r.stale && isJob r.op then c.freeJob n tag
    else if isJob r.op then
      match c.jobOf n tag with
      | some (p, i, j) => c.onPress p (fun pr => { pr with
          ctxs := pr.ctxs.put i { j with ended := true, status := st }
          cntJobEnd := if st == .seqGap then bump32 pr.cntJobEnd else pr.cntJobEnd })
      | none => c
    else c

/-- Whether a request is ORDERED and has not been released (R152). -/
def Req.unreleased (r : Req) : Bool :=
  isMember r.op && r.hdr.ordered && (r.phase == .held || r.phase == .waitJob || r.phase == .waitRsp) && !r.gap

/-- The ORDERED requests of a stream that were admitted after the request with a TAG and have not been released, in SEQ order: their
admission order (R152). -/
def Port.unreleasedAfter (p : Port) (tag k : Nat) : List Nat :=
  (((p.reqs.dropWhile (fun r => r.tagN != tag)).drop 1).filter (fun r => r.streamN == k && r.unreleased)).map Req.tagN

/-- A request of a broken stream is answered SEQ_GAP without execution (R152). One that waits at check 8 has no space for its response
yet, and is answered once it has it (R130). -/
def Chip.gapOne (c : Chip) (n tag : Nat) : Chip :=
  match (c.port n).req? tag with
  | some q => if q.phase == .waitRsp then c.onPort n (·.onReq tag (fun r => { r with gap := true })) else c.finishOne n tag .seqGap 0 []
  | none => c

/-- The 16 data bytes of a job response (R109). -/
def jobData (done jstate result lost : Nat) : List Byte :=
  leBytes 8 (fld 0 37 done + fld 40 3 jstate) ++ leBytes 4 result ++ leBytes 4 (min max32 lost)

/-- A request completes (R154). When that breaks its stream, every ORDERED request of the stream that was admitted after it and has not
been released answers SEQ_GAP (R150, R152). -/
def Chip.finish (c : Chip) (n tag : Nat) (st : Status) (arg : Nat) (data : List Byte) : Chip :=
  match (c.port n).req? tag with
  | none => c
  | some r =>
    let later := (c.port n).unreleasedAfter tag r.streamN
    let c := c.finishOne n tag st arg data
    if isMember r.op && r.hdr.ordered && !r.fenced && breaks r.op st then later.foldl (fun c t => c.gapOne n t) c else c

/-! ### The answer of an executed request (R119, R120, R137) -/

/-- The response data of a data request from its block results. -/
def dataOf (r : Req) (st : Status) : List Byte :=
  let size := sizeBytes r.hdr.size
  match r.op with
  | .rd =>
    if st.flagged && !r.hdr.poisonOk then []
    else (below (size / 64)).flatMap (fun k =>
      match r.results.find? (fun b => b.ix == k) with
      | some b => if b.status.flagged then leBytes 64 0 else blockBytes b.data
      | none => leBytes 64 0)
  | .atom =>
    if st.flagged then []
    else match r.results with
      | b :: _ => leBytes 16 b.data.toNat
      | [] => []
  | _ => []

/-- The answer that a request's gathered results make. -/
def Req.answer (r : Req) : Status × Nat × List Byte :=
  let st := mergeStatus r.results
  (st, if st.flagged then mergeFlags r.results else 0, dataOf r st)

/-- The request with a TAG has its whole response in the staging buffer and completes (R154). -/
def Chip.requestComplete (c : Chip) (n tag : Nat) : Chip :=
  match (c.port n).req? tag with
  | some r => if r.phase == .staged then c.finish n tag r.status r.arg r.data else c
  | none => c

/-! ### Offer and release (R121, R155, R160) -/

/-- The largest of a list of numbers. -/
def maxOf (l : List Nat) : Nat := l.foldl max 0

/-- The status that the targets of a request's parts force at its offer, with the larger hint (R121). -/
def Chip.offerCheck (c : Chip) (parts : List SliceReq) : Option (Status × Nat) :=
  let tested := parts.filter (fun q => c.underTest q.row)
  let rescued := parts.filter (fun q => c.inRescue q.row)
  if !tested.isEmpty then some (.busyTest, maxOf (tested.map (fun q => c.testHint q.row)))
  else if !rescued.isEmpty then some (.retry, maxOf (rescued.map (fun q => c.retryHint q.row.c q.row.p)))
  else none

/-- Units charged to a request's class at its release (R279). -/
def releaseUnits (r : Req) : Nat :=
  match r.op with
  | .rd | .wr | .wrMasked | .accum => sizeBytes r.hdr.size / 64
  | .atom => 1
  | _ => 0

/-- A prompt lookup of slice `s` for one block (R250, R253): the block's data when it hits, its sector is not busy and its
line not locked. -/
def Slice.promptHit (s : Slice) (w : RowLoc) (j : Nat) : Option (Nat × Block) :=
  match s.lineOf w with
  | some (i, l) => if natBit l.valid j && !s.sectBusy w j && !s.rowLocked w then some (i, l.sect j) else none
  | none => none

/-- The contest for the prompt lane of a slice in one cycle, as port `n` meets it (R252): whether it wins, and the slice. The reads of the
other ports that take part are admitted by later commands, which find the outcome here. -/
def Slice.promptLane (s : Slice) (n : Nat) (rivals : List Nat) : Bool × Slice :=
  match if rivals.isEmpty then none else s.promptDue.look n with
  | some won => (won, { s with promptDue := s.promptDue.del n })
  | none =>
    let w := (roundRobin 32 s.promptRr (n :: rivals)).getD n
    (w == n, { s with
      promptRr := w
      promptDue := (rivals.filter (· != n)).foldl (fun (t : Tab Bool) m => t.put m (m == w)) [] })

/-- The request with a TAG has its block from the prompt return lane (R253). -/
def Port.promptData (p : Port) (tag : Nat) (b : BlkRes) : Port :=
  p.onReq tag (fun r =>
    let r := { r with results := [b] }
    let (st, arg, data) := r.answer
    { r with phase := .staged, status := st, arg := arg, data := data })

/-- The PROMPT path of a request that has not been held and has not waited (R250-R255): the state after its lookup, and whether it was
served. One that fails a condition of R250 is counted in its slice (R251); one whose sector an uncorrectable error takes goes on as a miss
of the normal path and is not (R255). -/
def Chip.promptPath (c : Chip) (n tag : Nat) (q : SliceReq) (look : Lookup) (inBudget : Bool) : Chip × Bool :=
  let w := q.row
  if c.halted (fltDct w.c) then (c, false)
  else
  let (won, sl) := (c.slice w.c).promptLane n (look.rivals.map (·.val))
  let c := c.onSlice w.c (fun _ => sl)
  let back : Chip × Bool := (c.onSlice w.c (fun sl => { sl with cntPromptFb := bump32 sl.cntPromptFb }), false)
  match q.blocks with
  | [a] =>
    match sl.promptHit w a.blk with
    | some (i, d) =>
      if won && inBudget && sl.promptEn && sl.mode == .normal && c.served (bankIndex w) then
        let (c', r) := c.sramError w i a.blk true look.err
        if r == .stop then (c', true)
        else if r == .go && ((c'.slice w.c).promptHit w a.blk).isSome then
          let c' := c'.onSlice w.c (fun s =>
            let s := if OpSrc.policy (.host q) sl = 2 then s else s.onLine i (·.touch)
            { s.count .rd .readHit true (c.inRefresh w a.blk) with cntPrompt := s.cntPrompt.bump })
          (c'.onPort n (·.promptData tag ⟨a.ix, Status.ok.degrade (c.rowDegraded w), d⟩), true)
        else (c', false)
      else back
    | none => back
  | _ => back

/-- Offer a released request to the crossbar: its parts in order (R168), or the 64 packets of a FLUSH (R267). -/
def Chip.offer (c : Chip) (n tag : Nat) (r : Req) : Chip :=
  match r.op with
  | .flush =>
    let w : Walk :=
      { port := n, tag := tag, base := r.winBase, last := r.winEnd, inval := natBit r.hdr.subop.toNat 6, start := 0, left := 0, cls := r.cls }
    let c := c.onPort n (·.onReq tag (fun r => { r with phase := .active, left := 64 }))
    (below 64).foldl (fun c s => c.sendPkt .req n (epSlice s) (.walk w)) c
  | _ =>
    let c := c.onPort n (fun p =>
      let p := p.onReq tag (fun r => { r with phase := .active, left := r.parts.length })
      if r.parts.length == 2 then { p with cntSplit := bump32 p.cntSplit } else p)
    r.parts.foldl (fun c q => c.sendPkt .req n (epSlice q.row.c) (.part { q with born := c.keep })) c

/-- Release the request with a TAG: its bytes are charged, and it is offered, answered by its targets' state, or served on
the prompt path (R121, R155, R160, R250). `fresh` tells that it has neither been held nor waited. -/
def Chip.release (c : Chip) (n tag : Nat) (fresh : Bool) (look : Lookup) : Chip :=
  match (c.port n).req? tag with
  | none => c
  | some r =>
    if isJob r.op then
      let c := c.onPort n (·.onReq tag (fun r => { r with phase := .active }))
      match c.jobOf n tag with
      | some (p, i, j) => c.onPress p (fun pr => { pr with ctxs := pr.ctxs.put i { j with released := true } })
      | none => c
    else if isData r.op then
      let inBudget := !c.overBudget r.cls
      let c := c.charge r.cls (releaseUnits r)
      match c.offerCheck r.parts with
      | some (st, hint) => c.finish n tag st hint []
      | none =>
        match fresh && r.hdr.prompt, r.parts with
        | true, [q] =>
          let (c', served) := c.promptPath n tag q look inBudget
          if served then c' else c'.offer n tag r
        | _, _ =>
          -- a PROMPT read that was held or has waited falls back too (R157, R251)
          let c := match r.hdr.prompt, r.parts with
            | true, q :: _ => c.onSlice q.row.c (fun sl => { sl with cntPromptFb := bump32 sl.cntPromptFb })
            | _, _ => c
          c.offer n tag r
    else c.offer n tag r

/-- A held request is released once nothing holds it (R155, R164). -/
def Chip.releaseIfFree (c : Chip) (n tag : Nat) : Chip :=
  match (c.port n).req? tag with
  | some r => if r.phase == .held && r.op != .fence && !(c.port n).isHeld tag then c.release n tag false {} else c
  | none => c

/-- A FENCE completes once no earlier member of its stream is incomplete; the requests held behind it that nothing else
holds are then released (R162-R164). -/
def Chip.fenceComplete (c : Chip) (n tag : Nat) : Chip :=
  match (c.port n).req? tag with
  | some r =>
    if c.live && r.op == .fence && r.phase == .held && !(c.port n).isHeld tag then
      let c := c.finish n tag .ok 0 []
      (((c.port n).reqs.filter (fun q => q.streamN == r.streamN)).map Req.tagN).foldl (fun c t => c.releaseIfFree n t) c
    else c
  | none => c

end Sys2Proof.Machine
end

