-- ==== Sys2Proof/Machine/Link.lean ====
section
/-! DEFINITION. The links of the host ports (R49-R83): bring-up, retraining, link-down and what it does to the requests
and jobs of its port, the link counters, credit grants and the hand-off of responses. -/

namespace Sys2Proof.Machine

/-! ### Ends of jobs -/

/-- Count the end of a job on its press (PRS_CNT_JOB_END, PRS_CNT_JOB_ABORT). -/
def Press.countEnd (p : Press) (st : Status) : Press :=
  { p with
    cntJobEnd := bump32 p.cntJobEnd
    cntJobAbort := match st with
      | .aborted | .retry | .capacityLost => bump32 p.cntJobAbort
      | _ => p.cntJobAbort }

/-- The JOB_CUT record of a job (R76). -/
def Chip.cutRecord (c : Chip) (source n tag done op : Nat) : Chip :=
  c.ringRec { type := 0x0B, cls := 0, source := source, port := n, tag := tag, arg0 := done / 64, arg1 := op }

/-- RESULT of a job as it stands (R109, R337). -/
def JobCtx.result (j : JobCtx) : Nat :=
  if j.kind == .rangeCrc && j.done == j.len && j.lostblk == 0 then j.crc ^^^ max32 else 0

/-- The opcode of a kind of job (R325). -/
def JobKind.op : JobKind → Op
  | .fill => .fill | .copy => .copy | .rangeCrc => .rangeCrc

/-- The press forms the final response of the job in context `i` and sends it on RSP (R109, R339, R340). -/
def Chip.endAtPress (c : Chip) (p i : Nat) (st : Status) (arg : Nat) : Chip :=
  match (c.press p).ctxs.look i with
  | none => c
  | some j =>
    let c := if j.cut then c.cutRecord (fltPrs p) j.port j.tag j.done (opCode j.kind.op) else c
    let c := c.onPress p (fun pr =>
      { (pr.countEnd st) with ctxs := pr.ctxs.put i { j with ended := true, status := st, waitTest := false, waitBuf := false } })
    c.sendPkt .rsp (epPress p) j.port (.jobRsp j.port j.tag st arg (jobData j.done 5 j.result j.lostblk))

/-- Change the job in context `i` of a press. -/
def Press.onCtx (p : Press) (i : Nat) (f : JobCtx → JobCtx) : Press :=
  match p.ctxs.look i with
  | some j => { p with ctxs := p.ctxs.put i (f j) }
  | none => p

/-- A cancel is recorded for the job in context `i` of press `p`, by JOB_CANCEL or by a link-down (`cut`). A job that waits at its boundary
for a test of a channel ends there at once (R340), unless its press is under test itself (R342). -/
def Chip.recordCancel (c : Chip) (p i : Nat) (cut : Bool) : Chip :=
  let c := c.onPress p (·.onCtx i (fun j => { j with cancel := true, cut := j.cut || cut }))
  match (c.press p).ctxs.look i with
  | some j => if j.waitTest && (c.press p).mode == .normal then c.endAtPress p i .aborted 0 else c
  | none => c

/-- The end of a job that has not started counts on its press where it holds a context. -/
def Chip.countUnstarted (c : Chip) (n tag : Nat) : Chip :=
  match c.jobOf n tag with
  | some (p, _, _) => c.onPress p (·.countEnd .aborted)
  | none => c

/-- A job that has no context, or whose context is not released, ends at once ABORTED with DONE 0 (R111). -/
def Chip.endUnstarted (c : Chip) (n tag : Nat) : Chip := (c.countUnstarted n tag).finish n tag .aborted 0 (jobData 0 5 0 0)

/-- Whether a request is a job that has not started: it has no context, or is held with one (R76). -/
def Chip.unstarted (c : Chip) (n : Nat) (r : Req) : Bool :=
  isJob r.op &&
  match c.jobOf n r.tagN with
  | some (_, _, j) => !j.released
  | none => r.phase != .staged

/-- What a link-down does to one job of the port (R76): one that has not started ends at once, ABORTED with DONE 0; one that runs is
cancelled. -/
def Chip.cutJob (c : Chip) (n : Nat) (r : Req) : Chip :=
  if c.unstarted n r then
    ((c.cutRecord (fltHpa n) n r.tagN 0 (opCode r.op)).countUnstarted n r.tagN).finishOne n r.tagN .aborted 0 (jobData 0 5 0 0)
  else
    match c.jobOf n r.tagN with
    | some (p, i, j) =>
      if j.ended then c else c.recordCancel p i true
    | none => c

/-- The requests that stand unreleased behind an ORDERED job that a link-down ends, and are no such job themselves: R152 answers them
SEQ_GAP (R181). -/
def Chip.gapsBehind (c : Chip) (n : Nat) : List Nat :=
  ((c.port n).reqs.filter (fun r => r.unreleased && !c.unstarted n r &&
    ((c.port n).before r.tagN).any (fun q => c.unstarted n q && q.hdr.ordered && !q.fenced && q.streamN == r.streamN))).map Req.tagN

/-! ### Link-down -/

/-- What a link-down discards of a port (R74, R75): flits not admitted, and the responses that wait; every admitted request
becomes one of the earlier session. An answer at the port that still waits for RSP space (R133) is dropped with its request, and
PORT_CNT_DISCARD does not count it (log entry 49). The HELD counts stand until the next session's initial grants: R78 and R140 leave open what
they show in between (DESIGN CHOICE, log entry 55). -/
def Port.cutOff (p : Port) : Port :=
  let p := (p.txq ++ p.txMgt).foldl (fun p t => p.discard t.rspCost) p
  { p with
    rxq := [], ansWait := none, txq := [], txMgt := []
    reqs := p.reqs.map (fun r => { r with stale := true })
    pendReq := 0, pendRsp := 0, pendMgt := 0
    granted := false
    slots := { p.slots with slot := 0, used := 0, room := 0 }
    e2eRun := 0 }

/-- Mark every stream context for release, and release those that hold no request (R180). -/
def Port.markStreams (p : Port) : Port :=
  let p := (p.reqs.filter (fun r => isMember r.op)).foldl (fun p r => p.onStream r.streamN id) p
  let ks := p.streams.map (·.1)
  let p := { p with streams := p.streams.map (fun (k, s) => (k, { s with relPend := true })) }
  ks.foldl (fun p k => p.releaseStream k) p

/-- The reasons that FLT records (R72). -/
def downEvent (reason : Nat) : Bool := 5 ≤ reason && reason ≤ 9

/-- Port `n` becomes DOWN with a reason (R72-R76, R180). -/
def Chip.linkDown (c : Chip) (n reason : Nat) : Chip :=
  let jobs := ((c.port n).txq.filter (fun t => isJob t.op && t.ownsTag)).map (fun t => t.hdr.tag.toNat)
  let c := c.onPort n (fun p => { p.cutOff with
    state := .down, reason := reason, rate := 0, resume := false, replays := 0
    cntLinkdown := if 4 ≤ reason && reason ≤ 9 then bump16 p.cntLinkdown else p.cntLinkdown })
  let c := jobs.foldl (fun c t => c.freeJob n t) c
  let gaps := c.gapsBehind n
  let c := ((c.port n).reqs.filter (fun r => isJob r.op)).foldl (fun c r => c.cutJob n r) c
  let c := gaps.foldl (fun c t => c.gapOne n t) c
  let c := c.onPort n Port.markStreams
  if downEvent reason then c.raise (fltHpa n) ⟨1, 0x40, reason⟩ else c

/-- Whether the link of a port is active (R68). -/
def Port.linkUp (p : Port) : Bool := p.state == .activeWait || p.state == .active

/-- Whether the port has a link that an event can take down: it is enabled and not already DOWN or in reset. -/
def Port.canFall (p : Port) : Bool := p.enabled && p.state != .down && p.state != .reset

/-- A cause of R72 takes port `n` down. -/
def Chip.portFails (c : Chip) (n reason : Nat) : Chip :=
  if c.live && (c.port n).canFall then c.linkDown n reason else c

/-- The word of PORT_CNT_LINK. -/
def Port.linkCounts (p : Port) : Nat := fld 16 16 p.cntLinkdown + fld 0 16 p.cntRetrain

/-- CK_PORT[n] stops: the copies of the counters it holds keep their last values (R73, R666). -/
def Port.stopClock (p : Port) : Port :=
  { p with fwdOk := false, copies := some (p.cntCrc, p.cntReplay, p.linkCounts, p.cntDiscard) }

/-- PORT_CNT_CLR (R83). -/
def Port.clearLink (p : Port) : Port := { p with cntCrc := 0, cntReplay := 0, cntLinkdown := 0, cntRetrain := 0, cntDiscard := 0 }

/-- CK_PORT[n] runs: the copies follow, and a clear that waited acts (R666). -/
def Port.startClock (p : Port) : Port :=
  let p := { p with fwdOk := true, copies := none }
  if p.clrPend then { p.clearLink with clrPend := false } else p

/-- A write of PORT_CNT_CLR: it waits while CK_PORT[n] is stopped (R666). -/
def Port.writeCntClr (p : Port) : Port := if p.copies.isNone then p.clearLink else { p with clrPend := true }

/-- The forwarded clock of port `n` is lost (R73). -/
def Chip.fwdClkLost (c : Chip) (n : Nat) : Chip :=
  if c.live && (c.port n).fwdOk then
    let c := c.onPort n Port.stopClock
    if (c.port n).canFall then c.linkDown n 8 else c
  else c

/-! ### Bring-up and retraining -/

/-- The rate code at which a training starts (PORT_LINK_CTL.RATE_CAP). -/
def Port.cap (p : Port) : Nat := min p.rateCap 2

/-- Whether a DOWN port may start again at step 1 (R67). -/
def Port.mayRestart (p : Port) : Bool :=
  p.state == .down && !p.disable && (p.reason == 3 || (4 ≤ p.reason && p.reason ≤ 9))

/-- Bring-up starts at step 1 (R65). -/
def Port.start (p : Port) : Port :=
  { p with state := .sbInit, reason := 0, rate := 0, sbUp := false, resume := false, replays := 0, sbSent := [] }

/-- Step 2 of a training begins: the repairs shown are cleared (R71). -/
def Port.startMb (p : Port) : Port := { p with rate := p.cap, repTx := [], repRx := [], cvt := false }

/-- A retrain starts (R68). -/
def Port.startRetrain (p : Port) : Port :=
  if p.linkUp then
    { p.startMb with state := .retrain, resume := false, replays := 0, cntRetrain := bump16 p.cntRetrain }
  else p

/-- The host begins sideband initialisation on port `n` (R67). -/
def Chip.sbInit (c : Chip) (n : Nat) : Chip :=
  let p := c.port n
  if c.live && 9 ≤ c.boot.step && p.enabled && p.mayRestart then c.onPort n Port.start else c

/-- The repairs of a training as PORT_REPAIR_TX and PORT_REPAIR_RX show them: at most four lanes. -/
def repairWord (ls : List Nat) : Nat :=
  let e (k : Nat) : Nat := match (ls.take 4)[k]? with
    | some l => fld (8 * k) 6 l + 2 ^ (8 * k + 7)
    | none => 0
  e 0 + e 1 + e 2 + e 3

/-- The LANE_HIST record of a port training (R71, R630). -/
def Chip.laneHistPort (c : Chip) (n : Nat) : Chip :=
  let p := c.port n
  c.journal areaLane (leBytes 1 0 ++ leBytes 1 n ++ leBytes 1 p.rate ++ leBytes 1 0 ++
    leBytes 4 (repairWord p.repTx) ++ leBytes 4 (repairWord p.repRx))

/-- The state a port takes once step 3 is done: ACTIVE once READY has been given and outside test mode, else
ACTIVE_WAIT (R65, R67, R530, R550). -/
def Chip.afterAdapter (c : Chip) : LinkState := if c.boot.st == .ready && !c.boot.testMode then .active else .activeWait

/-- A bring-up step of port `n` completes or fails (R65-R71). The history record of R71 is written when step 2 succeeds; a training that
fails leaves none (log entry 49). -/
def Chip.linkStep (c : Chip) (n : Nat) (res : LinkStepRes) : Chip :=
  let p := c.port n
  let inStep2 := p.state == .mbTrain || (p.state == .retrain && !p.resume)
  let inStep3 := p.state == .adapterInit || (p.state == .retrain && p.resume)
  if !(c.live && p.enabled) then c
  else if p.state == .sbInit then
    match res with
    | .done .. => c.onPort n (fun p => { p.startMb with state := .mbTrain, sbUp := true })
    | .failed => c
  else if inStep2 then
    match res with
    | .done tx rx cvt =>
      (c.onPort n (fun p => { p.startClock with
        repTx := (tx.map (·.val)).take 4, repRx := (rx.map (·.val)).take 4, cvt := cvt
        resume := p.state == .retrain
        state := if p.state == .retrain then .retrain else .adapterInit })).laneHistPort n
    | .failed => if 2 ≤ p.rate then c.linkDown n 5 else c.onPort n (fun p => { p with rate := p.rate + 1 })
  else if inStep3 then
    match res with
    | .done .. => c.onPort n (fun p => { p with
        state := c.afterAdapter, resume := false, lastTx := []
        sbSent := if c.afterAdapter == LinkState.active && p.sbSent.isEmpty then [readyMsg] else p.sbSent }.grantIfDue)
    | .failed => c.linkDown n 6
  else c

/-- The host asks for a retrain (R68). -/
def Chip.hostRetrain (c : Chip) (n : Nat) : Chip := if c.live then c.onPort n Port.startRetrain else c

/-- One flit has been replayed REPLAY_LIMIT times in a row (R68). -/
def Chip.replayLimit (c : Chip) (n : Nat) : Chip :=
  let p := c.port n
  if c.live && p.replayLim != 0 && p.replayLim ≤ p.replays then c.onPort n Port.startRetrain else c

/-- PORT_LINK_CTL.RETRAIN is written 1 (R67, R68). -/
def Chip.portRetrain (c : Chip) (n : Nat) : Chip :=
  let p := c.port n
  if !c.live then c
  else if p.linkUp then c.onPort n Port.startRetrain
  else if p.enabled && p.mayRestart && 9 ≤ c.boot.step then c.onPort n Port.start
  else c

/-- PORT_LINK_CTL.DISABLE is written (R67, R72). A port with reason REG_DISABLE starts again once it is 0; before boot step 9 it starts
with the others then (`Chip.beginStep9`). A port that is DOWN already keeps the reason that took it down (log entry 49). -/
def Chip.portDisable (c : Chip) (n : Nat) (v : Bool) : Chip :=
  if !c.on then c
  else
    let c := c.onPort n (fun p => { p with disable := v })
    let p := c.port n
    if v then
      if p.enabled && p.state != .down then c.linkDown n 3
      else c
    else if p.enabled && p.state == .down && p.reason == 3 && 9 ≤ c.boot.step && !c.flt.fault then c.onPort n Port.start
    else c

/-! ### Flits -/

/-- A received flit fails the adapter CRC (R84). -/
def Chip.flitCrcError (c : Chip) (n : Nat) : Chip :=
  if c.live && (c.port n).linkUp then c.onPort n (fun p => { p with cntCrc := bump32 p.cntCrc }) else c

/-- The host asks for a replay; `again` tells that the flit is the one replayed last (R50, R68). -/
def Chip.flitReplay (c : Chip) (n : Nat) (again : Bool) : Chip :=
  if c.live && (c.port n).linkUp then
    c.onPort n (fun p => { p with cntReplay := bump32 p.cntReplay, replays := if again then p.replays + 1 else 1 })
  else c

/-! ### Credits and responses -/

/-- The initial credit grants of a session (R65 step 5, R78, R124). -/
def Chip.initialGrant (c : Chip) (n : Nat) : Chip :=
  let p := c.port n
  if c.live && c.boot.st == .ready && !c.boot.testMode && p.state == .active && !p.granted && p.reqs.all (fun r => !r.stale) &&
      p.streams.all (fun s => !s.2.relPend) then
    c.onPort n (fun p => { p with
      granted := true, heldReq := 1024, heldRsp := 1536, heldMgt := 64
      pendReq := 0, pendRsp := 0, pendMgt := 0, lastTx := [.grant (grantHeader 1024 1536 64)], slots := p.slots.spend 8 })
  else c

/-- 64 cycles of CK_PORT have passed since the first unit became pending (R128). -/
def Chip.creditTimer (c : Chip) (n : Nat) : Chip :=
  let p := c.port n
  if c.live && p.canSend && !c.halted (fltHpa n) && p.slots.opens 8 && (p.pendReq != 0 || p.pendRsp != 0 || p.pendMgt != 0) then
    c.onPort n (fun p => { p with lastTx := [] }.sendGrant)
  else c

/-- The bytes of a response in the stream (R86). -/
def TxRsp.bytes (t : TxRsp) : Nat := 8 + t.data.length + if t.e2e then 4 else 0

/-- A response leaves for the adapter (R96, R127): its TAG is free, its units are pending return. -/
def Port.handOff (p : Port) (t : TxRsp) : Port :=
  { p with
    rspUsed := p.rspUsed - t.rspCost
    pendRsp := p.pendRsp + t.rspCost
    pendMgt := p.pendMgt + t.mgtCost
    lastTx := p.lastTx ++ [.response (rspHeader t) t.data (if t.e2e then some t.trailer else none)]
    slots := p.slots.spend t.bytes }

/-- A packet boundary: a grant that is due goes (R88, R128). -/
def Port.boundary (p : Port) : Port := { p with lastTx := [] }.grantIfDue

/-- Whether response `t` may follow at this boundary: a flit slot may carry it (R511). -/
def Port.mayHand (p : Port) (t : TxRsp) : Bool := p.boundary.slots.opens t.bytes

/-- A packet boundary at which no response goes: without a grant the stream carries PAD words (R87, R511). -/
def Port.padOut (p : Port) : Port :=
  let p := p.boundary
  if p.lastTx.isEmpty then { p with lastTx := [.pad 0], slots := p.slots.padOut } else p

/-- The next packet of a port's transmit stream is handed to the adapter: a credit grant that is due goes first, then MGT
before RSP (R88, R127, R128); the context of a job is freed (R325). Where no response waits, or a paced port's run of flit slots has carried
its share of DXP bytes, the stream carries PAD words (R87, R511). -/
def Chip.responseHandoff (c : Chip) (n : Nat) : Chip :=
  let p := c.port n
  if !(c.live && p.canSend && !c.halted (fltHpa n)) then c
  else
    match p.txMgt, p.txq with
    | t :: rest, _ =>
      c.onPort n (fun p => if p.mayHand t then ({ p with txMgt := rest }.boundary.handOff t).grantIfDue else p.padOut)
    | [], t :: rest =>
      if !p.mayHand t then c.onPort n Port.padOut
      else
      let c := c.onPort n (fun p => ({ p with txq := rest }.boundary.handOff t).grantIfDue)
      if isJob t.op && t.ownsTag then c.freeJob n t.hdr.tag.toNat else c
    | [], [] => c.onPort n Port.padOut

/-! ### The sideband's register space (R52) -/

/-- A sideband register access to port `n`: answered by the standard's own registers, or as unsupported (R52). In the fault state no
sideband answers it (R80). -/
def Chip.sidebandReg (c : Chip) (n : Nat) (standard : Bool) (addr : Nat) : Chip :=
  if c.live && (c.port n).enabled && (c.port n).sbUp then
    if standard then
      let (k, c) := c.drawFree
      { c with mgt := { c.mgt with sbReg := some (Config.ucieReg n addr k).toNat } }
    else { c with mgt := { c.mgt with sbReg := none } }
  else c

end Sys2Proof.Machine
end

