-- ==== Sys2Proof/Machine/Jobs.lean ====
section
/-! DEFINITION. Press job contexts: the press of a job (R323), the grant of a context (R324, R325, R342), the job-wait queue
(R134), and the job queries (R109-R112, R326, R327). -/

namespace Sys2Proof.Machine

/-- The press that serves a job with a TAG: press TAG[3:0], or the next one that has not failed (R323). -/
def Chip.pressFor (c : Chip) (tag : Nat) : Option Nat :=
  ((below 16).map (fun i => (tag + i) % 16)).find? (fun p => (c.press p).mode != .failed)

/-- Most contexts of a press that one port may hold (PRS_CFG). -/
def Press.ctxMax (p : Press) : Nat := min 64 (max 1 (natBits p.cfg.live 0 7))

/-- Whether a press can grant port `n` a context (R324). -/
def Press.canGrant (p : Press) (n : Nat) : Bool :=
  p.ctxs.length < 64 && (List.filter (fun (e : Nat × JobCtx) => e.2.port == n) p.ctxs).length < p.ctxMax

/-- The context of a job as it is granted (R325). -/
def ctxOf (n : Nat) (r : Req) : JobCtx :=
  { port := n, tag := r.tagN
    kind := match r.op with | .copy => .copy | .rangeCrc => .rangeCrc | _ => .fill
    cls := r.cls, noalloc := r.hdr.noalloc
    dst := startAddr r.hdr, src := jobSrc r.payload, len := jobLen r.payload
    pattern := blockOfBytes (r.payload.drop 32)
    crcPoly := r.hdr.subop.toNat, crc := jobSeed r.payload ^^^ max32
    wins := r.wins }

/-- What a job finds when it asks for a context. -/
inductive CtxSeek where
  | noPress            -- all 16 presses have failed (R323)
  | tested             -- its press is quiescing or under test (R342)
  | free (p : Nat)
  | wait
  deriving DecidableEq, Repr

/-- A job of port `n` looks for a context (R323, R324, R342). -/
def Chip.seekCtx (c : Chip) (n tag : Nat) : CtxSeek :=
  match c.pressFor tag with
  | none => .noPress
  | some p =>
    let pr := c.press p
    if pr.mode == .quiescing || pr.mode == .underTest then .tested
    else if pr.canGrant n then .free p else .wait

/-- Grant a context of press `p` to a job: its packet goes to the press (R324, R325). The job is released unless it is held. -/
def Chip.grantCtx (c : Chip) (n tag p : Nat) (r : Req) : Chip :=
  let c := c.onPress p (fun pr =>
    { pr with ctxs := pr.ctxs.put (pr.ctxs.freeKey 64 0) (ctxOf n r), allocRr := n })
  let c := c.onPort n (·.onReq tag (fun q => { q with phase := .held }))
  let i := (c.jobOf n tag).elim 0 (·.2.1)
  let c := c.sendPkt .req n (epPress p) (.job i)
  c.releaseIfFree n tag

/-- A job at step 9 of admission, or at the head of the job-wait queue, asks for a context: it is answered, granted, or it
waits. The Bool tells that it no longer waits. -/
def Chip.askCtx (c : Chip) (n tag : Nat) (r : Req) : Chip × Bool :=
  match c.seekCtx n tag with
  | .noPress =>
    let c := c.ringRec { type := 0x0C, cls := 2, source := fltPrs (tag % 16), port := n, tag := tag, arg0 := opCode r.op }
    (c.finish n tag .aborted 0 (jobData 0 5 0 0), true)
  | .tested => (c.finish n tag .busyTest c.fieldHint [], true)
  | .free p => (c.grantCtx n tag p r, true)
  | .wait => (c, false)

/-- The ports whose job-wait head would be served by press `p`. -/
def Chip.asking (c : Chip) (p : Nat) : List Nat :=
  (below 32).filter (fun n =>
    match (c.port n).jobWait with
    | tag :: _ => (match c.pressFor tag with | some q => q == p | none => true) &&
        (match c.seekCtx n tag with | .wait => false | _ => true)
    | [] => false)

/-- Whether a job of port `n` whose press has a context for it wins it in this cycle: the allocator chooses in round-robin order among
the ports that ask (R324). -/
def Chip.winsCtx (c : Chip) (n tag : Nat) : Bool :=
  match c.seekCtx n tag with
  | .free p => roundRobin 32 (c.press p).allocRr (n :: c.asking p) == some n
  | _ => true

/-- A job reaches step 9 of admission (R131, R134, R324, R342). -/
def Chip.jobStep9 (c : Chip) (n tag : Nat) : Chip :=
  match (c.port n).req? tag with
  | none => c
  | some r =>
    let queue (c : Chip) : Chip := c.onPort n (fun p =>
      { (p.onReq tag (fun q => { q with phase := .waitJob })) with jobWait := p.jobWait ++ [tag] })
    if (c.port n).jobWait.isEmpty && c.winsCtx n tag then
      let (c', done) := c.askCtx n tag r
      if done then c' else queue c
    else
      match c.seekCtx n tag with
      | .noPress | .tested => (c.askCtx n tag r).1
      | _ => queue c

/-- The job at the head of port `n`'s job-wait queue asks again (R134, R323, R324). -/
def Chip.jobHead (c : Chip) (n : Nat) : Chip :=
  match (c.port n).jobWait with
  | [] => c
  | tag :: rest =>
    match (c.port n).req? tag with
    | none => c.onPort n (fun p => { p with jobWait := rest })
    | some r =>
      let c' := c.onPort n (fun p => { p with jobWait := rest })
      let (c', done) := c'.askCtx n tag r
      if done then c' else c

/-- Where a job stands: JSTATE, DONE, RESULT and LOSTBLK (R109, R110, R326). -/
def Chip.jobState (c : Chip) (n jtag : Nat) : Nat × Nat × Nat × Nat :=
  let p := c.port n
  match p.req? jtag with
  | some r =>
    if !isJob r.op then (0, 0, 0, 0)
    else
      match c.jobOf n jtag with
      | some (_, _, j) =>
        if j.ended || r.phase == .staged then
          (5, j.done, j.result, j.lostblk)
        else if !j.released then (2, 0, 0, 0)
        else if j.cancel then (4, j.done, 0, j.lostblk)
        else (3, j.done, 0, j.lostblk)
      | none => if r.phase == .staged then (5, 0, 0, 0) else (1, 0, 0, 0)
  | none =>
    match p.txq.find? (fun t => t.ownsTag && t.hdr.tag.toNat == jtag && isJob t.op) with
    | some t => (5, natBits (leNat (byteSlice t.data 0 8)) 0 37, leNat (byteSlice t.data 8 4), leNat (byteSlice t.data 12 4))
    | none => (0, 0, 0, 0)

/-- The response data of a job query. -/
def queryData (s : Nat × Nat × Nat × Nat) : List Byte := jobData s.2.1 s.1 s.2.2.1 s.2.2.2

/-- JOB_STATUS (R110). -/
def Chip.doJobStatus (c : Chip) (n tag jtag : Nat) : Chip := c.finish n tag .ok 0 (queryData (c.jobState n jtag))

/-- JOB_CANCEL (R111): its own response goes first. -/
def Chip.doJobCancel (c : Chip) (n tag jtag : Nat) : Chip :=
  let s := c.jobState n jtag
  if s.1 == 1 || s.1 == 2 then
    (c.finish n tag .ok 0 (queryData (4, 0, 0, 0))).endUnstarted n jtag
  else if s.1 == 3 then
    let c := c.finish n tag .ok 0 (queryData (4, s.2.1, 0, s.2.2.2))
    match c.jobOf n jtag with
    | some (p, i, _) => c.recordCancel p i false
    | none => c
  else c.finish n tag .ok 0 (queryData s)

end Sys2Proof.Machine
end

