-- ==== Sys2Proof/Machine/Admit.lean ====
section
/-! DEFINITION. Admission at a port (R84-R136): credits, the nine checks of R131, the answer at the port, and what an
admitted request does next. -/

namespace Sys2Proof.Machine

/-! ### Check 1: form (R92-R94, R100-R102, R106, R107) -/

/-- SIZE allowed for an opcode (SIZE codes, R102). -/
def sizeOk (op : Op) (h : ReqHdr) : Bool :=
  match op with
  | .rd | .wr | .wrMasked | .accum | .mgmtCmd => 4 ≤ h.size.toNat
  | .atom => h.size.toNat < 2 || (h.size.toNat == 2 && h.subop.toNat == 9)
  | _ => h.size.toNat == 4

/-- SUBOP allowed where the opcode uses it (R102). -/
def subopOk (op : Op) (h : ReqHdr) : Bool :=
  match op with
  | .atom => h.subop.toNat < 10
  | .accum => h.subop.toNat < 4
  | .rangeCrc => h.subop.toNat < 2
  | .flush => h.subop.toNat < 128
  | _ => true

/-- Whether an opcode uses SUBOP, and whether it uses ADDR (R100). -/
def usesSubop : Op → Bool
  | .atom | .accum | .rangeCrc | .flush => true
  | _ => false
def usesAddr : Op → Bool
  | .rd | .wr | .wrMasked | .atom | .accum | .fill | .copy | .rangeCrc => true
  | _ => false

/-- Every flag set is allowed on the opcode (R101). -/
def flagsOk (op : Op) (h : ReqHdr) : Bool :=
  (!h.prompt || (op == .rd && h.size.toNat == 4)) &&
  (!h.ordered || (isMember op && op != .fence)) &&
  (!h.noalloc || isData op || isJob op) &&
  (!h.poisonOk || op == .rd) &&
  (!h.e2e || isData op)

/-- The bytes of a data request stay within a 512-byte frame (R94). -/
def boundaryOk (op : Op) (h : ReqHdr) : Bool := !isData op || startAddr h % 512 + coverBytes h ≤ 512

/-- BOFF keeps R93. -/
def boffOk (op : Op) (h : ReqHdr) : Bool :=
  match op with
  | .atom => let w := sizeBytes h.size; w != 0 && h.boff.toNat % w == 0
  | _ => h.boff.toNat == 0

/-- Reserved and unused fields are 0, HVER is 1 and PRIV is not 11 (R92). -/
def fieldsOk (op : Op) (h : ReqHdr) : Bool :=
  h.rsvd1 == 0 && h.rsvd2 == 0 && h.rsvd3 == 0 && h.hver == 1 && h.priv != 3 &&
  (usesSubop op || h.subop == 0) && (usesAddr op || h.addr == 0)

/-- The lowest detail code of R118 that the form of a request calls for, if any. -/
def formDetail (op : Op) (h : ReqHdr) (pl : List Byte) : Option Nat :=
  match op with
  | .reserved _ => some 1
  | _ =>
    if !sizeOk op h then some 2
    else if !subopOk op h then some 3
    else if !flagsOk op h then some 4
    else if !boundaryOk op h then some 5
    else if !boffOk op h then some 6
    else if !fieldsOk op h then some 7
    else if !jobParamOk op h pl then some 9
    else none

/-! ### Checks 2 to 7 -/

/-- Whether a TAG is outstanding (R96): its request is admitted and its response not handed off. -/
def Port.tagBusy (p : Port) (tag : Nat) : Bool :=
  p.reqs.any (fun r => r.tagN == tag) || (p.txq ++ p.txMgt).any (fun t => t.ownsTag && t.hdr.tag.toNat == tag)

/-- TAGs outstanding (PORT_TAG_STATUS). -/
def Port.tagsOut (p : Port) : Nat :=
  p.reqs.length + ((p.txq ++ p.txMgt).filter (·.ownsTag)).length

/-- PORT_CFG fields in force. -/
def Port.e2eEn (p : Port) : Bool := natBit p.cfg.live 3
def Port.e2ePoly (p : Port) : Nat := natBits p.cfg.live 4 2
def Port.cls (p : Port) : Nat := natBits p.cfg.live 0 3

/-- The inbound end-to-end check (R172-R177): whether it is made, and whether it passes. -/
def e2eGood (poly : Nat) (q : RxReq) : Bool :=
  q.trailer.toNat == e2eCrc poly (e2eMessage (startAddr q.hdr) q.hdr.seq.toNat q.payload)

/-- Check 3 with the run of R179: the state, and whether the request goes on. -/
def Chip.checkE2e (c : Chip) (n : Nat) (q : RxReq) : Chip × Bool :=
  let p := c.port n
  if !(hasTrailer q.op q.hdr && p.e2eEn) then (c, true)
  else if e2eGood p.e2ePoly q then
    (c.onPort n (fun p => { p with e2eCheck := bump32 p.e2eCheck, e2eRun := 0 }), true)
  else
    let strike := p.e2eRun == 2
    let c := c.onPort n (fun p => { p with
      e2eCheck := bump32 p.e2eCheck, e2eFail := bump32 p.e2eFail
      e2eRun := if strike then 0 else p.e2eRun + 1
      strikes := if strike then bump16 p.strikes else p.strikes })
    (if strike then c.raise (fltHpa n) ⟨1, 0x41, 0⟩ else c, false)

/-- The bytes a request covers below the end of memory (check 5). -/
def mappedOk (op : Op) (h : ReqHdr) (pl : List Byte) : Bool :=
  if isData op then startAddr h + coverBytes h ≤ memEnd
  else if isJob op then
    startAddr h + jobLen pl ≤ memEnd && (op != .copy || jobSrc pl + jobLen pl ≤ memEnd)
  else true

/-- The detail of the first missing window permission, in the order job, read, write, atomic (check 6, R198-R200). -/
def permDetail (ws : List Window) (n : Nat) (op : Op) (h : ReqHdr) (pl : List Byte) : Option Nat :=
  let has (a len : Nat) (p : Perm) : Bool := rangeGrants ws n a len p
  let a := startAddr h
  let need (ok : Bool) (d : Nat) (k : Option Nat) : Option Nat := if ok then k else some d
  match op with
  | .rd => need (has a (coverBytes h) .read) 2 none
  | .wr | .wrMasked => need (has a (coverBytes h) .write) 3 none
  | .atom | .accum => need (has a (coverBytes h) .atomic) 4 none
  | .fill => need (has a (jobLen pl) .job) 5 (need (has a (jobLen pl) .write) 3 none)
  | .copy =>
    let s := jobSrc pl
    let l := jobLen pl
    need (has s l .job && has a l .job) 5 (need (has s l .read) 2 (need (has a l .write) 3 none))
  | .rangeCrc => need (has a (jobLen pl) .job) 5 (need (has a (jobLen pl) .read) 2 none)
  | .flush =>
    match ws[natBits h.subop.toNat 0 6]? with
    | some w => need (w.en && w.grants n .write) 3 none
    | none => some 3
  | _ => none

/-- Checks 4, 5 and 6 (R99, R131): the status and detail of the first that fails. -/
def Chip.checkAccess (c : Chip) (n : Nat) (q : RxReq) : Option (Status × Nat) :=
  let p := c.port n
  let level := if p.system then 1 else 2
  let priv := q.hdr.priv.toNat
  let privOk := match q.op with
    | .mgmtCmd => priv == 0 || (priv == 1 && p.system)
    | _ => level ≤ priv
  if !privOk then some (.denied, if q.op == .mgmtCmd then 6 else 1)
  else if !mappedOk q.op q.hdr q.payload then some (.unmapped, 0)
  else (permDetail c.windowSet n q.op q.hdr q.payload).map (fun d => (.denied, d))

/-! ### Answers at the port (R133) -/

/-- An answer at the port takes its RSP space and enters the transmit queue; the counters and rejection registers follow with it (R133,
R141), and the REQ units of the request are pending return (R127). -/
def Port.answerNow (p : Port) (t : TxRsp) : Port :=
  let p := p.countAnswer t.op t.hdr t.status t.arg
  ({ p with rspUsed := p.rspUsed + t.rspCost, pendReq := p.pendReq + reqCost t.op t.hdr }.queueTx t).grantIfDue

/-- A rejected request is answered at the port: the answer takes the request's RSP cost, or waits for it. -/
def Chip.answerAtPort (c : Chip) (n : Nat) (q : RxReq) (st : Status) (arg : Nat) : Chip :=
  let cost := if q.op == .mgmtCmd then 0 else rspCost q.op q.hdr
  let t := mkTx q.op q.hdr st arg [] false 0 cost (if q.op == .mgmtCmd then 9 else 0) false
  c.onPort n (fun p =>
    if q.op == .mgmtCmd then
      let p := p.countAnswer q.op q.hdr st arg
      ({ p with pendMgt := p.pendMgt + mgtReqCost q.hdr }.queueTx t).grantIfDue
    else if cost ≤ p.rspFree then p.answerNow t
    else { p with ansWait := some t, cntCredViol := bump32 p.cntCredViol })

/-- An ORDERED request refused at checks 3 to 7 breaks its stream (R149). -/
def Chip.breakAtAdmission (c : Chip) (n : Nat) (q : RxReq) : Chip :=
  if isMember q.op && q.hdr.ordered then c.onPort n (·.onStream q.hdr.stream.toNat (fun s => { s with broken := true }))
  else c

/-! ### Parts (R94, R95, R168) -/

/-- The block accesses of a data request, with the address of each. -/
def blocksOf (op : Op) (h : ReqHdr) (pl : List Byte) : List (Nat × BlockAcc) :=
  let a := startAddr h
  let s := sizeBytes h.size
  match op with
  | .rd => (below (s / 64)).map (fun k => (a + 64 * k, ⟨k, 0, 0, 0⟩))
  | .wr | .accum => (below (s / 64)).map (fun k =>
      (a + 64 * k, ⟨k, 0, blockOfBytes (pl.drop (64 * k)), BitVec.allOnes 64⟩))
  | .wrMasked =>
    let m := s / 64 * 8
    (below (s / 64)).map (fun k =>
      (a + 64 * k, ⟨k, 0, blockOfBytes (pl.drop (m + 64 * k)), BitVec.ofNat 64 (leNat (byteSlice pl (8 * k) 8))⟩))
  | .atom => [(a, ⟨0, 0, 0, 0⟩)]
  | _ => []

/-- What a data request does to each of its blocks. -/
def kindOf (op : Op) (h : ReqHdr) (pl : List Byte) : AccKind :=
  match op with
  | .wr => .wr
  | .wrMasked => .wrMasked
  | .atom => .atom h.subop.toNat (sizeBytes h.size) h.boff.toNat (leNat (byteSlice pl 0 16)) (leNat (byteSlice pl 16 16))
  | .accum => .accum h.subop.toNat
  | _ => .rd

/-- The parts of a data request, one for each 256-byte granule, in the order in which they are offered (R95, R168). -/
def partsOf (mode : Nat) (ws : List Window) (n : Nat) (op : Op) (h : ReqHdr) (pl : List Byte) (cls : Nat) : List SliceReq :=
  let bs := blocksOf op h pl
  let g0 := startAddr h / 256
  let part (i g : Nat) : Option SliceReq :=
    match bs.filter (fun b => b.1 / 256 == g) with
    | [] => none
    | b :: rest =>
      let acc := (b :: rest).map (fun x => let (_, j, _) := mapAddr mode x.1; { x.2 with blk := j })
      some { port := n, tag := h.tag.toNat, part := i, kind := kindOf op h pl, row := (mapAddr mode b.1).1
             blocks := acc, policy := policyAt ws b.1, noalloc := h.noalloc, cls := cls }
  match part 0 g0, part 1 (g0 + 1) with
  | some a, some b => if b.row.c < a.row.c then [b, a] else [a, b]
  | some a, none => [a]
  | none, some b => [b]
  | none, none => []

/-! ### Admission -/

/-- The bytes of a window (R196). -/
def Window.bytes (w : Window) : Nat × Nat := if w.en && w.base ≤ w.limit then (w.base * 65536, (w.limit + 1) * 65536) else (0, 0)

/-- The units of a pool as the stack shows them to be held by the host (R115, R140): where the host has overdrawn the RSP pool (R130) none
is unconsumed, and the model shows 0 (log entry 49). -/
def heldShown (units : Int) : Nat := units.toNat % 4096

/-- The data of a NOP_CREDIT (R115): the units that the stack counts as held by the host. -/
def Port.creditData (p : Port) : List Byte :=
  leBytes 2 (heldShown p.heldReq) ++ leBytes 2 (heldShown p.heldRsp) ++ leBytes 2 (heldShown p.heldMgt) ++
  padBytes 10 []

/-- What an admitted request does once it has its RSP space (R131 step 9, R132, R155, R162). -/
def Chip.proceed (c : Chip) (n tag : Nat) (fresh : Bool) (look : Lookup) : Chip :=
  match (c.port n).req? tag with
  | none => c
  | some r =>
    let c := c.onPort n (·.onReq tag (fun q => { q with phase := .held }))
    match r.op with
    | .jobStatus => c.doJobStatus n tag (jobJtag r.payload)
    | .jobCancel => c.doJobCancel n tag (jobJtag r.payload)
    | .nopCredit => c.finish n tag .ok 0 r.data
    | .fence => c
    | .fill | .copy | .rangeCrc => c.jobStep9 n tag
    | _ => if (c.port n).isHeld tag then c else c.release n tag fresh look

/-- A request as it is admitted at port `n`: its class, end-to-end settings and window set are stamped (R117, R136, R178, R201,
R277). -/
def Chip.reqOf (c : Chip) (n : Nat) (q : RxReq) : Req :=
  let p := c.port n
  let ws := c.windowSet
  let w := (ws[natBits q.hdr.subop.toNat 0 6]?).getD Window.off
  { op := q.op, hdr := q.hdr, payload := q.payload, phase := .waitRsp, cls := p.cls
    e2eOut := q.hdr.e2e && p.e2eEn, poly := p.e2ePoly, rspCost := rspCost q.op q.hdr
    parts := if isData q.op then partsOf c.addr.mode ws n q.op q.hdr q.payload p.cls else []
    data := if q.op == .nopCredit then p.creditData else []
    winBase := if q.op == .flush then w.bytes.1 else 0
    winEnd := if q.op == .flush then w.bytes.2 else 0
    wins := if isJob q.op then ws else [] }

/-- What admission does to the stream of a request: an ORDERED member moves the number expected, a FENCE starts the stream anew and
closes what stands before it (R147, R150, R165). -/
def Port.moveStream (p : Port) (q : RxReq) : Port :=
  let k := q.hdr.stream.toNat
  let p := if isMember q.op && q.hdr.ordered then p.onStream k (fun s => { s with exp := q.hdr.seq + 1 }) else p
  if q.op == .fence then
    { p.onStream k (fun s => { s with exp := q.hdr.seq, broken := false }) with
      reqs := p.reqs.map (fun r => if isMember r.op && r.streamN == k then { r with fenced := true } else r) }
  else p

/-- A request takes its RSP space and leaves the receive buffer, so that its REQ units are pending return (R127, R130). -/
def Port.takeSpace (p : Port) (op : Op) (h : ReqHdr) (cost : Nat) : Port :=
  { p with rspUsed := p.rspUsed + cost, pendReq := p.pendReq + reqCost op h }.grantIfDue

/-- A request joins those admitted: the peak of TAGs follows, and it takes its RSP space or waits for it (R127, R130, R136). -/
def Port.join (p : Port) (q : RxReq) (r : Req) (fits : Bool) : Port :=
  let p := { p with reqs := p.reqs ++ [r] }
  let p := { p with peak := max p.peak p.tagsOut }
  if fits then p.takeSpace q.op q.hdr r.rspCost else { p with cntCredViol := bump32 p.cntCredViol }

/-- A request that has passed checks 1 to 7 is admitted (R136, R147, R165). -/
def Chip.accept (c : Chip) (n : Nat) (q : RxReq) : Chip :=
  let r := c.reqOf n q
  let fits := r.rspCost ≤ (c.port n).rspFree
  let c := c.onPort n (fun p => (p.moveStream q).join q r fits)
  if fits then c.proceed n q.hdr.tag.toNat true q.look else c

/-- The sequence check of an ORDERED request (R146). -/
def Port.seqOk (p : Port) (q : RxReq) : Bool :=
  !(isMember q.op && q.hdr.ordered) ||
  (!(p.stream q.hdr.stream.toNat).broken && (p.stream q.hdr.stream.toNat).exp == q.hdr.seq)

/-- Check 1 and 2 of a request: its BAD_OP detail, if any (R131). Of a job with both a bad parameter block and a TAG in use, R118 names
the lower detail and R131 the earlier check: the model follows R131, so the answer is JOB_PARAM (log entry 49). -/
def Port.badOp (p : Port) (q : RxReq) : Option Nat :=
  match formDetail q.op q.hdr q.payload with
  | some d => some d
  | none => if p.tagBusy q.hdr.tag.toNat then some 8 else none

/-- Admission of one request of the REQ virtual channel, or of an MGMT_CMD, whose turn has come (R131). -/
def Chip.admitReq (c : Chip) (n : Nat) (q : RxReq) : Chip :=
  match (c.port n).badOp q with
  | some d => c.answerAtPort n q .badOp d
  | none =>
    let (c, ok) := c.checkE2e n q
    if !ok then (c.breakAtAdmission n q).answerAtPort n q .e2eFail 0
    else
      match c.checkAccess n q with
      | some (st, d) => (c.breakAtAdmission n q).answerAtPort n q st d
      | none =>
        if !(c.port n).seqOk q then (c.breakAtAdmission n q).answerAtPort n q .seqGap 0
        else c.accept n q

/-- Whether admission on REQ stands still (R130, R133, R134). -/
def Port.stuck (p : Port) : Bool :=
  p.ansWait.isSome || p.reqs.any (fun r => r.phase == .waitRsp) || 8 ≤ p.jobWait.length

/-- Requests that waited behind one at admission go on in their order, at most `fuel` of them (R131). -/
def Chip.drainRx (c : Chip) (n : Nat) : Nat → Chip
  | 0 => c
  | f + 1 =>
    match (c.port n).rxq with
    | [] => c
    | q :: rest =>
      if (c.port n).stuck then c
      else ((c.onPort n (fun p => { p with rxq := rest })).admitReq n q).drainRx n f

/-- Go on with everything that waits behind admission. -/
def Chip.resumeRx (c : Chip) (n : Nat) : Chip := c.drainRx n (c.port n).rxq.length

/-- An MGMT_CMD that passes its checks travels to MGT on its own virtual channel (R90, R644). -/
def Chip.acceptMgmt (c : Chip) (n : Nat) (q : RxReq) : Chip :=
  let p := c.port n
  let r : Req := { op := .mgmtCmd, hdr := q.hdr, payload := q.payload, phase := .active, cls := p.cls
                   e2eOut := false, poly := 0, rspCost := 0, parts := [], level := q.hdr.priv.toNat }
  let c := c.onPort n (fun p => let p := { p with reqs := p.reqs ++ [r] }; { p with peak := max p.peak p.tagsOut })
  c.sendPkt .mgt n epMgt (.mgmtCmd n q.hdr.tag.toNat q.payload)

/-- A credit overrun takes the port down with LINK_ERROR (R129). -/
def Chip.creditOverrun (c : Chip) (n : Nat) : Chip :=
  (c.onPort n (fun p => { p with cntCredViol := bump32 p.cntCredViol })).linkDown n 9

/-- A request arrives at port `n` (R84-R90, R124-R131). Before the initial grants of its session the host holds no units (R65, R78). Its payload is cut or padded to the length its header fixes (R716). -/
def Chip.arrive (c : Chip) (n : Nat) (op : Op) (h : ReqHdr) (payload : List Byte) (trailer : Word) (look : Lookup) : Chip :=
  let p := c.port n
  let q : RxReq := ⟨op, h, padBytes (payloadLen op h) payload, trailer, look⟩
  if !(c.live && (p.linkUp && !p.granted || p.canSend)) then c
  else if !p.granted then c.creditOverrun n
  else if op == .mgmtCmd then
    let cost : Int := mgtReqCost h + 9
    if p.heldMgt < cost then c.creditOverrun n
    else
      let c := c.onPort n (fun p => { p with heldMgt := p.heldMgt - cost, lastTx := [] })
      match (c.port n).badOp q with
      | some d => c.answerAtPort n q .badOp d
      | none =>
        match c.checkAccess n q with
        | some (st, d) => c.answerAtPort n q st d
        | none => c.acceptMgmt n q
  else
    let cost : Int := reqCost op h
    if p.heldReq < cost then c.creditOverrun n
    else
      let c := c.onPort n (fun p =>
        { p with heldReq := p.heldReq - cost, heldRsp := p.heldRsp - (rspCost op h : Int), lastTx := [] })
      if p.stuck || !p.rxq.isEmpty then c.onPort n (fun p => { p with rxq := p.rxq ++ [q] })
      else c.admitReq n q

/-- Space of the staging buffer that a hand-off or discard freed goes to what waits for it at admission: an answer at the
port, or a request at check 8 (R130, R133). -/
def Chip.rspReserve (c : Chip) (n : Nat) : Chip :=
  let p := c.port n
  if !c.live then c
  else
    match p.ansWait with
    | some t =>
      if t.rspCost ≤ p.rspFree then
        (c.onPort n (fun p => { p with ansWait := none }.answerNow t)).resumeRx n
      else c
    | none =>
      match p.reqs.find? (fun r => r.phase == .waitRsp) with
      | some r =>
        if r.rspCost ≤ p.rspFree then
          let c := c.onPort n (fun p => (p.onReq r.tagN (fun q => { q with phase := .held })).takeSpace r.op r.hdr r.rspCost)
          (if r.gap then c.finish n r.tagN .seqGap 0 [] else c.proceed n r.tagN false {}).resumeRx n
        else c
      | none => c

/-- The context allocator of press `p` grants a waiting job a context, in round-robin order of port (R134, R324). -/
def Chip.jobContextGrant (c : Chip) (p : Nat) : Chip :=
  if !c.live then c
  else
    match roundRobin 32 (c.press p).allocRr (c.asking p) with
    | some n => (c.jobHead n).resumeRx n
    | none => c

end Sys2Proof.Machine
end

