-- ==== Sys2Proof/Machine/Press.lean ====
section
/-! DEFINITION. The presses at work (R323-R349): chunks and their granule operations, the boundary steps of R329, granule
data and release notices, the end of a job; and the application of shadowed fields (R669-R672). -/

namespace Sys2Proof.Machine

/-! ### Shadows -/

/-- The field takes its shadow's value (R669). -/
def Rws.apply (r : Rws) : Rws := if r.dirty then { r with live := r.shadow, dirty := false } else r

/-- A write lands in the shadow (R669). -/
def Rws.write (r : Rws) (v : Nat) : Rws := { r with shadow := v, dirty := true }

/-- Whether update group `g` has AUTO_APPLY set (R672). -/
def Chip.auto (c : Chip) (g : Nat) : Bool := natBit c.mgt.updAuto g

/-- Apply the shadows of a press. -/
def Press.applyShadows (p : Press) : Press := { p with cfg := p.cfg.apply, scrubCfg := p.scrubCfg.apply }

/-! ### Chunks -/

/-- Insert a granule operation before the first of a higher channel: ascending channel, lower address first (R294). -/
def insertGran (g : GranOp) : List GranOp → List GranOp
  | [] => [g]
  | h :: t => if g.row.c < h.row.c then g :: h :: t else h :: insertGran g t

/-- The granule operations over `n` blocks from byte address `a`, whose block numbers in the chunk start at 0 (R294, R328). -/
def granules (mode : Nat) (p a n : Nat) (write : Bool) (data : Block) (j : JobCtx) (born : Nat) : List GranOp :=
  let gs := upFrom (a / 256) (if n = 0 then 0 else (a + 64 * n - 1) / 256 - a / 256 + 1)
  gs.foldl (fun acc g =>
    let ks := (below n).filter (fun k => (a + 64 * k) / 256 == g)
    match ks with
    | [] => acc
    | k :: _ =>
      let op : GranOp :=
        { press := p, write := write, row := (mapAddr mode (a + 64 * k)).1
          blocks := ks.map (fun k => ⟨k, (mapAddr mode (a + 64 * k)).2.1, data, BitVec.allOnes 64⟩)
          poison := [], policy := policyAt j.wins (a + 64 * k), noalloc := j.noalloc, cls := j.cls, born := born }
      insertGran op acc) []

/-- The bytes of the next chunk of a job: up to the next 4 KiB boundary of its destination (R328). -/
def JobCtx.nextLen (j : JobCtx) : Nat :=
  let a := j.dst + j.done
  min (j.len - j.done) (4096 - a % 4096)

/-- The source reads and the writes of a job's next chunk, in the order in which they are issued (R294). Whether
the pseudo-channel of each is degraded is taken now, at the chunk's start (R330). -/
def Chip.chunkOps (c : Chip) (p : Nat) (j : JobCtx) : List GranOp × List GranOp :=
  let n := j.nextLen / 64
  let gs (a : Nat) (write : Bool) (d : Block) : List GranOp :=
    (granules c.addr.mode p a n write d j c.keep).map (fun g => { g with deg := c.rowDegraded g.row })
  let a := j.dst + j.done
  match j.kind with
  | .fill => ([], gs a true j.pattern)
  | .copy => (gs (j.src + j.done) false 0, gs a true 0)
  | .rangeCrc => (gs a false 0, [])

/-- The data of a granule write, once it is ready: the pattern of a FILL; for a COPY the source blocks, those that were lost
to be written in the poisoned form (R334, R335). -/
def Chunk.fillGran (k : Chunk) (kind : JobKind) (g : GranOp) : Option GranOp :=
  if kind == .copy && g.write then
    if g.blocks.all (fun b => k.buf.has b.ix) then
      let res (b : BlockAcc) : BlkRes := k.buf.get ⟨b.ix, .ok, 0⟩ b.ix
      some { g with
        blocks := g.blocks.map (fun b => { b with data := (res b).data })
        poison := (g.blocks.filter (fun b => (res b).status.flagged)).map (·.ix) }
    else none
  else some g

/-- Press `p` issues its next granule operation, when it has none out and the data is there (R295). -/
def Chip.issueNext (c : Chip) (p : Nat) : Chip :=
  match (c.press p).chunk with
  | none => c
  | some k =>
    match k.todo, (c.press p).ctxs.look k.ctx with
    | g :: rest, some j =>
      if k.issued then c
      else
        match k.fillGran j.kind g with
        | none => c
        | some g =>
          (c.onPress p (fun pr => { pr with chunk := some { k with todo := rest, issued := true } })).sendPkt
            .req (epPress p) (epSlice g.row.c) (.gran { g with born := c.keep })
    | _, _ => c

/-- The status of a granule's blocks as it bears on the job: a lost source is POISON, a target that lost its bank in the
middle of the chunk changes nothing (R122, R330). -/
def chunkStatus (write : Bool) (s : Status) (res : List BlkRes) : Status :=
  res.foldl (fun s r =>
    s.merge (if r.status.flagged then (if write then .ok else .poison) else r.status)) s

/-- The release notice of press `p`'s granule operation arrives (R295, R331). -/
def Chip.noticed (c : Chip) (p : Nat) (res : List BlkRes) : Chip :=
  (c.onPress p (fun pr => { pr with chunk := pr.chunk.map (fun k =>
    { k with issued := false, status := chunkStatus true k.status res }) })).issueNext p

/-- Granule data reaches press `p`'s read buffer (R295). -/
def Chip.granuleArrive (c : Chip) (p : Nat) : Chip :=
  match (c.press p).arrive with
  | [] => c
  | res :: rest =>
    (c.onPress p (fun pr => { pr with
      arrive := rest
      chunk := pr.chunk.map (fun k => { k with
        reads := k.reads - 1
        buf := res.foldl (fun b r => b.put r.ix r) k.buf
        status := chunkStatus false k.status res
        lost := k.lost + (res.filter (·.status.flagged)).length }) })).issueNext p

/-- Fold the blocks of a chunk into a running checksum, in address order; a lost block is not folded in (R336, R337). -/
def foldCrc (rpoly crc : Nat) (n : Nat) (buf : Tab BlkRes) : Nat :=
  (below n).foldl (fun c k =>
    match buf.look k with
    | some r => if r.status.flagged then c else crcRunR rpoly c (blockBytes r.data)
    | none => c) crc

/-! ### Boundaries (R300, R328, R329) -/

/-- The level of a job at its boundary (R261, R300). -/
def Chip.jobLevel (c : Chip) (j : JobCtx) : Nat := c.level j.cls j.aged

/-- The contexts of press `p` that may run a chunk: released, not ended, their packet received. -/
def Press.runnable (p : Press) : List (Nat × JobCtx) :=
  List.filter (fun (e : Nat × JobCtx) => e.2.released && e.2.noted && !e.2.ended) p.ctxs

/-- The units a chunk charges to its class (R279). -/
def JobKind.units : JobKind → Nat
  | .copy => 128
  | _ => 64

/-- The last notice and the last source data of press `p`'s chunk have come: DONE advances, and a job at its end answers
(R113, R331, R339). -/
def Chip.chunkComplete (c : Chip) (p : Nat) : Chip :=
  match (c.press p).chunk with
  | none => c
  | some k =>
    if !(c.live && k.todo.isEmpty && !k.issued && k.reads == 0) then c
    else
      match (c.press p).ctxs.look k.ctx with
      | none => c.onPress p (fun pr => { pr with chunk := none })
      | some j =>
        let j' := { j with
          done := k.first + k.len - j.dst
          crc := if j.kind == .rangeCrc then foldCrc (rpolyOf j.crcPoly) j.crc (k.len / 64) k.buf else j.crc
          lostblk := satAdd max32 j.lostblk k.lost
          status := j.status.merge k.status
          running := false, aged := false }
        let c := c.onPress p (fun pr => { pr with
          chunk := none, ctxs := pr.ctxs.put k.ctx j', cntChunk := pr.cntChunk.bump
          cntLostblk := satAdd max32 pr.cntLostblk k.lost
          rdbufFree := if j.kind == .fill then pr.rdbufFree else pr.rdbufFree + 16 })
        if j'.len ≤ j'.done then c.endAtPress p k.ctx j'.status 0 else c

end Sys2Proof.Machine
end

