-- ==== Sys2Proof/Machine/Xbar.lean ====
section
/-! DEFINITION. The crossbar (R266-R271): which waiting packet a destination takes, and what the packet does there. -/

namespace Sys2Proof.Machine

/-- The level of a REQ packet at destination `dst` (R261, R270). -/
def Chip.pktLevel (c : Chip) (dst : Nat) (b : PktBody) : Nat :=
  match b with
  | .part r => c.level r.cls r.aged
  | .gran g => c.level g.cls g.aged
  | .walk w => c.level w.cls w.aged
  | .job i => match (c.press (dst - 96)).ctxs.look i with
    | some j => c.level j.cls j.reqAged
    | none => 1
  | _ => 1

/-- The request a part belongs to. -/
def PktBody.partOf : PktBody → List (Nat × Nat)
  | .part r => [(r.port, r.tag)]
  | _ => []

/-- The heads of the source queues for a destination on a virtual channel, with their places; the second part of a split
request is no head before the first has been accepted, and holds up nothing behind it until then (R269). -/
def headsOf (vc : Vc) (dst : Nat) : Nat → List Nat → List (Nat × Nat) → List Packet → List (Nat × Packet)
  | _, _, _, [] => []
  | i, srcs, parts, p :: t =>
    let here := p.vc == vc && p.dst == dst
    let k := p.body.partOf
    let offered := here && !k.any parts.contains
    let rest := headsOf vc dst (i + 1) (if offered then p.src :: srcs else srcs) (k ++ parts) t
    if offered && !srcs.contains p.src then (i, p) :: rest else rest

/-- Whether a destination has space for a packet (R271). -/
def Chip.hasSpace (c : Chip) (dst : Nat) (b : PktBody) : Bool :=
  match b with
  | .part _ | .walk _ => (c.slice (dst - 32)).inBuf.length < 16
  | .gran _ => (c.slice (dst - 32)).lockLane.length < 16
  | .job _ => (c.press (dst - 96)).jobBuf.length < 8
  | .mgmtCmd .. => c.mgt.buf.length < 16
  | _ => true

/-- The round-robin pointers of a virtual channel. -/
def Xbr.rr (x : Xbr) : Vc → Tab Nat
  | .req => x.rrReq | .rsp => x.rrRsp | .mgt => x.rrMgt

/-- Whether nothing leaves an endpoint, since its block or the crossbar holds a fatal condition (R582). -/
def Chip.sourceHalted (c : Chip) (src : Nat) : Bool := (src < 96 && c.halted (16 + src)) || c.halted 8

/-- The packet that destination `dst` grants its link to (R270). -/
def Chip.grantPkt (c : Chip) (vc : Vc) (dst : Nat) : Option (Nat × Packet) :=
  let hs := (headsOf vc dst 0 [] [] c.xbr.pkts).filter (fun h => c.hasSpace dst h.2.body && !c.sourceHalted h.2.src)
  let top := if vc == .req then maxOf (hs.map (fun h => c.pktLevel dst h.2.body)) else 0
  let cand := if vc == .req then hs.filter (fun h => c.pktLevel dst h.2.body == top) else hs
  match roundRobin 113 ((c.xbr.rr vc).get 112 dst) (cand.map (fun h => h.2.src)) with
  | some s => cand.find? (fun h => h.2.src == s)
  | none => none

/-- Remember the source that a destination granted last. -/
def Xbr.setRr (x : Xbr) (vc : Vc) (dst src : Nat) : Xbr :=
  match vc with
  | .req => { x with rrReq := x.rrReq.put dst src }
  | .rsp => { x with rrRsp := x.rrRsp.put dst src }
  | .mgt => { x with rrMgt := x.rrMgt.put dst src }

/-- A response part reaches its port: once all parts are there the whole response is staged (R120, R169). -/
def gatherPart (res : List BlkRes) (r : Req) : Req :=
  let r := { r with results := r.results ++ res, left := r.left - 1 }
  if r.left == 0 then
    let (st, arg, data) := r.answer
    { r with phase := .staged, status := st, arg := arg, data := data }
  else r

/-- What an MGT input buffer does with a packet is the management controller's: the packet stands in the buffer. -/
def Chip.mgtArrive (c : Chip) (n tag : Nat) (bytes : List Byte) : Chip :=
  let level := match (c.port n).req? tag with | some r => r.hdr.priv.toNat | none => 2
  { c with mgt := { c.mgt with buf := c.mgt.buf ++ [⟨0, n, tag, level, bytes⟩] } }

/-- What a packet does at its destination. -/
def Chip.deliver (c : Chip) (dst : Nat) (b : PktBody) : Chip :=
  match b with
  | .part r =>
    let r := { r with deg := c.rowDegraded r.row }
    c.onSlice (dst - 32) (fun s => { s with inBuf := s.inBuf ++ [(s.arr, .op r)], arr := s.arr + 1 })
  | .walk w =>
    let w := { w with st := if c.windowInRescue (dst - 32) w.base w.last then none else some (c.flushStatus (dst - 32) w.base w.last) }
    c.onSlice (dst - 32) (fun s => { s with inBuf := s.inBuf ++ [(s.arr, .walk w)], arr := s.arr + 1 })
  | .gran g => c.onSlice (dst - 32) (fun s => { s with lockLane := s.lockLane ++ [(s.arr, g)], arr := s.arr + 1 })
  | .job i => c.onPress (dst - 96) (fun pr => { pr with jobBuf := pr.jobBuf ++ [i] })
  | .partRsp n tag _ res => c.onPort n (·.onReq tag (gatherPart res))
  | .walkRsp n tag st => c.onPort n (·.onReq tag (fun r => { r with left := r.left - 1, status := r.status.merge st }))
  | .jobRsp n tag st arg data | .mgmtRsp n tag st arg data =>
    c.onPort n (·.onReq tag (fun r => { r with phase := .staged, status := st, arg := arg, data := data }))
  | .granData p res => c.onPress p (fun pr => { pr with arrive := pr.arrive ++ [res] })
  | .notice p res => c.noticed p res
  | .mgmtCmd n tag bytes => c.mgtArrive n tag bytes

/-- Destination `dst` accepts a waiting packet of a virtual channel (R270, R271). -/
def Chip.packetAccept (c : Chip) (vc : Vc) (dst : Nat) : Chip :=
  if !c.live then c
  else
    match c.grantPkt vc dst with
    | some (i, p) =>
      ({ c with xbr := { (c.xbr.setRr vc dst p.src) with pkts := listDel c.xbr.pkts i } }).deliver dst p.body
    | none => c

/-! ### Ageing (R261, R262) -/

/-- What reaches 2 us since its age origin: a host request, a press granule operation, or a job at its boundary. -/
def Chip.ageRequest (c : Chip) (n tag : Nat) : Chip :=
  let mine (r : SliceReq) : Bool := r.port == n && r.tag == tag
  let part (r : SliceReq) : SliceReq := if mine r then { r with aged := true } else r
  let walk (w : Walk) : Walk := if w.port == n && w.tag == tag then { w with aged := true } else w
  let src (o : OpSrc) : OpSrc := match o with | .host r => .host (part r) | g => g
  { (c.onPort n (·.onReq tag (fun r => { r with aged := true }))) with
    xbr := { c.xbr with pkts := c.xbr.pkts.map (fun p => match p.body with
      | .part r => { p with body := .part (part r) }
      | .walk w => { p with body := .walk (walk w) }
      | _ => p) }
    slices := c.slices.map (fun (i, s) => (i, { s with
      inBuf := s.inBuf.map (fun (k, x) => (k, match x with | .op r => .op (part r) | .walk w => .walk (walk w)))
      cq := s.cq.map (fun (k, o, y) => (k, src o, y))
      ops := s.ops.map (fun (k, o) => (k, { o with src := src o.src })) })) }

/-- A granule operation of press `p` becomes AGED. -/
def Chip.ageGran (c : Chip) (p : Nat) : Chip :=
  let g1 (g : GranOp) : GranOp := if g.press == p then { g with aged := true } else g
  { c with
    xbr := { c.xbr with pkts := c.xbr.pkts.map (fun k => match k.body with
      | .gran g => { k with body := .gran (g1 g) }
      | _ => k) }
    slices := c.slices.map (fun (i, s) => (i, { s with lockLane := s.lockLane.map (fun (k, g) => (k, g1 g)) })) }

/-- The granule operation of press `p` that is out and has not taken its line lock. -/
def Chip.granOut (c : Chip) (p : Nat) : Option GranOp :=
  match c.xbr.pkts.findSome? (fun k => match k.body with | .gran g => if g.press == p then some g else none | _ => none) with
  | some g => some g
  | none => c.slices.findSome? (fun (_, s) => s.lockLane.findSome? (fun (_, g) => if g.press == p then some g else none))

/-- A job becomes AGED, and is counted once (R300, R307). -/
def Chip.ageJob (c : Chip) (p i : Nat) (j : JobCtx) (f : JobCtx → JobCtx) : Chip :=
  let c := c.onPress p (·.onCtx i (fun j => { f j with counted := true }))
  if j.counted then c else c.countAged 1

/-- An access reaches 2 us since its age origin and becomes AGED (R261, R262). Each request and each press access is counted once
(R307). -/
def Chip.agePromote (c : Chip) (what : AgeRef) : Chip :=
  if !c.live then c
  else
    match what with
    | .request n tag =>
      match (c.port n.val).req? tag.val with
      | some r =>
        if r.phase != .active then c
        else if isJob r.op then
          match c.jobOf n.val tag.val with
          | some (p, i, j) => if j.released && !j.noted then c.ageJob p i j (fun j => { j with reqAged := true }) else c
          | none => c
        else if r.aged then c
        else (c.ageRequest n.val tag.val).countAged 1
      | none => c
    | .granule p =>
      match c.granOut p.val with
      | some g => if g.aged then c else (c.ageGran p.val).countAged g.blocks.length
      | none => c
    | .job p i =>
      match (c.press p.val).ctxs.look i.val with
      | some j => if j.released && !j.ended && !j.running then c.ageJob p.val i.val j (fun j => { j with aged := true }) else c
      | none => c

end Sys2Proof.Machine
end

