-- ==== Sys2Proof/Machine/Sweep.lean ====
section
/-! DEFINITION. What sweeps a slice's lines: the walks of FLUSH (R246-R249), drains before a test (R240, R241, R717), and
write-back by kind of line; the release of a granule's line lock (R297); and the completion of a FLUSH (R138, R248). -/

namespace Sys2Proof.Machine

/-! ### Walks -/

/-- Whether block `j` of a line of slice `s` lies in the bytes of a walk's window, under the map in force (R246). -/
def Walk.covers (w : Walk) (mode s : Nat) (l : Line) (j : Nat) : Bool :=
  let a := unmapBlock mode (l.rowLoc s) j
  w.base ≤ a && a < w.last

/-- The sectors of a line, as numbers, that satisfy `p`. -/
def sectorsOf (p : Nat → Bool) : List Nat := (below 16).filter p

/-- Whether the sweep must stop at a line: it is busy, locked or in rescue, and a walk has a valid or busy sector of it in
its window (R138, R249); or a walk has a dirty sector of it there and no eviction buffer is free (R233, R249). -/
def Chip.sweepStops (c : Chip) (s : Nat) (l : Line) : Bool :=
  let sl := c.slice s
  let w := l.rowLoc s
  let covered (p : Nat → Bool) : Bool :=
    sl.walks.any (fun k => !(sectorsOf (fun j => p j && k.covers c.addr.mode s l j)).isEmpty)
  (sl.rowBusy w || sl.rowLocked w || c.inRescue w) && covered (fun j => natBit l.valid j || sl.sectBusy w j) ||
  sl.freeEvb.isNone && covered (natBit l.dirty)

/-- One line under every active walk: dirty sectors in a window are written back, and those of a mode-1 walk are invalidated
(R246). -/
def Chip.sweepLine (c : Chip) (s i : Nat) (l : Line) : Chip :=
  let walks := (c.slice s).walks
  let hit := sectorsOf (fun j => natBit l.valid j && walks.any (·.covers c.addr.mode s l j))
  let drop := sectorsOf (fun j => natBit l.valid j && walks.any (fun k => k.inval && k.covers c.addr.mode s l j))
  let out : Line := { l with data := List.filter (fun (e : Nat × Block) => hit.contains e.1) l.data }
  let l' := hit.foldl (fun l j => { l with dirty := maskSet l.dirty j false }) l
  let l' := drop.foldl (fun l j => l.dropSect j) l'
  -- a line with a busy sector stays for its fill, though no sector of it is valid
  let c := c.onSlice s (fun sl => { sl with
    lines := if l'.valid = 0 && !drop.isEmpty && !sl.rowBusy (l.rowLoc s) then sl.lines.del i else sl.lines.put i l' })
  c.writeBack s out

/-- The walks of a slice after a line: each has one line less to visit; those at their end answer, and waiting ones take
their places (R247). -/
def Chip.stepWalks (c : Chip) (s : Nat) : Chip :=
  let sl := c.slice s
  let ws := sl.walks.map (fun w => { w with left := w.left - 1 })
  let done := ws.filter (fun w => w.left == 0)
  let live := ws.filter (fun w => w.left != 0)
  let pos := (sl.walkPos + 1) % 2048
  let room := 4 - live.length
  let join := (sl.walkQ.take room).map (fun w => { w with start := pos, left := 2048 })
  let c := c.onSlice s (fun sl => { sl with
    walks := live ++ join, walkQ := sl.walkQ.drop room, walkPos := pos })
  done.foldl (fun c w =>
    c.sendPkt .rsp (epSlice s) w.port (.walkRsp w.port w.tag (w.st.getD (c.flushStatus s w.base w.last)))) c

/-- Whether a walk that would end now must wait: its window reaches a pseudo-channel of the slice that is in rescue (R138). -/
def Chip.walkHeld (c : Chip) (s : Nat) : Bool :=
  (c.slice s).walks.any (fun w => w.left == 1 && c.windowInRescue s w.base w.last)

/-- The sweep of slice `s` visits its next line, or stops at it (R247, R249). A FLUSH that finds a pseudo-channel in rescue waits until
the rescue ends (R138). -/
def Chip.walkStep (c : Chip) (s : Nat) : Chip :=
  let sl := c.slice s
  if !c.live || sl.walks.isEmpty || c.walkHeld s then c
  else
    match sl.lines.look sl.walkPos with
    | none => c.stepWalks s
    | some l => if c.sweepStops s l then c else (c.sweepLine s sl.walkPos l).stepWalks s

/-! ### Completion of a FLUSH -/

/-- Whether every block that a FLUSH wrote back has entered its write queue: no eviction buffer holds a block of its window that has
not (R248). -/
def Chip.flushQueued (c : Chip) (base last : Nat) : Bool :=
  (below 64).all (fun s =>
    let sl := c.slice s
    (sl.evbs.map (·.2)).all (fun e =>
      List.all e.blocks (fun b =>
        let a := unmapBlock c.addr.mode ⟨s, e.p, e.b, e.r⟩ b.1
        e.sent.contains b.1 || a < base || last ≤ a)))

/-- Every slice has ended its walk and every write-back is queued: the FLUSH answers (R248). -/
def Chip.flushComplete (c : Chip) (n tag : Nat) : Chip :=
  match (c.port n).req? tag with
  | some r =>
    if c.live && r.op == .flush && r.phase == .active && r.left == 0 && c.flushQueued r.winBase r.winEnd then
      c.finish n tag r.status 0 []
    else c
  | none => c

/-! ### Drains -/

/-- Write back and invalidate the lines of slice `s` that satisfy `p`, in ascending order, those with a busy sector or a lock excepted, or of a pseudo-channel in the first step of a rescue, and
those with dirty sectors while an eviction buffer is free (R233, R240). The others follow as buffers come free (`Chip.cleanTick`). -/
def Chip.cleanLines (c : Chip) (s : Nat) (p : Line → Bool) : Chip :=
  let sl := c.slice s
  let ls := List.filter (fun (e : Nat × Line) => p e.2 && c.lineFree s e.2) sl.lines
  ls.foldl (fun c e =>
    if (c.slice s).roomFor e.2 then (c.onSlice s (fun sl => { sl with lines := sl.lines.del e.1 })).writeBack s e.2 else c) c

/-- What a drain order of the self-test controller or of TRAIN asks of slice `s` (R240, R416, R551). -/
def Chip.drainOrder (c : Chip) (s : Nat) : Option DrainFor :=
  let trains := match c.mgt.long with | some ⟨_, _, .train k _ _ q⟩ => k == s && !q | _ => false
  if trains then some .channel
  else
    match c.boot.field with
    | some t =>
      if t.phase != 1 then none
      else if t.block == 48 + s then some .slice
      else if t.block == 112 + s || t.block == 176 + s then some .channel
      else none
    | none => none

/-- Slice `s` takes its drain order: everything is bypassed from here on, and its lines are written back and invalidated
(R240). -/
def Chip.sliceDrain (c : Chip) (s : Nat) : Chip :=
  let m := (c.slice s).mode
  match c.drainOrder s with
  | some d =>
    if c.live && (m == .normal || m == .bypassFailed) then
      (c.onSlice s (fun sl => { sl with mode := .draining, drainFor := d })).cleanLines s (fun _ => true)
    else c
  | none => c

/-- Whether nothing of the slice's requests is on its way or in it (R717). -/
def Chip.sliceEmpty (c : Chip) (s : Nat) : Bool :=
  let sl := c.slice s
  sl.inBuf.isEmpty && sl.cq.isEmpty && sl.ops.isEmpty && sl.lockLane.isEmpty && sl.busy.isEmpty &&
  sl.granWait.isEmpty && sl.out.isEmpty && !c.xbr.pkts.any (fun p => p.vc == .req && p.dst == epSlice s)

/-- The drain of slice `s` ends: every eviction buffer is free, no line is valid and its FLUSH walks are over; a slice drained
for its channel enters CHANNEL_TEST once nothing for the channel remains (R240, R241, R552, R717). Lines that were busy or
locked are written back first. -/
def Chip.sliceDrainEnd (c : Chip) (s : Nat) : Chip :=
  if !(c.live && (c.slice s).mode == .draining) then c
  else
    let c := c.cleanLines s (fun _ => true)
    let sl := c.slice s
    if sl.lines.isEmpty && sl.evbs.isEmpty && sl.walks.isEmpty && sl.walkQ.isEmpty then
      match sl.drainFor with
      | .slice => c.onSlice s (fun sl => { sl with mode := .bypassTest })
      | .channel => if c.sliceEmpty s then c.onSlice s (fun sl => { sl with mode := .channelTest }) else c
    else c

/-- The mode of a slice after a test: NORMAL with every line invalid, or BYPASS_FAILED (R241, R242, R555). -/
def Slice.backToService (s : Slice) : Slice :=
  { s with mode := if s.failed then .bypassFailed else .normal, lines := [] }

end Sys2Proof.Machine
end

