-- ==== Sys2Proof/Machine/Bwr.lean ====
section
/-! DEFINITION. The bandwidth regulator (R277-R292, R722): the deliverable capacity C, the window boundary, guarantees. -/

namespace Sys2Proof.Machine

/-- The physical die that a controller's channel lives on (R9): DIE_ROLE names the reserve dies, and data dies are numbered in
order over the others. -/
def physDie (role k : Nat) : Nat :=
  if k < 64 then
    ((below 18).filter (fun d => !natBit role d)).getD (k / 4) 0
  else ((below 18).filter (natBit role)).getD ((k - 64) / 4) 0

/-- The logical die of a physical data die, if it is one. -/
def logDie (role d : Nat) : Option Nat :=
  if natBit role d then none else some ((below d).filter (fun i => !natBit role i)).length

/-- DIE_ROLE as FUS loaded it (R601). -/
def Chip.dieRole (c : Chip) : Nat := c.fus.eff.get 0 4

/-- Zone `z` of THM. -/
def Chip.zone (c : Chip) (z : Nat) : Zone := c.thm.zones.get {} z

/-- The effective throttle step of a physical die (R508). -/
def Chip.effStep (c : Chip) (d : Nat) : Nat :=
  match logDie c.dieRole d with
  | some n => max (c.zone d).step (c.zone (18 + n / 2)).step
  | none => (c.zone d).step

/-- ACT_GAP as a zone applies it (R519): below 2 taken as 2, and 63 as 62. -/
def Zone.actGap (z : Zone) : Nat := min 62 (max 2 (natBits z.cfg 16 6))

/-- Whether the ACT_GAP of a throttled die certainly still runs for a pseudo-channel (R509): the two ACTs would stand less than 40 ns for
each begun cycle of CK_KEEP apart. The rest of the interval is the command's to name, as those of R357 are (log entry 57). -/
def Chip.actHeld (c : Chip) (k p : Nat) : Bool :=
  let d := physDie c.dieRole k
  match (c.pc k p).actAt with
  | some t => 1 ≤ c.effStep d && 40 * (c.keep - t + 1) ≤ (c.zone d).actGap
  | none => false

/-- The throttle factor F × 16 of a die (R284): BWR_THR_FACTOR.STEPn. -/
def Chip.thrFactor (c : Chip) (d : Nat) : Nat := min 16 (natBits c.bwr.thr.live (8 * c.effStep d) 5)

/-- R × 3,900 of a refresh band (R284). -/
def refreshFactor (band : Nat) : Nat := match band with | 0 => 3550 | 1 => 3200 | _ => 2500

/-- Twice the T of a pseudo-channel (R284). -/
def Pc.twiceT (pc : Pc) : Nat := if pc.rate4 || pc.state == .rescue then 1 else 2

/-- Whether any racking is in progress (R288). -/
def Chip.rackActive (c : Chip) : Bool := List.any c.dies (fun (e : Nat × DieCtx) => e.2.cur.isSome)

/-- RACK_RESV in force. -/
def Bwr.resv (b : Bwr) : Nat := natBits b.cfg.live 0 13

/-- The deliverable capacity in steps of 0.5 GB/s (R284): each served bank adds 2 GB/s × R × T × F, in units of
1/(3,900 × 2 × 16) of 2 GB/s. -/
def Chip.deliverable (c : Chip) : Nat :=
  let role := c.dieRole
  let n := sumBelow 144 (fun i =>
    let k := i / 2
    let p := i % 2
    let pc := c.pc k p
    let d := physDie role k
    let here : Nat :=
      if k < 64 then ((below 16).filter (fun b =>
        let bank := 32 * k + 16 * p + b
        c.served bank && (match c.entryOf bank with | none => true | some e => (c.remapE e).racking))).length
      else ((below 16).filter (fun b =>
        let e := 32 * (k - 64) + 16 * p + b
        (c.remapE e).valid && !(c.remapE e).racking && c.served (c.remapE e).bank)).length
    if here = 0 then 0 else here * (refreshFactor (c.zone d).band * pc.twiceT * c.thrFactor d))
  n * 3648 / 124800000 - (if c.rackActive then c.bwr.resv else 0)

/-- The sum of the rates in force. -/
def Bwr.sum (b : Bwr) : Nat := sumBelow 8 (fun k => (b.cls.get {} k).guar)

/-- The budget of class `k` (R288-R290). -/
def Bwr.budgetOf (b : Bwr) (racking : Bool) (factor k guar : Nat) : Nat :=
  guar * 500 * factor / 262144 + (if racking && k == 7 then b.resv * 500 / 64 else 0)

/-- A class at a window boundary: its counter restarts, and with a budget of 0 it is over budget at once (R280, R281). -/
def BwClass.newWindow (b : BwClass) (inForce : Bool) (budget : Nat) : BwClass :=
  let spent := inForce && budget == 0
  { b with counter := 0, budget := budget, overBud := spent, demote := if spent then bump32 b.demote else b.demote }

/-- A budget window ends (R281, R285, R286, R288-R292, R307). Its counters restart and its shadows apply at every boundary (R309); a stack
whose BWR failed, or that has not come to boot step 10, computes no capacity and keeps no budgets (R285, R542). -/
def Chip.windowBoundary (c : Chip) : Chip :=
  if !c.live then c
  else
    let b := c.bwr
    let b := if c.auto 12 then { b with cfg := b.cfg.apply, thr := b.thr.apply } else b
    let c := { c with bwr := b }
    if b.bypass || c.boot.step < 10 then
      { c with bwr := { b with cls := (below 8).foldl (fun t k => t.upd {} k (·.newWindow false 0xFFFF)) b.cls } }
    else
    let cap := c.deliverable
    let racking := c.rackActive
    let b := match b.pendSet with
      | some gs => { b with
          pendSet := none, inForce := gs.any (· != 0)
          cls := (below 8).foldl (fun t k => t.upd {} k (fun x => { x with guar := gs.getD k 0 })) b.cls }
      | none => b
    let sum := b.sum
    let factor := if b.inForce then min 4096 (4096 * cap / sum) else 4096
    let was := b.degraded
    let b := { b with
      deliver := cap, factor := factor, degraded := b.inForce && factor < 4096
      cls := (below 8).foldl (fun t k => t.upd {} k (fun x =>
        x.newWindow b.inForce (if b.inForce then b.budgetOf racking factor k x.guar else 0xFFFF))) b.cls }
    let c := { c with bwr := b }
    if b.degraded && !was then c.raise 9 ⟨1, 0x34, factor⟩ else c

end Sys2Proof.Machine
end

