-- ==== Sys2Proof/Machine/Tsv.lean ====
section
/-! DEFINITION. The TSV lanes (R350-R356, R400-R417): the command words and their parity as the core die checks them, the bitwise
majority of mode-register traffic, the patterns of compare runs, and what a sweep finds. -/

namespace Sys2Proof.Machine

/-! ### Command words (R351-R355) -/

/-- The 26 bits of a command on the row bus; NOP where the command is a column command. -/
def DramCmd.rowBits : DramCmd → Nat
  | .act b r nr => 1 + fld 3 4 b + fld 7 16 r + fld 23 2 nr
  | .pre b => 2 + fld 3 4 b
  | .prea => 3
  | .refab => 4
  | .clrAlert => 5
  | .rd .. | .wr .. | .mrw .. | .mrr .. => 0

/-- The 16 bits of a command on the column bus; NOP where the command is a row command. -/
def DramCmd.colBits : DramCmd → Nat
  | .rd b j => 1 + fld 3 4 b + fld 7 4 j
  | .wr b j => 2 + fld 3 4 b + fld 7 4 j
  | .mrw m _ => 3 + fld 3 8 m
  | .mrr m => 4 + fld 3 8 m
  | .act .. | .pre _ | .prea | .refab | .clrAlert => 0

/-- The number of ones among the low `n` bits. -/
def ones (n v : Nat) : Nat := sumBelow n (fun i => flagNat (natBit v i))

/-- A word of a bus whose halves have `w` bits, with the parity bit that makes the number of ones even (R351, R352). -/
def busWord (w v : Nat) : BusWord := ⟨v % 2 ^ w, v / 2 ^ w % 2 ^ w, ones (2 * w) v % 2 == 1⟩

/-- A command on the buses of its pseudo-channel; the bus with nothing to send carries NOP (R351). -/
def Pc.drive (pc : Pc) (m : DramCmd) : Pc := { pc with rowBus := busWord 13 m.rowBits, colBus := busWord 8 m.colBits }

/-- A cycle in which no command issues: both buses carry NOP (R351). -/
def Pc.driveNop (pc : Pc) : Pc := { pc with rowBus := busWord 13 0, colBus := busWord 8 0 }

/-- Whether a row command's word is one that R353 gives: no reserved ROP, no row above 49,167, no unused bit set (R355). -/
def rowWordOk (v : Nat) : Bool :=
  match v % 8 with
  | 1 => natBits v 7 16 ≤ 49167 && !natBit v 25
  | 2 => natBits v 7 19 == 0
  | 0 | 3 | 4 | 5 => natBits v 3 23 == 0
  | _ => false

/-- Whether a column command's word is one that R353 gives (R355). -/
def colWordOk (v : Nat) : Bool :=
  match v % 8 with
  | 0 => natBits v 3 13 == 0
  | 1 | 2 | 3 | 4 => natBits v 11 5 == 0
  | _ => false

end Sys2Proof.Machine

namespace Sys2Proof

open Sys2Proof.Machine

/-- Whether the core die takes what it received in a cycle for a parity failure (R352, R355). -/
def Reception.fails (r : Reception) : Bool :=
  let row := r.rowRise.toNat + r.rowFall.toNat * 2 ^ 13
  let col := r.colRise.toNat + r.colFall.toNat * 2 ^ 8
  (ones 26 row + flagNat r.rowPar) % 2 == 1 || (ones 16 col + flagNat r.colPar) % 2 == 1 || !rowWordOk row || !colWordOk col

end Sys2Proof

namespace Sys2Proof.Machine

/-! ### Mode-register traffic (R401) -/

/-- The bitwise majority of the 16-bit words that lanes carry: a bit is 1 where more than half of them have it. -/
def majority (ws : List Nat) : Nat :=
  sumBelow 16 (fun i => if ws.length < 2 * (ws.filter (natBit · i)).length then 2 ^ i else 0)

/-- Data of an MRW or an MRR as it is taken: sent on all 38 data lanes at once. -/
def onLanes (v : Nat) : Nat := majority (List.replicate 38 v)

/-! ### Patterns (R404) -/

/-- One beat of the PRBS-15 of x^15 + x^14 + 1. The output is the bit shifted out at the top, log entry 53. -/
def prbsNext (s : Nat) : Nat := (s * 2) % 2 ^ 15 + (natBits s 14 1 ^^^ natBits s 13 1)

/-- `n` beats from a generator's state: the beats, the first in bit 0, and the state after them. -/
def prbsRun : Nat → Nat → Nat × Nat
  | 0, s => (0, s)
  | n + 1, s =>
    let (w, t) := prbsRun n (prbsNext s)
    (natBits s 14 1 + 2 * w, t)

/-- The state of a lane's generator before burst `n`. -/
def prbsAt : Nat → Nat → Nat
  | 0, s => s
  | n + 1, s => prbsAt n (prbsRun 16 s).2

/-- The 16 beats of burst `n` on lane `l` by a pattern kind and a user pattern (R404). -/
def patternWord (kind user l n : Nat) : Nat :=
  match kind with
  | 1 => if n % 38 = l then 0xFFFF else 0
  | 2 => natBits user (16 * ((n + l) % 4)) 16
  | _ => (prbsRun 16 (prbsAt n ((l * 0x391 + 1) % 2 ^ 15))).1

/-! ### Compare runs (R405) -/

/-- Bursts or command cycles of a run: 2^(6 + BURSTS), BURSTS above 10 taken as 10 (R405, R439). -/
def runLength (ctl : Nat) : Nat := 2 ^ (6 + min 10 (natBits ctl 16 4))

/-- Lanes of a run in a direction. -/
def runLanes (ctl : Nat) : Nat := if natBits ctl 12 2 == 2 then 23 else 38

/-- Groups of 16 beats that lane `l` carries in a run: one for each burst; in a command run two beats a cycle on a command lane, which
both edges use, and one on a parity lane (R350, R404). -/
def runGroups (ctl l : Nat) : Nat :=
  if natBits ctl 12 2 == 2 then (if l == 13 || l == 22 then runLength ctl / 16 else runLength ctl / 8) else runLength ctl

/-- The pattern kind of a run: 11 is taken as LFSR (R439). -/
def runKind (ctl : Nat) : Nat := natBits ctl 8 2 % 3

/-- Mismatches of lane `l` in a run, `recv` naming every group of beats received other than as sent. -/
def runCount (ctl user : Nat) (recv : List (Fin 38 × Nat × BitVec 16)) (l : Nat) : Nat :=
  ((recv.filter (fun x => x.1.val == l && x.2.1 < runGroups ctl l)).map
    (fun x => ones 16 (x.2.2.toNat ^^^ patternWord (runKind ctl) user l x.2.1))).foldl (· + ·) 0

/-- Group `n` of lane `l` as it was received. -/
def runRecv (ctl user : Nat) (recv : List (Fin 38 × Nat × BitVec 16)) (l n : Nat) : Nat :=
  match recv.find? (fun x => x.1.val == l && x.2.1 == n) with
  | some x => x.2.2.toNat
  | none => patternWord (runKind ctl) user l n

/-- The row and the column command that the die captured in the last cycle of a command run (R403, R405). -/
def lastCapture (ctl user : Nat) (recv : List (Fin 38 × Nat × BitVec 16)) : Nat × Nat :=
  let beat (l i : Nat) : Nat := natBits (runRecv ctl user recv l (runGroups ctl l - 1)) i 1
  (sumBelow 13 (fun l => beat l 14 * 2 ^ l + beat l 15 * 2 ^ (13 + l)),
   sumBelow 8 (fun l => beat (14 + l) 14 * 2 ^ l + beat (14 + l) 15 * 2 ^ (8 + l)))

/-! ### Sweeps (R409, R417) -/

/-- The windows of a sweep over `n` codes, given by the mask of those that pass: for each run of consecutive passing codes its first code
and its length. -/
def windowsOf (mask : Nat) : Nat → List (Nat × Nat)
  | 0 => []
  | n + 1 =>
    let ws := windowsOf mask n
    if natBit mask n then
      match ws with
      | (a, len) :: t => if a + len == n then (a, len + 1) :: t else (n, 1) :: ws
      | [] => [(n, 1)]
    else ws

/-- The window of a sweep: the longest run of consecutive passing codes (R409). Where several are longest, the manual names none, and which
is taken is a free value, log entry 53. -/
def window (n mask : Nat) : Nat × Nat :=
  let ws := windowsOf mask n
  let len := ws.foldl (fun m w => max m w.2) 0
  match ws.filter (fun w => w.2 == len) with
  | [] => (0, 0)
  | [w] => w
  | w :: t => (w :: t).getD (Config.windowTie mask % (t.length + 1)) w

/-- The middle code of a window, rounded down (R409). -/
def middle (w : Nat × Nat) : Nat := w.1 + (w.2 - 1) / 2

end Sys2Proof.Machine

namespace Sys2Proof

open Sys2Proof.Machine

/-- What the sweeps of a lane found. -/
def LaneSet.lane (s : LaneSet) (l : Nat) : LaneSweep :=
  match s.except.find? (fun e => e.1.val == l) with
  | some e => e.2
  | none => s.common

/-- The windows of a data lane: first DELAY sweep, VREF sweep, second DELAY sweep (R408 step 4). -/
def LaneSweep.wDelay (x : LaneSweep) : Nat × Nat := window 128 x.delay.toNat
def LaneSweep.wVref (x : LaneSweep) : Nat × Nat := window 64 x.vref.toNat
def LaneSweep.wDelay2 (x : LaneSweep) : Nat × Nat := window 128 x.delay2.toNat

/-- A data lane passes its sweeps: no window is shorter than 16 DELAY or 8 VREF codes (R409). -/
def LaneSweep.sweepsOk (x : LaneSweep) : Bool := 16 ≤ x.wDelay.2 && 8 ≤ x.wVref.2 && 16 ≤ x.wDelay2.2

/-- A command lane passes its sweeps (R408 step 2, R409). -/
def LaneSweep.cmdOk (x : LaneSweep) : Bool := 16 ≤ x.wDelay.2 && 8 ≤ x.wVref.2

/-- The setting that the sweeps of a data lane give, and that of a command lane. -/
def LaneSweep.setting (x : LaneSweep) : Setting := ⟨middle x.wDelay2, middle x.wVref⟩
def LaneSweep.cmdSetting (x : LaneSweep) : Setting := ⟨middle x.wDelay, middle x.wVref⟩

/-- Every command lane has a window (R410). -/
def TrainAttempt.cmdOk (a : TrainAttempt) : Bool := (below 23).all (fun l => (a.cmd.lane l).cmdOk)

/-- A data lane fails a sweep, or confirmation, in either direction (R409, R412). -/
def TrainAttempt.sweepFails (a : TrainAttempt) (l : Nat) : Bool := !((a.rd.lane l).sweepsOk && (a.wr.lane l).sweepsOk)
def TrainAttempt.confirmFails (a : TrainAttempt) (l : Nat) : Bool := (a.rd.lane l).confirm != 7 || (a.wr.lane l).confirm != 7

/-- What the sweep of a lane in a retraining found. -/
def NearSet.lane (s : NearSet) (l : Nat) : Nat :=
  match s.except.find? (fun e => e.1.val == l) with
  | some e => e.2.toNat
  | none => s.common.toNat

end Sys2Proof

namespace Sys2Proof.Machine

/-- The window of a retraining's sweep over the codes 8 below to 8 above `centre`, those of the range of R397 (R417): its first code and
its length. -/
def nearWindow (centre mask : Nat) : Nat × Nat :=
  let ok := sumBelow 17 (fun i => if natBit mask i && 8 ≤ centre + i && centre + i < 136 then 2 ^ i else 0)
  let w := window 17 ok
  (centre + w.1 - 8, w.2)

/-- A lane passes a retraining when its window spans at least 12 of the 17 codes (R417). -/
def nearOk (centre mask : Nat) : Bool := 12 ≤ (nearWindow centre mask).2

end Sys2Proof.Machine
end

