-- ==== Sys2Proof/Machine/Dram.lean ====
section
/-! DEFINITION. A pseudo-channel's commands (R272-R276, R350-R363, R378-R388): the two queues, the scheduler, the neighbour sampler,
idle closing, the command retry buffer and what a replay issues. -/

namespace Sys2Proof.Machine

/-! ### Issue (R384) -/

/-- A command issues: it is on the buses and takes an entry of the retry buffer (R384). -/
def Chc.issueEnt (h : Chc) (e : RetryEnt) : Chc := { (h.onPc e.p (·.drive e.cmd)) with retry := h.retry ++ [e] }

/-- A command issues for the first time. -/
def Chc.issue (h : Chc) (p : Nat) (m : DramCmd) (a : Option Cmd) (d q : Nat) : Chc :=
  h.issueEnt { p := p, cmd := m, access := a, data := d, check := q }

/-- A command of a replay itself issues (R387 steps 2 to 4). -/
def Chc.issueAux (h : Chc) (p : Nat) (m : DramCmd) : Chc :=
  h.issueEnt { p := p, cmd := m, access := none, data := 0, check := 0, aux := true }

/-- Whether a replay of pseudo-channel `p` retains entries that it has still to reissue. -/
def Chc.retains (h : Chc) (p : Nat) : Bool := h.retry.any (fun e => e.p == p && e.wait)

/-- Whether the hold of R390 is in force, for both pseudo-channels of the channel. -/
def Chc.held (h : Chc) : Bool := (h.pc 0).state == .retrainHold || (h.pc 1).state == .retrainHold

/-! ### The neighbour sampler (R378-R382) -/

/-- One step of the 64-bit xorshift generator (R382). -/
def xorshift (x : Nat) : Nat :=
  let x := x ^^^ ((x <<< 13) % 2 ^ 64)
  let x := x ^^^ (x >>> 7)
  x ^^^ ((x <<< 17) % 2 ^ 64)

/-- K in force (CHC_RD_CFG). -/
def Chc.kExp (h : Chc) : Nat := min 16 (max 6 (natBits h.rdCfg.live 0 5))

/-- NR of an ACT, drawn from the value `x` (R379): bit 0 for the adjacent rows, bit 1 for those at distance 2. -/
def sampleNr (k x : Nat) : Nat := flagNat (natBits x 0 k == 0) + 2 * flagNat (natBits x 24 (k + 2) == 0)

/-- An ACT of bank `b` is formed: the sampler draws its NR, and it is counted (R378, R379, R396). -/
def Chc.formAct (h : Chc) (p b : Nat) : Chc × Nat :=
  let x := xorshift h.rng
  let nr := sampleNr h.kExp x
  let h := { h with
    rng := x
    cntAct := h.cntAct.bump
    cntNr1 := if natBit nr 0 then bump32 h.cntNr1 else h.cntNr1
    cntNr2 := if natBit nr 1 then bump32 h.cntNr2 else h.cntNr2 }
  (h.onPc p (fun pc => { pc with acts := pc.acts.upd 0 b (· + 1) }), nr)

/-- Form and issue an ACT, which opens its row (R353). -/
def Chc.activate (h : Chc) (p b r : Nat) (a : Option Cmd) : Chc :=
  let (h, nr) := h.formAct p b
  (h.onPc p (fun pc => { pc with openRows := pc.openRows.put b (r, nr), grpOpen := pc.grpOpen.del b })).issue p (.act b r nr) a 0 0

/-- A replay re-opens a row: an ACT of its own, with an NR that is drawn for it (R378, R387 step 4). -/
def Chc.reopen (h : Chc) (p b r : Nat) : Chc :=
  let (h, nr) := h.formAct p b
  h.issueAux p (.act b r nr)

/-- Issue a PRE, which closes a bank (R353). -/
def Chc.precharge (h : Chc) (p b : Nat) : Chc :=
  (h.onPc p (fun pc => { pc with openRows := pc.openRows.del b, grpOpen := pc.grpOpen.del b })).issue p (.pre b) none 0 0

/-! ### Entering the queues (R360, R361, R363) -/

/-- Whether a command is for a block. -/
def Cmd.isFor (m : Cmd) (l : Phys) : Bool := m.loc == l

/-- Whether the head of the command FIFO may be taken: the pseudo-channel is not fenced, and not in the first step of a rescue, in which
nothing already under way executes (R238, R239). -/
def Pc.mayTake (pc : Pc) : Bool := pc.state != .fenced && !(pc.state == .rescue && pc.rescueStep ≤ 1)

/-- The head of the command FIFO enters its queue: a write to a block with a queued write replaces that write's block; a read of one is
served from it, if the return FIFO has a place (R38, R39); otherwise an entry is taken, if one is free. None where nothing moves. -/
def Chip.takeHead (c : Chip) (k p : Nat) : Option Chip :=
  let pc := c.pc k p
  match pc.fifo with
  | [] => none
  | m :: rest =>
    let m := { m with seq := pc.seq }
    let put (f : Pc → Pc) : Chip := (c.onPc k p (fun pc => f { pc with fifo := rest, seq := pc.seq + 1 })).accessQueued m
    if m.write then
      if pc.wq.any (·.isFor m.loc) then
        some (put (fun pc => { pc with
          wq := pc.wq.map (fun w => if w.isFor m.loc then { w with data := m.data, poison := m.poison, home := m.home, origin := m.origin } else w) }))
      else if pc.wq.length < 32 then some (put (fun pc => { pc with wq := pc.wq ++ [m] }))
      else none
    else
      match pc.wq.find? (·.isFor m.loc) with
      | some w =>
        let (d, q) := storedForm m.loc w.poison w.data.toNat
        if 16 ≤ pc.bursts.length then none
        else some ((put (fun pc => { pc with bursts := pc.bursts ++ [⟨m, d, q, true, false⟩] })).onChc k
          (fun h => { h with cntFwd := bump32 h.cntFwd }))
      | none => if pc.rq.length < 32 then some (put (fun pc => { pc with rq := pc.rq ++ [m] })) else none

/-- A command at the head of the command FIFO enters its queue, and the place it frees is filled (R363). -/
def Chip.enqueue (c : Chip) (k p : Nat) : Chip :=
  if !c.live || !(c.pc k p).mayTake then c
  else
    match c.takeHead k p with
    | some c' => c'.fillFifo k p 16
    | none => c

/-! ### The scheduler (R272, R273, R359, R362) -/

/-- The MRWs of pending changes that have still to issue, in order (R399). -/
def Pc.mrws (pc : Pc) : List (Nat × Nat) := pc.changes.flatMap (·.todo)

/-- The first MRW to issue has issued. MRWs that change no setting wait for no REFab. -/
def dropMrw : List Change → List Change
  | [] => []
  | x :: t =>
    if x.todo.isEmpty then x :: dropMrw t
    else if x.set.isEmpty && x.todo.length == 1 then t
    else { x with todo := x.todo.drop 1 } :: t

/-- MRWs of mode registers that hold no setting are to issue, in order (R400, R401). -/
def Pc.pendMrws (pc : Pc) (ms : List (Nat × Nat)) : Pc := if ms.isEmpty then pc else { pc with changes := pc.changes ++ [⟨[], ms⟩] }

/-- Commands of the write direction: queued writes and the MRWs that have still to issue (R399, R401). R401 schedules an MRW as a WR: that it
counts towards the thresholds of R273, though it is no entry of the write queue, is a DESIGN CHOICE, log entry 55. -/
def Pc.writesQueued (pc : Pc) : Nat := pc.wq.length + pc.mrws.length

/-- Whether nothing of the read direction waits: no queued read and no MRR (R401). -/
def Pc.noReads (pc : Pc) : Bool := pc.rq.isEmpty && pc.mrrs.isEmpty

/-- The bus mode after the thresholds of R273. -/
def Pc.nextMode (pc : Pc) : Bool :=
  let n := pc.writesQueued
  if pc.wmode then !((n ≤ 8 && !pc.noReads) || n == 0)
  else 24 ≤ n || (pc.noReads && n != 0)

/-- Whether commands of the queues may issue now: no hold of R272 is in force and the work of a rescue's first step is over
(R239, R272, R369, R370, R375, R387, R390). -/
def Pc.mayIssue (pc : Pc) : Bool :=
  (pc.state == .normal || (pc.state == .rescue && 2 ≤ pc.rescueStep)) &&
  !pc.inRef && !pc.paying && pc.urgent == 0 && !pc.replaying

/-- Whether the core die of a pseudo-channel is driven at all: it has been trained or trains, and is not fenced (R373). -/
def Pc.driven (pc : Pc) : Bool := pc.state != .untrained && pc.state != .fenced

/-- A queued command with its direction and its place in its queue. -/
structure Cand where
  write : Bool
  idx   : Nat
  cmd   : Cmd
  deriving DecidableEq, Repr

/-- Insert a queued command in the order in which the queues took them. -/
def insertCand (x : Cand) : List Cand → List Cand
  | [] => [x]
  | y :: t => if x.cmd.seq < y.cmd.seq then x :: y :: t else y :: insertCand x t

/-- The queued commands that may be selected, in the order of their entry: a write does not pass an older read of its block (R362). Under
R361 every read queued for a block with a queued write is older than that write. -/
def Pc.cands (pc : Pc) : List Cand :=
  (((numbered 0 pc.wq).filter (fun (_, m) => !pc.rq.any (·.isFor m.loc))).map (fun (i, m) => (⟨true, i, m⟩ : Cand))).foldr insertCand
    ((numbered 0 pc.rq).map (fun (i, m) => ⟨false, i, m⟩))

/-- A queued command is AGED (R264). -/
def Cmd.isAged (m : Cmd) : Bool := m.level == 2 || 125 ≤ m.age

/-- Whether a command's row is open. -/
def Pc.rowOpen (pc : Pc) (m : Cmd) : Bool := match pc.openRows.look m.loc.b with | some (r, _) => r == m.loc.r | none => false

/-- What the scheduler selects. -/
inductive Pick where
  | none
  | mrw
  | mrr
  | cmd (x : Cand)
  deriving DecidableEq, Repr

/-- A command's age for selection among commands of one level: the first in the order of entry counts as the oldest of those with the
same AGE (R264, R272). -/
def Cmd.rule3Key (pc : Pc) (m : Cmd) : Nat :=
  (if m.isAged then 2 else m.level) * 512 + flagNat (pc.rowOpen m) * 256 + m.age

/-- Rule 2 and rule 3 of R272 over the queued commands `cs`. `busy` lists the banks of which no command may issue in this
cycle: an interval of R357 keeps it, or, behind an AGED command that waits for such an interval, it would make that command issue later.
An MRW or MRR, which is scheduled as a WR or RD of any bank (R401), issues while some bank is not among them. `kept` lists the banks whose
open row stays for a group (R225, R234, R464): rule 3 takes no command for another row of them, rule 2 does (R359; log entry 51). The flag
tells the bus mode. R401 does not rank a pending MRW or MRR within rule 3: that it goes before the queued commands of its direction is a
DESIGN CHOICE, log entry 55. -/
def Pc.pickOf (pc : Pc) (cs : List Cand) (kept busy : List Nat) : Bool × Pick :=
  let free (x : Cand) : Bool := !busy.contains x.cmd.loc.b
  let aged := bestBy (fun x => x.cmd.age) (cs.filter (fun x => x.cmd.isAged))
  let mode := match aged with
    | some x => x.write
    | none => pc.nextMode
  let rule3 : Pick :=
    if (if mode then !pc.mrws.isEmpty else !pc.mrrs.isEmpty) && (below 16).any (fun b => !busy.contains b) then
      if mode then .mrw else .mrr
    else
      match bestBy (fun x => x.cmd.rule3Key pc)
          (cs.filter (fun x => x.write == mode && free x && (pc.rowOpen x.cmd || !kept.contains x.cmd.loc.b))) with
      | some x => .cmd x
      | none => .none
  match aged with
  | some x => (mode, if free x then .cmd x else rule3)
  | none => (mode, rule3)

/-- Whether one of the groups that have taken a column command under the row open in a bank has commands to come, so that the row stays
open for them (R225, R234, R464). A queue that is full of commands for the bank's other rows keeps no row open (log entry 51). -/
def Chip.groupStays (c : Chip) (k p b : Nat) : Bool :=
  let pc := c.pc k p
  let full (q : List Cmd) : Bool := 32 ≤ q.length && q.all (fun m => m.loc.b == b && !pc.rowOpen m)
  (pc.grpOpen.get [] b).any (fun (s, g) =>
    let mine (m : Cmd) : Bool := m.home.c == s && m.grp == g
    pc.rq.any mine || pc.wq.any mine ||
    (pc.fifo.any mine || (c.slice s).out.any (fun m => mine m && c.goesTo k p m)) && !full pc.rq && !full pc.wq)

/-- The banks whose open row stays open for a group. -/
def Chip.keptBanks (c : Chip) (k p : Nat) : List Nat := ((c.pc k p).grpOpen.map (·.1)).filter (c.groupStays k p)

/-- What the scheduler of a pseudo-channel selects (R272). -/
def Chip.pick (c : Chip) (k p : Nat) (busy : List Nat) : Bool × Pick :=
  let pc := c.pc k p
  pc.pickOf pc.cands (c.keptBanks k p) busy

/-- Whether scrambling is off: in test mode with SCR_OFF (R424). -/
def Chip.scrOff (c : Chip) (k : Nat) : Bool := c.boot.testMode && natBit (c.chc k).calCfg.live 31

/-- Issue the next command of a selected access: PRE for another open row of its bank, ACT for a closed one, else its RD or
WR, which leaves its queue (R272, R359). The block of a WR goes out encoded and scrambled, with the lanes of erased symbols low (R413, R424,
R446). -/
def Chip.issueAccess (c : Chip) (k p : Nat) (x : Cand) : Chip :=
  let pc := c.pc k p
  let m := x.cmd
  match pc.openRows.look m.loc.b with
  | none =>
    let now := c.keep
    c.onChc k (fun h => (h.activate p m.loc.b m.loc.r (some m)).onPc p (fun pc => { pc with actAt := some now }))
  | some (r, _) =>
    if r != m.loc.r then c.onChc k (·.precharge p m.loc.b)
    else
      let take (pc : Pc) : Pc := { pc with
        wq := if m.write then listDel pc.wq x.idx else pc.wq
        rq := if m.write then pc.rq else listDel pc.rq x.idx
        grpOpen := if m.grp = 0 || (pc.grpOpen.get [] m.loc.b).contains (m.home.c, m.grp) then pc.grpOpen
          else pc.grpOpen.put m.loc.b (pc.grpOpen.get [] m.loc.b ++ [(m.home.c, m.grp)]) }
      if m.write then
        let (d, q) := storedForm m.loc m.poison m.data.toNat
        let (sd, sq) := scrambleMask pc (c.scrOff k) m.loc
        let (d, q) := lanesLow pc.erased (d ^^^ sd) (q ^^^ sq)
        c.onChc k (fun h => (h.onPc p take).issue p (.wr m.loc.b m.loc.j) (some m) d q)
      else c.onChc k (fun h => (h.onPc p take).issue p (.rd m.loc.b m.loc.j) (some m) 0 0)

/-- The first of the MRWs that have still to issue does (R399, R401). -/
def Chc.issueMrw (h : Chc) (p : Nat) : Chc :=
  match (h.pc p).mrws with
  | (mr, v) :: _ => (h.onPc p (fun pc => { pc with changes := dropMrw pc.changes })).issue p (.mrw mr v) none v 0
  | [] => h

/-- The first of the MRRs that have still to issue does (R401). -/
def Chc.issueMrr (h : Chc) (p : Nat) : Chc :=
  match (h.pc p).mrrs with
  | m :: rest => (h.onPc p (fun pc => { pc with mrrs := rest })).issue p (.mrr m) none 0 0
  | [] => h

/-- A training procedure's own mode-register commands issue in their order, writes before reads (R400, R401); the MRWs of a change of
settings wait for the end of the hold (R390). -/
def Chc.issueMode (h : Chc) (p : Nat) : Chc :=
  let pc := h.pc p
  let held := pc.changes.filter (fun x => !x.set.isEmpty)
  let mine := pc.changes.filter (·.set.isEmpty)
  match mine.flatMap (·.todo) with
  | (mr, v) :: _ => (h.onPc p (fun pc => { pc with changes := held ++ dropMrw mine })).issue p (.mrw mr v) none v 0
  | [] => h.issueMrr p

/-- The scheduler of a pseudo-channel selects and issues a command (R272). -/
def Chip.schedule (c : Chip) (k p : Nat) (busy : List Nat) : Chip :=
  -- while ACT_GAP runs, no bank opens
  let busy := if c.actHeld k p then busy ++ (below 16).filter (fun b => !(c.pc k p).openRows.has b) else busy
  let (mode, pk) := c.pick k p busy
  let c := c.onPc k p (fun pc => { pc with wmode := mode })
  match pk with
  | .none => c
  | .mrw => c.onChc k (·.issueMrw p)
  | .mrr => c.onChc k (·.issueMrr p)
  | .cmd x => c.issueAccess k p x

/-! ### What a replay issues (R387) -/

/-- The bank of a command that names one. -/
def DramCmd.bank : DramCmd → Option Nat
  | .act b _ _ | .pre b | .rd b _ | .wr b _ => some b
  | .prea | .refab | .clrAlert | .mrw .. | .mrr _ => none

/-- Whether the intervals of R357 let a command issue now. -/
def DramCmd.mayGo (m : DramCmd) (busy : List Nat) : Bool := m.bank.elim true (fun b => !busy.contains b)

/-- The head of what a replay has to issue before it reissues: CLR_ALERT, and once the die has taken it PREA and the re-opens. -/
def Chc.replayHead (h : Chc) (p : Nat) (busy : List Nat) : Chc :=
  let pc := h.pc p
  match pc.script with
  | [] => h
  | m :: rest =>
    if (pc.alert && m != .clrAlert) || !m.mayGo busy then h
    else
      let h := h.onPc p (fun pc => { pc with script := rest })
      match m with
      | .act b r _ => h.reopen p b r
      | m => h.issueAux p m

/-- The first of the entries of pseudo-channel `p` that a replay retains issues again, as it first did (R387 step 5). A REFab issues once no
tRFC runs, and starts one. -/
def Chc.reissue (h : Chc) (p : Nat) (busy : List Nat) : Chc :=
  match (numbered 0 h.retry).find? (fun x => x.2.p == p && x.2.wait) with
  | none => h
  | some (i, e) =>
    if (h.pc p).inRef || !e.cmd.mayGo busy then h
    else
      { (h.onPc p (fun pc => { (pc.drive e.cmd) with inRef := e.cmd == .refab })) with
        retry := listSet h.retry i { e with wait := false } }

/-- Whether a pseudo-channel is in a training procedure, so that MODE.TRAIN is 1 and an ALERT starts no replay (R402, R720). -/
def Pc.trains (pc : Pc) : Bool :=
  pc.state == .training || pc.state == .retrainHold || (pc.state == .rescue && pc.rescueStep == 1)

/-- One cycle of a pseudo-channel's command buses (R272, R351, R384, R387): a command of a replay, of a training procedure or of the
scheduler, or NOP. A replay stands still in a retraining hold (R390) and in the fault state (R584), but for CLR_ALERT, without which the die
would ignore the REFabs that go on there (R373, R386). -/
def Chip.dramIssue (c : Chip) (k p : Nat) (busy : List Nat) : Chip :=
  if !(c.on && (c.pc k p).driven) then c
  else
    let c := c.onPc k p Pc.driveNop
    let h := c.chc k
    let pc := c.pc k p
    let room := decide (h.retry.length < 64)
    if !pc.script.isEmpty then
      if room && (pc.alert && pc.script.head? == some .clrAlert || c.live && !(h.held && pc.replaying)) then c.onChc k (·.replayHead p busy)
      else c
    else if !c.live || pc.alert then c
    else if pc.replaying then (if h.held then c else c.onChc k (·.reissue p busy))
    else if pc.trains then (if room then c.onChc k (·.issueMode p) else c)
    else if pc.mayIssue && !h.held && room then c.schedule k p busy
    else c

/-- IDLE_CLOSE in force. -/
def Chc.idleClose (h : Chc) : Nat := natBits h.schedCfg.live 0 8

/-- The row of a bank that no queued command needs has been idle for IDLE_CLOSE cycles and is closed (R359). -/
def Chip.idleClose (c : Chip) (k p b : Nat) : Chip :=
  let pc := c.pc k p
  match pc.openRows.look b with
  | none => c
  | some (r, _) =>
    let needed := (pc.rq ++ pc.wq).any (fun m => m.loc.b == b && m.loc.r == r) || c.groupStays k p b
    if c.live && pc.mayIssue && !(c.chc k).held && !needed && (c.chc k).idleClose != 0xFF && (c.chc k).retry.length < 64 then
      c.onChc k (·.precharge p b)
    else c

/-! ### Retiring (R385) -/

/-- The core-die mode register that holds a write or command setting, if one does (R400); a setting's key is group * 64 + lane. -/
def mrOf (key : Nat) : Option Nat :=
  if 64 ≤ key && key < 128 then some (key - 64) else if 128 ≤ key then some (0x28 + (key - 128)) else none

/-- The entry of pseudo-channel `p` that retires next, with its place: the oldest command that is not kept back for a replay, those that
the replay itself issued before those that it reissues. -/
def Chc.firstRetry (h : Chc) (p : Nat) : Option (Nat × RetryEnt) :=
  match (numbered 0 h.retry).find? (fun x => x.2.p == p && x.2.aux) with
  | some x => some x
  | none => (numbered 0 h.retry).find? (fun x => x.2.p == p && !x.2.wait)

/-- One table laid over another. -/
def mergeTab {α : Type} (a b : Tab α) : Tab α := b.foldl (fun t (k, v) => t.put k v) a

/-- The pending changes at a REFab (R398, R399): each whose MRWs have all issued takes effect, in order; the others wait, less the settings
that a later change has just given. -/
def applyChanges : List Change → List Change → Tab Setting → List Change × Tab Setting
  | [], kept, f => (kept, f)
  | x :: t, kept, f =>
    if x.todo.isEmpty then
      applyChanges t (kept.map (fun y => { y with set := y.set.filter (fun e => !x.set.has e.1) })) (mergeTab f x.set)
    else applyChanges t (kept ++ [x]) f

/-- A REFab reaches the core die (R371, R380, R398, R399): its counter moves on, every bank closes, pending changes that are complete take
effect and so do the pending copies of no incomplete change. One of a hold, which issues while a replay retains commands, leaves the rows
that the replay opens again noted. -/
def Pc.refreshed (pc : Pc) (hold : Bool) : Pc :=
  let (cs, f) := applyChanges pc.changes [] pc.inForce
  { pc with
    refCtr := (pc.refCtr + 1) % 8195, modelRows := [], reopens := if hold then pc.reopens else []
    changes := cs, inForce := f, laneMux := pc.mrPend.get pc.laneMux 0x40
    mrPend := pc.mrPend.filter (fun m => cs.any (fun x => x.set.any (fun y => mrOf y.1 == some m.1))) }

/-- An MRW reaches the core die (R398, R400, R401): a register with two copies takes it as pending, and LANE_MUX, while the pseudo-channel
trains, as active. What MODE, USER_PAT and MON_OFS take they have from the event that sends the MRW (log entry 53); others ignore it. -/
def Pc.written (pc : Pc) (m v : Nat) : Pc :=
  if m ≤ 0x25 || (0x28 ≤ m && m ≤ 0x3E) || m = 0x40 then
    if pc.trains then { pc with laneMux := if m = 0x40 then v else pc.laneMux } else { pc with mrPend := pc.mrPend.put m v }
  else pc

/-- MODE is written: ERR_l counts from then on (R400). -/
def Pc.modeWritten (pc : Pc) : Pc := { pc with mrs := pc.mrs.filter (fun e => !(0x50 ≤ e.1 && e.1 ≤ 0x75)) }

/-- What a command does in the core die's command logic once it has passed parity (R353, R371, R380, R386, R398, R401). -/
def Pc.taken (pc : Pc) (e : RetryEnt) : Pc :=
  match e.cmd with
  | .act b r nr => { pc with modelRows := pc.modelRows.put b (r, nr) }
  | .pre b => { pc with modelRows := pc.modelRows.del b, reopens := pc.reopens.del b }
  | .prea => { pc with modelRows := [] }
  | .refab => pc.refreshed e.aux
  | .clrAlert => { pc with alert := false }
  | .mrw m v => pc.written m (onLanes v)
  | .rd .. | .wr .. | .mrr _ => pc

/-- The compare run in progress on pseudo-channel `p` is a command run, so that MODE.CAPTURE is 1: the core die checks no parity (R403). -/
def Chc.capture (h : Chc) (p : Nat) : Bool := h.trnBusy && natBits h.runCtl 4 1 == p && natBits h.runCtl 12 2 == 2

/-- A command that MODE.CAPTURE keeps from executing: its cycle's two words are placed in CMD_CAP (R400, R403). -/
def Pc.captured (pc : Pc) (m : DramCmd) : Pc :=
  { pc with mrs := ((pc.mrs.put 0x48 (natBits m.rowBits 0 16)).put 0x49 (natBits m.rowBits 16 10)).put 0x4A m.colBits }

/-- While MODE.CAPTURE is 1 a die executes MRRs of CMD_CAP and MRWs of MODE, and captures every other command (R403). -/
def DramCmd.executes : DramCmd → Bool
  | .mrw m _ => m == 0x41
  | .mrr m => 0x48 ≤ m && m ≤ 0x4A
  | .act .. | .pre _ | .prea | .refab | .clrAlert | .rd .. | .wr .. => false

/-- A WR has put a newer block over that of a read whose burst is on its way to the decoder: a correction of that burst is old (R45). -/
def Burst.behind (b : Burst) (m : Cmd) : Burst := { b with newer := b.newer || (b.access.loc == m.loc && m.origin != .rewrite) }

/-- The oldest command of a pseudo-channel retires: it has passed parity and acts in the core die; the block of a WR reaches DRAM, and the
burst of a RD is on its way to the decoder if the return FIFO has a place (R39, R364, R385). -/
def Chip.retire (c : Chip) (epoch : Nat) (mem : Memory) (k p : Nat) : Chip × Memory :=
  if !c.on then (c, mem)
  else
    match (c.chc k).firstRetry p with
    | none => (c, mem)
    | some (i, e) =>
      let acts (pc : Pc) : Pc := if (c.chc k).capture p && !e.cmd.executes then pc.captured e.cmd else pc.taken e
      let d := c.onChc k (fun h => { (h.onPc p acts) with retry := listDel h.retry i })
      match e.cmd, e.access with
      | .wr .., some m => (d.onPc k p (fun pc => { pc with bursts := pc.bursts.map (·.behind m) }), mem.putBlock epoch m.loc e.data e.check)
      | .rd .., some m =>
        if 16 ≤ (c.pc k p).bursts.length then (c, mem)
        else
          let (x, q) := mem.block epoch m.loc
          (d.onPc k p (fun pc => { pc with bursts := pc.bursts ++ [⟨m, x, q, false, false⟩] }), mem)
      | _, _ => (d, mem)

end Sys2Proof.Machine
end

