-- ==== Sys2Proof/Machine/Remap.lean ====
section
/-! DEFINITION. Remapping and retirement (R204-R209, R468-R475): entries, substitution, the retirement log, the queues of the
racking contexts; and the fencing of a pseudo-channel (R238, R373, R419 step 5). -/

namespace Sys2Proof.Machine

/-! ### Entries (R204, R205, R208) -/

/-- A free usable remap entry. -/
def Remap.free (r : Remap) : Bool := !r.valid && r.cause != 4

/-- Set remap entry `e`. -/
def Chip.setRemap (c : Chip) (e : Nat) (r : Remap) : Chip := { c with addr := { c.addr with remap := c.addr.remap.put e r } }
/-- Set row-remap entry `e`. -/
def Chip.setRowmap (c : Chip) (e : Nat) (r : RowMap) : Chip := { c with addr := { c.addr with rowmap := c.addr.rowmap.put e r } }

/-- Valid entries of reserve pseudo-channel `rp`, numbered 0-15 in the order of R204. -/
def Chip.usedIn (c : Chip) (rp : Nat) : Nat := ((below 16).filter (fun b => (c.remapE (16 * rp + b)).valid)).length

/-- The entry that RETIRE_BANK takes: the lowest free one of the reserve pseudo-channel with the most valid entries (R208). -/
def Chip.packEntry (c : Chip) : Option Nat :=
  let hasFree (rp : Nat) : Bool := (below 16).any (fun b => (c.remapE (16 * rp + b)).free)
  (bestBy c.usedIn ((below 16).filter hasFree)).bind
    (fun rp => ((below 16).map (fun b => 16 * rp + b)).find? (fun e => (c.remapE e).free))

/-- The banks of a pseudo-channel that hold no valid entry. -/
def Chip.bareBanks (c : Chip) (k p : Nat) : List Nat :=
  (below 16).filter (fun b => (c.entryOf (32 * k + 16 * p + b)).isNone)

/-- The entries that a substitution takes, one for each bank that needs one: a whole reserve pseudo-channel if one is free, else
the lowest free ones, else none (R206). -/
def Chip.subEntries (c : Chip) (banks : List Nat) : List (Nat × Nat) :=
  match (below 16).find? (fun rp => (below 16).all (fun b => (c.remapE (16 * rp + b)).free)) with
  | some rp => banks.map (fun b => (b, 16 * rp + b))
  | none =>
    let es := (below 256).filter (fun e => (c.remapE e).free)
    if es.length < banks.length then [] else List.zip banks es

/-- Substitute a data pseudo-channel (R206): the state and the banks that took an entry, each with its entry. A slice-dead
channel is not substituted (R544). -/
def Chip.substitute (c : Chip) (k p cause : Nat) (racking : Bool) : Chip × List (Nat × Nat) :=
  let es := if c.sliceDead k then [] else c.subEntries (c.bareBanks k p)
  (es.foldl (fun c (b, e) => c.setRemap e { valid := true, cause := cause, racking := racking, bank := 32 * k + 16 * p + b }) c, es)

/-! ### The retirement log (R472, R632, R633) -/

/-- An item of the retirement log: state 0 NONE, 1 STARTED, 2 DONE, 3 UNUSABLE, and the row or the bank. -/
def logItem (st v : Nat) : Nat := st * 2 ^ 30 + v

/-- Item number of a row entry and of a bank entry in the log's image. -/
def rowItem (e : Nat) : Nat := e
def bankItem (e : Nat) : Nat := 32772 + e

/-- Write an item of the retirement log: NVM's image changes and the item's slot is queued. A failed NVM takes nothing. -/
def Chip.logRetire (c : Chip) (item v : Nat) (what : NvmFor) : Chip :=
  if !c.nvmOpen then c
  else { c with nvm := Nvm.kick { c.nvm with
    retire := c.nvm.retire.put item v
    retireQ := c.nvm.retireQ ++ [{ area := 6, slot := some (item / 12), body := [], what := what }] } }

/-! ### The racking queues (R475) -/

/-- Queue a racking on its die: a rescue's before every retirement, a retirement last. -/
def Chip.queueRack (c : Chip) (j : RackJob) : Chip :=
  let now := c.keep
  c.onDie (j.bank / 128) (fun d => { d with
    rackSince := if d.cur.isNone && d.queue.isEmpty then now else d.rackSince
    queue :=
      if j.kind == .rescue then
        d.queue.filter (fun x => x.kind == .rescue) ++ [j] ++ d.queue.filter (fun x => x.kind != .rescue)
      else d.queue ++ [j] })

/-- The row that a racking has reached, as the host sees it. -/
def RackJob.rowLoc (j : RackJob) : RowLoc := ⟨j.bank / 32, (j.bank / 16) % 2, j.bank % 16, j.row⟩

/-- The place to which a racking writes block `b` of its row (R477). -/
def RackJob.target (j : RackJob) (b : Nat) : Phys :=
  match j.kind with
  | .row => ⟨j.bank / 32, (j.bank / 16) % 2, j.bank % 16, 49152 + j.entry % 16, b⟩
  | _ => let (k, p, bk) := entryPlace j.entry; ⟨k, p, bk, j.row, b⟩

/-- The racking context of die `d` writes block `b` of its row to the target, in the poisoned form where the block is lost (R476): an access
of class 7 under a line lock, so AGED (R298). -/
def Chip.rackWrite (c : Chip) (d b : Nat) (data : Block) (lost : Bool) : Chip :=
  match (c.die d).cur with
  | none => c
  | some j =>
    let c := if lost then c.onDie d (fun x => { x with cur := x.cur.map (fun y => { y with lost := y.lost + 1 }) }) else c
    c.sendCmd { write := true, loc := j.target b, home := j.rowLoc, data := if lost then 0 else data, poison := lost, origin := .rack d
                level := 2, age := 0, cls := some 7, born := c.keep }

/-- Retirements that a die's racking context holds pending (R469). -/
def DieCtx.pending (d : DieCtx) : Nat := ((d.cur.toList ++ d.queue).filter (fun j => j.kind != .rescue)).length

/-- Whether a racking copies onto a remap entry's reserve bank. -/
def RackJob.onEntry (j : RackJob) (e : Nat) : Bool := j.kind != .row && j.entry == e

/-- A read of die `d`'s racking, as it stands once that racking has ended. -/
def Cmd.orphan (m : Cmd) (d : Nat) : Cmd := if m.origin == .rackRead d then { m with origin := .rackGone } else m

/-- The reads of die `d`'s racking that are on their way in the pseudo-channel of its row come back to nobody. -/
def Chc.orphan (h : Chc) (p d : Nat) : Chc :=
  { (h.onPc p (fun pc => { pc with
      fifo := pc.fifo.map (·.orphan d), rq := pc.rq.map (·.orphan d)
      bursts := pc.bursts.map (fun b => { b with access := b.access.orphan d }) })) with
    retry := h.retry.map (fun e => if e.p = p then { e with access := e.access.map (·.orphan d) } else e) }

/-- The racking that die `d` works on ends before its time (R205, R421, R480): its row lock is given back or no longer asked for, the accesses
that its slice still holds are dropped, and the reads that are out come back to nobody. -/
def Chip.endRackEarly (c : Chip) (d : Nat) (j : RackJob) : Chip :=
  ((c.onDie d (fun x => { x with cur := none, rowOut := none, lockWait := none })).onSlice (j.bank / 32) (fun s =>
    { (s.unlock (.rack d)) with out := s.out.filter (fun m => m.origin != .rack d && m.origin != .rackRead d) })).onChc (j.bank / 32)
    (·.orphan ((j.bank / 16) % 2) d)

/-- End the rackings of every die that satisfy `p`: those that wait, and the one in progress. -/
def Chip.dropRacks (c : Chip) (p : RackJob → Bool) : Chip :=
  (below 16).foldl (fun c d =>
    let x := c.die d
    let c := if x.queue.any p then c.onDie d (fun x => { x with queue := x.queue.filter (fun j => !p j) }) else c
    match x.cur with
    | some j => if p j then c.endRackEarly d j else c
    | none => c) c

/-- A RETIRE_REFUSED record (R460, R474). -/
def Chip.refusedRec (c : Chip) (row : Bool) (bank r reason : Nat) : Chip :=
  c.ringRec { type := 0x05, cls := 0, source := 2, bank := bank, row := if row then r else 0,
              arg0 := if row then 0 else 1, arg1 := reason }

/-- NVM fails in the field: no record is written from here on, and a retirement whose STARTED record had not been written is
withdrawn (R474, R543). -/
def Chip.nvmFails (c : Chip) : Chip :=
  let c := { c with
    nvm := { c.nvm with failed := true, dirQ := [], faultQ := [], retireQ := [], journalQ := [], userQ := [], flushQ := [], cur := none,
                        cntPend := 0 }
    boot := { c.boot with nvmFail := true } }
  let gone := (below 16).flatMap (fun d => ((c.die d).cur.toList ++ (c.die d).queue).filter (fun j => !j.logged))
  let c := c.dropRacks (fun j => !j.logged)
  gone.foldl (fun c j =>
    let c := match j.kind with
      | .row => c.setRowmap j.entry {}
      | _ => c.setRemap j.entry {}
    c.refusedRec (j.kind == .row) j.bank j.row 0x11) c

/-- The entry that serves a row already retired, or will: the one taken last of those whose racking goes on or waits, else the one in
effect (R470). -/
def Chip.prevEntry (c : Chip) (bank row : Nat) : Option Nat :=
  let d := c.die (bank / 128)
  match ((d.cur.toList ++ d.queue).filter (fun j => j.kind == .row && j.bank == bank && j.row == row)).getLast? with
  | some j => some j.entry
  | none => ((below 16).map (fun i => 16 * bank + i)).find? (fun e => let r := c.rowmapE e; r.valid && !r.unusable && r.row == row)

/-! ### Reserve banks that become unusable (R205) -/

/-- A retired bank takes another entry at once, with nothing to carry over (R205). -/
def Chip.replaceRetired (c : Chip) (bank old : Nat) (field : Bool) : Chip :=
  match c.packEntry with
  | some e =>
    let c := c.setRemap e { valid := true, cause := 3, bank := bank }
    let c := c.logRetire (bankItem old) 0 .nothing
    let c := c.logRetire (bankItem e) (logItem 2 bank) .nothing
    c.ringRec { type := 0x04, cls := 0, source := 2, bank := bank, arg0 := 1 }
  | none =>
    if field then { c with addr := { c.addr with left := c.addr.left.filter (· != bank) ++ [bank] } } else c

/-! ### The end of a scrub pass (R464-R467) -/

/-- The row a scrub pass has reached. -/
def DieCtx.scrubAt (x : DieCtx) (d : Nat) : RowLoc := ⟨4 * d + x.scrubLc, x.scrubP, x.scrubB, x.scrubRow⟩

/-- Go on to the next row in the order of R464. -/
def DieCtx.scrubNext (x : DieCtx) : DieCtx :=
  if x.scrubB < 15 then { x with scrubB := x.scrubB + 1 }
  else if x.scrubP < 1 then { x with scrubB := 0, scrubP := 1 }
  else if x.scrubLc < 3 then { x with scrubB := 0, scrubP := 0, scrubLc := x.scrubLc + 1 }
  else { x with scrubB := 0, scrubP := 0, scrubLc := 0, scrubRow := x.scrubRow + 1 }

/-- Whether a pass has no row left to read. -/
def DieCtx.scrubEnded (x : DieCtx) : Bool := x.scrubOn && 49152 ≤ x.scrubRow

/-- A pass starts (R465). -/
def DieCtx.startPass (x : DieCtx) (period now : Nat) : DieCtx :=
  { x with scrubOn := true, scrubRow := 0, scrubLc := 0, scrubP := 0, scrubB := 0, scrubPeriod := period
           passStart := now, passCorr := 0, passLost := 0 }

/-- PERIOD of a die's scrub in force. -/
def Chip.scrubPeriod (c : Chip) (d : Nat) : Nat := natBits (c.press d).scrubCfg.live 0 8

/-- A pass ends (R467): its SCRUB_PASS record is written and PASSES rises. The next one starts, unless PERIOD is 0 (R465). -/
def Chip.endPass (c : Chip) (d : Nat) : Chip :=
  let x := c.die d
  let sat (n : Nat) : Nat := min max16 n
  let c := c.ringRec { type := 0x07, cls := 0, source := fltPrs d, arg0 := d, arg1 := (c.keep - x.passStart) / 25000000
                       arg2 := fld 16 16 (sat x.passCorr) + fld 0 16 (sat x.passLost) }
  let period := c.scrubPeriod d
  let now := c.keep
  c.onDie d (fun x =>
    let x := { x with passes := min 0xFF (x.passes + 1), scrubOn := false }
    if period = 0 then x else x.startPass period now)

/-- A pass whose last row has been read in full ends at once. -/
def Chip.scrubOver (c : Chip) (d : Nat) : Chip := if (c.die d).scrubEnded && (c.die d).scrubOut == 0 then c.endPass d else c

/-- A read of a scrub row is back. -/
def Chip.scrubBack (c : Chip) (d : Nat) : Chip := (c.onDie d (fun x => { x with scrubOut := x.scrubOut - 1 })).scrubOver d

/-! ### Accesses that cannot be sent, and a fence -/

/-- The state an access meets when its pseudo-channel is fenced: a read returns as a lost block, one of a racking row is written poisoned to
its target (R421, R476), and a write is dropped (R238). -/
def Chip.endLost (c : Chip) (st : Status) (m : Cmd) : Chip :=
  if m.write then c
  else
    match m.origin with
    | .fill s | .opRead s _ _ =>
      c.onSlice s (fun sl => { sl with ret := sl.ret ++ [⟨m.origin, m.home, m.loc.j, st, 0⟩] })
    | .rackRead d => c.rackWrite d m.loc.j 0 true
    | .scrub d => c.scrubBack d
    | _ => c

/-- The outcome that keeps an access a slice holds from being sent: CAPACITY_LOST where nothing serves its row, POISON where a racking has
still to reach the row on a fenced pseudo-channel (R238, R421). None where it can be sent. -/
def Chip.unsendable (c : Chip) (m : Cmd) : Option Status :=
  let l := c.placeOf m
  if !c.served (bankIndex m.home) then some .capacityLost else if c.fenced l.k l.p then some .poison else none

/-- An access that cannot be sent ends: its write counts as queued, with the status of its block changed where nothing serves it, and its
read returns as lost (R238). -/
def Chip.endUnsent (c : Chip) (st : Status) (m : Cmd) : Chip :=
  match m.origin with
  | .opWrite s i ix => (c.onSlice s (·.onBlk i ix (fun b => { b with status := if st == .poison then b.status else st }))).accessQueued m
  | .evict .. | .rack _ => c.accessQueued m
  | _ => c.endLost st m

/-- The accesses that slice `s` holds are looked at again after a change of the remap entries: those that can be sent stay (R238). -/
def Chip.sift (c : Chip) (s : Nat) : Chip :=
  let ms := (c.slice s).out
  if ms.isEmpty then c
  else
    let c' := c.onSlice s (fun sl => { sl with out := sl.out.filter (fun m => (c.unsendable m).isNone) })
    ms.foldl (fun c'' m => match c.unsendable m with | some st => c''.endUnsent st m | none => c'') c'

/-- Every slice looks at the accesses it holds again, and they go on to where their rows stand now. -/
def Chip.siftAll (c : Chip) : Chip := (below 64).foldl (fun c s => (c.sift s).pushOut s) c

/-- The commands of a FIFO go back to the front of their slices' accesses, in their order: the accesses of a pseudo-channel that is fenced
(R238; log entry 50). -/
def Chip.pullBack (c : Chip) (k p : Nat) : Chip :=
  let ms := (c.pc k p).fifo
  ms.reverse.foldl (fun c m => c.onSlice m.home.c (fun sl => { sl with out := m :: sl.out })) (c.onPc k p (fun pc => { pc with fifo := [] }))

/-- Every command of a pseudo-channel in its queues and in the retry buffer ends, and none issues (R238, R373). -/
def Chip.endQueues (c : Chip) (k p : Nat) : Chip :=
  let pc := c.pc k p
  let held := (List.filter (fun (e : RetryEnt) => e.p == p) (c.chc k).retry).filterMap (·.access)
  let reads := held.filter (fun m => !m.write) ++ pc.rq
  let c := c.onChc k (fun h => { h with retry := List.filter (fun (e : RetryEnt) => e.p != p) h.retry })
  let c := c.onPc k p (fun pc => { pc with rq := [], wq := [], openRows := [], grpOpen := [], wmode := false })
  reads.foldl (fun c m => c.endLost .poison m) c

/-- A pseudo-channel that is fenced: nothing of its refresh, replay or calibration goes on (R373). -/
def Pc.fence (pc : Pc) : Pc :=
  { pc with
    state := .fenced, timerOn := false, owed := 0, urgent := 0, payLeft := 0, paying := false, inRef := false
    replaying := false, fails := 0, rescueStep := 0, rescueWb := false, changes := [], mrPend := [], mrrs := []
    alert := false, script := [], modelRows := [], reopens := [], grpOpen := [], cal := none }

/-- The ones density of the lane farthest from one half in a pass, in units of 1/256 (CHC_CAL_STATUS). -/
def CalPass.density (x : CalPass) : Option Nat :=
  let ns := (x.rd.wins ++ x.wr.wins).flatMap (fun w => w.map (fun e => e.2.2.2))
  let far (n : Nat) : Nat := if n < 524288 then 524288 - n else n - 524288
  (bestBy far ns).map (fun n => min 255 ((n + 2048) / 4096))

/-- A pass ends with an outcome (R441); the density shown is of the same pass. Where no window of it has ended, the density is a free
value. -/
def Chip.endCal (c : Chip) (k p : Nat) (x : CalPass) (out : Nat) : Chip :=
  let (n, c) := if x.density.isNone then c.drawFree else (0, c)
  c.onPc k p (fun pc => { pc with
    cal := none, outcome := out
    dens := match x.density with | some d => d | none => Config.noDensity n % 256 })

/-- Fence a pseudo-channel: a calibration pass that runs on it ends skipped, with outcome 5 (R373, R425). -/
def Chip.fencePc (c : Chip) (k p : Nat) : Chip :=
  (match (c.pc k p).cal with
   | some x => c.endCal k p x 5
   | none => c).onPc k p Pc.fence

/-- What slice `s` discards of the rows that `lost` names: its lines, and the blocks in eviction buffers with the writes it holds for them;
what was dirty is counted and recorded once (R238). Blocks of an eviction buffer that the write queue has taken already are not among those
discarded: R234, R238 and R260 leave open whether the buffer still holds them (DESIGN CHOICE, log entry 55). -/
def Chip.discardRows (c : Chip) (s : Nat) (lost : RowLoc → Bool) : Chip :=
  let sl := c.slice s
  let gone (e : Evb) : Bool := lost ⟨s, e.p, e.b, e.r⟩
  let ls := List.filter (fun (e : Nat × Line) => lost (e.2.rowLoc s)) sl.lines
  let bufs := List.filter (fun (e : Nat × Evb) => gone e.2) sl.evbs
  let n := (ls.map (fun e => e.2.dirtyBlocks.length)).foldl (· + ·) 0 +
    (bufs.map (fun e => (List.filter (fun (b : Nat × Block) => !e.2.sent.contains b.1) e.2.blocks).length)).foldl (· + ·) 0
  let ofGone (m : Cmd) : Bool := match m.origin with | .evict _ i => bufs.any (fun e => e.1 == i) | _ => false
  if ls.isEmpty && bufs.isEmpty then c
  else
    let c := c.onSlice s (fun sl => { sl with
      lines := List.filter (fun (e : Nat × Line) => !lost (e.2.rowLoc s)) sl.lines
      evbs := List.filter (fun (e : Nat × Evb) => !gone e.2) sl.evbs
      out := sl.out.filter (fun m => !ofGone m)
      cntDiscard := satAdd max32 sl.cntDiscard n })
    if n = 0 then c else c.ringRec { type := 0x09, cls := 2, source := fltDct s, arg0 := n }

/-- Whether a row stands on a pseudo-channel. -/
def Chip.standsAt (c : Chip) (k p : Nat) (w : RowLoc) : Bool := let l := c.locate w 0; l.k == k && l.p == p

/-- Reserve pseudo-channels become unusable at one moment (R205, R422): their entries take cause 4. In the field the entries in use are
released, the rows on them are lost with the slices' lines of them (R209, R238), and their banks are placed again: fenced pseudo-channels
are substituted first, in ascending order (R207), and retired banks then take entries in the order of the entries they had; the manual
does not order the two (log entry 49). Until boot step 10 has been made, reloaded entries are left for it (R214, R548). -/
def Chip.reserveUnusable (c : Chip) (pcs : List (Nat × Nat)) : Chip :=
  let es := pcs.flatMap (fun (k, p) => (below 16).map (fun b => 32 * (k - 64) + 16 * p + b))
  if c.boot.st == .booting && c.boot.step ≤ 10 then
    let c := pcs.foldl (fun c (k, p) => (c.fencePc k p).endQueues k p) c
    (es.filter (fun e => !(c.remapE e).valid)).foldl (fun c e => c.setRemap e { cause := 4 }) c
  else
    let old := (es.filter (fun e => (c.remapE e).valid)).map (fun e => (e, c.remapE e))
    let lost (w : RowLoc) : Bool :=
      pcs.any (fun (k, p) => c.standsAt k p w) || old.any (fun (_, r) => r.cause == 3 && r.bank == bankIndex w)
    let c := pcs.foldl (fun c (k, p) => c.pullBack k p) c
    let c := (below 64).foldl (fun c s => c.discardRows s lost) c
    let c := pcs.foldl (fun c (k, p) => (c.fencePc k p).endQueues k p) c
    let c := es.foldl (fun c e => c.setRemap e { cause := 4 }) c
    let c := c.dropRacks (fun j => es.any (fun e => j.onEntry e))
    let again := (below 128).filter (fun i => c.fenced (i / 2) (i % 2) && old.any (fun (_, r) => r.bank / 16 == i))
    let c := again.foldl (fun c i => (c.substitute (i / 2) (i % 2) 2 false).1) c
    let c := old.foldl (fun c (e, r) =>
      if r.cause == 3 && !c.fenced (r.bank / 32) ((r.bank / 16) % 2) then c.replaceRetired r.bank e true else c) c
    c.siftAll

/-! ### Fencing a data pseudo-channel (R238) -/

/-- The slice discards what it holds of the rows that stand on a data pseudo-channel itself (R238). -/
def Chip.discardLines (c : Chip) (k p : Nat) : Chip := c.discardRows k (c.standsAt k p)

/-- A rescue is over: RACKING falls for the banks of the pseudo-channel that it has copied in full (R419, R421). -/
def Chip.endCopied (c : Chip) (k p : Nat) : Chip :=
  (below 16).foldl (fun c b =>
    match c.entryOf (32 * k + 16 * p + b) with
    | some e => if (c.remapE e).copied then c.setRemap e { c.remapE e with racking := false, copied := false } else c
    | none => c) c

/-- Whether a racking is for a bank of one of some data pseudo-channels. -/
def RackJob.ofPcs (j : RackJob) (pcs : List (Nat × Nat)) : Bool := pcs.contains (j.bank / 32, (j.bank / 16) % 2)

/-- Fence data pseudo-channels at once and then substitute them in order (R206, R207, R238). The rows that a rescue had racked
stay where they are, and its remaining rows will be written in the poisoned form (R421). The racking of a retired row of theirs ends: its
spare row is fenced with the row itself (R480). -/
def Chip.fenceAll (c : Chip) (pcs : List (Nat × Nat)) (cause : Nat) : Chip :=
  let c := pcs.foldl (fun c (k, p) => (c.pullBack k p).discardLines k p) c
  let c := c.dropRacks (fun j => j.kind == .row && j.ofPcs pcs)
  let c := pcs.foldl (fun c (k, p) => (c.fencePc k p).endQueues k p) c
  let c := (below 16).foldl (fun c d =>
    let f (j : RackJob) : RackJob :=
      if j.ofPcs pcs then { j with poison := true } else j
    if (c.die d).cur.isSome || !(c.die d).queue.isEmpty then
      c.onDie d (fun x => { x with cur := x.cur.map f, queue := x.queue.map f })
    else c) c
  (pcs.foldl (fun c (k, p) => ((c.endCopied k p).substitute k p cause false).1) c).siftAll

/-- The LANE_HIST record of a pseudo-channel (R630): its kind, and for repairs the lanes and symbol. -/
def Chip.laneHistPc (c : Chip) (kind k p w : Nat) : Chip :=
  c.journal areaLane (leBytes 1 kind ++ leBytes 1 k ++ leBytes 1 p ++ leBytes 1 0 ++ leBytes 4 w)

/-- The event and the records of a fence with lost blocks; `rows` were racked before it (R419, R481). -/
def Chip.fenceRec (c : Chip) (k p rows : Nat) : Chip :=
  let c := c.raise (fltChc k) ⟨2, 0x66, p⟩
  (c.ringRec { type := 0x0D, cls := 2, source := fltChc k, arg0 := p, arg1 := rows }).laneHistPc 5 k p 0

/-- Step 5 of the rescue table for pseudo-channels of data or of reserve controllers at one moment: those that are not fenced yet are, with
their blocks lost (R205, R207, R419). -/
def Chip.fenceLost (c : Chip) (pcs : List (Nat × Nat)) : Chip :=
  let pcs := pcs.filter (fun (k, p) => !c.fenced k p)
  let rows := pcs.map (fun (k, p) => (k, p, (c.pc k p).rescueRows))
  let data := pcs.filter (fun x => x.1 < 64)
  let reserve := pcs.filter (fun x => 64 ≤ x.1)
  let c := if data.isEmpty then c else c.fenceAll data 2
  let c := if reserve.isEmpty then c else c.reserveUnusable reserve
  rows.foldl (fun c (k, p, n) => c.fenceRec k p n) c

/-- Step 5 of the rescue table: the pseudo-channel is fenced with its blocks lost (R419). -/
def Chip.fenceStep5 (c : Chip) (k p : Nat) : Chip := c.fenceLost [(k, p)]

/-- A pseudo-channel is in a rescue that a command-path failure has ended: PC_FENCE follows (R421). -/
def Pc.fenceDue (pc : Pc) : Bool := pc.state == .rescue && 2 ≤ pc.rescueStep && pc.fails == 4

/-- PC_FENCE. -/
def Chip.pcFence (c : Chip) (k p : Nat) : Chip :=
  if c.live && (c.pc k p).fenceDue then c.fenceStep5 k p else c

end Sys2Proof.Machine
end

