-- ==== Sys2Proof/Machine/Rack.lean ====
section
/-! DEFINITION. Decoded reads (R452-R460), scrub (R464-R467) and racking (R475-R480). -/

namespace Sys2Proof.Machine

/-! ### Life counters (R626) -/

/-- Add one to a counter of NVM's image; counting stops while NVM has failed (R626). -/
def Chip.life (c : Chip) (i : Nat) : Chip :=
  if c.nvm.up && !c.nvm.failed && !c.flt.fault then
    { c with nvm := { c.nvm with counters := c.nvm.counters.upd 0 i bump32 } }
  else c

/-- Number of counter `i` of a range that starts at a slot of COUNTERS. -/
def lifeIx (slot i : Nat) : Nat := 12 * slot + i

/-! ### Decoding (R447, R448, R455) -/

/-- Errors on the lanes while a block travels: symbol numbers as CHC_LANE_MAP numbers them, and the bits that flip. -/
abbrev Noise := List (Fin 36 × BitVec 16)

/-- A block as the decoder receives it: the stored word with the errors of its lanes, without its scrambling (R424). -/
def Chip.receive (c : Chip) (k p : Nat) (l : Phys) (d q : Nat) (noise : Noise) : Nat × Nat :=
  let (sd, sq) := scrambleMask (c.pc k p) (c.scrOff k) l
  noise.foldl (fun (x : Nat × Nat) (n : Fin 36 × BitVec 16) =>
    if n.1.val < 32 then (x.1 ^^^ (n.2.toNat <<< (16 * n.1.val)), x.2)
    else (x.1, x.2 ^^^ (n.2.toNat <<< (16 * (n.1.val - 32))))) (d ^^^ sd, q ^^^ sq)

/-- Who a read is for (R481): 0 host, 1 press, 2 scrub, 3 racking, with the port and TAG of a host request. -/
def Chip.reader (c : Chip) (o : Origin) (home : RowLoc) (j : Nat) : Nat × Nat × Nat :=
  let ofOp (op : Option SliceOp) : Nat × Nat × Nat :=
    match op with
    | some ⟨.host r, _⟩ => (0, r.port, r.tag)
    | some ⟨.gran _, _⟩ => (1, 0, 0)
    | none => (0, 0, 0)
  match o with
  | .fill s => ofOp (((c.slice s).ops.find? (fun e => e.2.src.row == home && e.2.blocks.any (fun b => b.acc.blk == j))).map (·.2))
  | .opRead s i _ => ofOp ((c.slice s).ops.look i)
  | .scrub _ => (2, 0, 0)
  | _ => (3, 0, 0)

/-- The detail of a decode event (R594). -/
def eccDetail (l : Phys) : Nat := fld 8 1 l.p + fld 0 4 l.b

/-- Count a decode and raise its event and record (R455). -/
def Chip.countDecode (c : Chip) (l : Phys) (o : DecodeOut) (errs : List Nat) (who : Nat × Nat × Nat) (home : RowLoc) : Chip :=
  match o with
  | .corrected =>
    let chk := errs.all (· < 4)
    let last := fld 28 4 l.b + fld 24 4 l.j + fld 18 6 (symOfPos (errs.headD 0)) + fld 16 2 errs.length + fld 0 16 l.r
    let c := c.onChc l.k (fun h => { (h.onPc l.p (fun pc => { pc with eccLast := last })) with
      cntCorr := bump32 h.cntCorr, cntChkonly := if chk then bump32 h.cntChkonly else h.cntChkonly })
    (c.raise (fltChc l.k) ⟨1, 0x67, eccDetail l⟩).life (lifeIx 3104 (2 * (2 * l.k + l.p)))
  | .poisoned => c.onChc l.k (fun h => { h with cntPoisoned := bump32 h.cntPoisoned })
  | .misdirected =>
    let c := c.onChc l.k (fun h => { h with cntMisdir := bump32 h.cntMisdir })
    let c := c.raise (fltChc l.k) ⟨2, 0x68, eccDetail l⟩
    let a := virtSyms l false
    let c := c.ringRec { type := 0x02, cls := 2, source := fltChc l.k, port := who.2.1, tag := who.2.2, row := home.r
                         bank := bankIndex home, block := l.j, arg0 := who.1
                         arg1 := fld 16 16 (a.getD 0 0) + fld 0 16 (a.getD 1 0) }
    c.life (lifeIx 3104 (2 * (2 * l.k + l.p) + 1))
  | .undecodable => c.onChc l.k (fun h => { h with cntUndec := bump32 h.cntUndec })
  | .erased | .clean => c

/-- The status that a decode gives its block (R452). -/
def DecodeOut.status : DecodeOut → Status
  | .clean | .erased => .ok
  | .corrected => .okCorrected
  | .undecodable | .poisoned | .misdirected => .poison

/-! ### The row tracker (R459, R460) -/

/-- ROW_THRESH in force. -/
def Chc.rowThresh (h : Chc) : Nat := max 2 (natBits h.eccCfg.live 0 4)

/-- The tracker entry that takes a row: the one that names it, else the one of the lowest COUNT (R459). -/
def Pc.trackSlot (pc : Pc) (b r : Nat) : Nat × Nat :=
  match pc.track.find? (fun e => e.2.bank == b && e.2.row == r) with
  | some (i, t) => (i, t.count + 1)
  | none =>
    let cnt (i : Nat) : Nat := match pc.track.look i with | some t => t.count | none => 0
    ((bestBy (fun i => 15 - min 15 (cnt i)) (below 16)).getD 0, 1)

/-- A command packet of Ilael's own (R642). -/
def ownPacket (cmd : Nat) (params : List Byte) : MgtPkt :=
  { path := 4, bytes := leBytes 4 (cmd + params.length * 65536) ++ padBytes 28 [] ++ params }

/-- Ilael queues an order of its own (R460). -/
def Chip.selfOrder (c : Chip) (cmd : Nat) (params : List Byte) : Chip :=
  { c with mgt := { c.mgt with queue := c.mgt.queue ++ [ownPacket cmd params] } }

/-- A CORRECTED decode of a host, press or scrub read is tracked by the row's data pseudo-channel (R459, R460). -/
def Chip.track (c : Chip) (w : RowLoc) : Chip :=
  let h := c.chc w.c
  if h.bistFail || h.test == .failed then c
  else
    let pc := h.pc w.p
    let (i, n) := pc.trackSlot w.b w.r
    if n < h.rowThresh then c.onPc w.c w.p (fun pc => { pc with track := pc.track.put i ⟨w.b, w.r, n⟩ })
    else
      let c := c.onPc w.c w.p (fun pc => { pc with track := pc.track.del i })
      let c := c.raise (fltChc w.c) ⟨1, 0x69, fld 8 1 w.p + fld 0 4 w.b⟩
      let c := c.ringRec { type := 0x01, cls := 1, source := fltChc w.c, row := w.r, bank := bankIndex w, arg0 := n }
      if natBit h.eccCfg.live 4 then c.selfOrder 0x20 (leBytes 4 (bankIndex w) ++ leBytes 4 w.r) else c

/-! ### Rewrites (R453) -/

/-- Whether the operation that read a block will itself write it (R453). -/
def Chip.readerWrites (c : Chip) (o : Origin) (home : RowLoc) (j : Nat) : Bool :=
  match o with
  | .fill s => (c.slice s).ops.any (fun e => e.2.src.row == home &&
      e.2.blocks.any (fun b => b.acc.blk == j && b.wait == .fill) && e.2.src.kind != .rd)
  | .opRead s i _ => match (c.slice s).ops.look i with | some op => op.src.kind != .rd | none => false
  | _ => false

/-- A write that gives a block contents newer than those that a read on its way has met. -/
def Cmd.renews (m : Cmd) (home : RowLoc) (j : Nat) : Bool :=
  m.write && m.home == home && m.loc.j == j && (match m.origin with | .rewrite | .rack _ => false | _ => true)

/-- Whether a newer write of a block that was read at `l` is on its way to DRAM: held by the slice, in the crossing, queued or issued (R45). -/
def Chip.writeAhead (c : Chip) (home : RowLoc) (l : Phys) : Bool :=
  let pc := c.pc l.k l.p
  let new (m : Cmd) : Bool := m.renews home l.j
  (c.slice home.c).out.any new || pc.fifo.any new || pc.wq.any new ||
  (c.chc l.k).retry.any (fun (e : RetryEnt) => e.p == l.p && e.access.any new)

/-- Queue the rewrite of a corrected block to where it stands now, unless R453 drops it, or a newer write of the block has been formed since
the read: R45 lets no rewrite put the old contents over those (DEDUCED, log entry 56). The level of a rewrite that a host or press read
causes is a DESIGN CHOICE, log entry 55: IN_BUDGET, without a class, aged from its forming. -/
def Chip.rewrite (c : Chip) (o : Origin) (home : RowLoc) (l : Phys) (d : Block) : Chip :=
  let s := c.slice home.c
  let dirty := (s.lineOf home).elim false (fun e => natBit e.2.dirty l.j)
  if dirty || s.evbHas home l.j || c.readerWrites o home l.j || c.locate home l.j != l || c.writeAhead home l then c
  else
    -- a scrub rewrite belongs to class 7 and is charged to it (R279)
    let (c, lvl) := match o with
      | .scrub _ => (c.charge 7 1, (⟨c.level 7 false, some 7, c.keep⟩ : Lvl))
      | _ => (c, ⟨1, none, c.keep⟩)
    (c.sendWrite home l.j d false .rewrite lvl).onChc l.k (fun h => { h with cntRewrite := bump32 h.cntRewrite })

/-- A read burst of a pseudo-channel is complete and its block is decoded (R364, R447-R459). A block served from a queued
write carries no lane errors and no scrambling (R361). A block of a racking row is neither tracked nor rewritten: it goes on to the row's target
(R459, R476). -/
def Chip.burstReturn (c : Chip) (k p : Nat) (noise : Noise) : Chip :=
  match (c.pc k p).bursts with
  | [] => c
  | b :: rest =>
    if !c.live then c
    else
      let m := b.access
      let l := m.loc
      let (d, q) := if b.fwd then (b.data, b.check) else c.receive k p l b.data b.check noise
      let r := decode l (c.pc k p).erased d q
      let c := c.onPc k p (fun pc => { pc with bursts := rest })
      let c := c.countDecode l r.outcome r.errs (c.reader m.origin m.home l.j) m.home
      let racks := match m.origin with | .rackRead _ | .rackGone => true | _ => false
      let fixed := r.outcome == .corrected
      let c := if fixed && !racks then c.track m.home else c
      let c := if fixed && !racks && !b.newer then c.rewrite m.origin m.home l r.data else c
      let st := r.outcome.status
      match m.origin with
      | .fill s | .opRead s _ _ => c.onSlice s (fun sl => { sl with ret := sl.ret ++ [⟨m.origin, m.home, l.j, st, r.data⟩] })
      | .scrub die => (c.onDie die (fun x => { x with
          passCorr := if fixed then x.passCorr + 1 else x.passCorr
          passLost := if st.flagged then x.passLost + 1 else x.passLost })).scrubBack die
      | .rackRead die =>
        (c.onDie die (fun x => { x with cur := x.cur.map (fun y => if fixed then { y with corr := y.corr + 1 } else y) })).rackWrite
          die l.j r.data st.flagged
      | _ => c

/-! ### Scrub (R464-R467) -/

/-- The press whose contexts patrol and rack die `d`: press `d`, or the next that has not failed (R323, R557). -/
def Chip.pressOfDie (c : Chip) (d : Nat) : Option Nat := ((below 16).map (fun i => (d + i) % 16)).find? (fun p => (c.press p).mode != .failed)

/-- Whether the contexts of a die may be selected: their press works (R342, R343). -/
def Chip.dieWorks (c : Chip) (d : Nat) : Bool :=
  match c.pressOfDie d with
  | some p => (c.press p).mode == .normal
  | none => false

/-- Whether scrub of logical die `d` is paused (R510). -/
def Chip.scrubPaused (c : Chip) (d : Nat) : Bool := 2 ≤ c.effStep (physDie c.dieRole (4 * d))

/-- Skip the rows of unserved banks, at most 128 of them in line (R466). -/
def Chip.scrubSkip (c : Chip) (d : Nat) : Nat → Chip
  | 0 => c
  | f + 1 =>
    let x := c.die d
    if x.scrubRow < 49152 && !c.served (bankIndex (x.scrubAt d)) then (c.onDie d DieCtx.scrubNext).scrubSkip d f else c

/-- A row or chunk of a die's press has been worked off (PRS_CNT_CHUNK, R346). -/
def Chip.countRow (c : Chip) (d : Nat) : Chip :=
  match c.pressOfDie d with
  | some p => c.onPress p (fun pr => { pr with cntChunk := pr.cntChunk.bump })
  | none => c

/-- Send the 16 reads of a scrub row, as one group, to where the row stands now (R221, R464); the row is charged to class 7 (R279). -/
def Chip.scrubRead (c : Chip) (d : Nat) (w : RowLoc) : Chip :=
  let c := c.charge 7 16
  let (g, c) := c.newGroup w.c
  let c := c.onDie d (fun x => { x with scrubOut := x.scrubOut + 16 })
  (below 16).foldl (fun c j => c.sendRead w j (.scrub d) ⟨c.level 7 false, some 7, c.keep⟩ g) c

/-! ### Racking (R475-R480) -/

/-- Whether a pseudo-channel is in the first two steps of a rescue: a RETIRE_BANK racking of its banks goes on as part of step 3 (R420). -/
def Pc.midRescue (pc : Pc) : Bool := pc.state == .rescue && pc.rescueStep ≤ 2

/-- Whether racking of a row is paused or waits at the row's boundary (R466, R510, R554). -/
def Chip.rackWaits (c : Chip) (d : Nat) (j : RackJob) : Bool :=
  let w := j.rowLoc
  let t := j.target 0
  c.scrubPaused d || (64 ≤ t.k && 2 ≤ c.effStep (physDie c.dieRole t.k)) ||
  (c.slice w.c).mode == .channelTest ||
  (64 ≤ t.k && ((c.chc t.k).test == .quiesced || (c.chc t.k).test == .underTest)) ||
  c.underTest w || (j.kind != .rescue && !j.poison && (c.rowWaits w || (c.pc w.c w.p).midRescue))

/-- Whether the racking context of a die holds its row's line lock. -/
def Chip.rackLocked (c : Chip) (d : Nat) (j : RackJob) : Bool := (c.slice (j.bank / 32)).locks.any (fun y => y.2.2.2 == .rack d)

/-- Whether a die's racking context is at work on a row: it asks for the row's line lock, holds it, or waits for its writes. -/
def Chip.rackRowOn (c : Chip) (d : Nat) : Bool :=
  let x := c.die d
  x.lockWait.isSome || x.rowOut.isSome || x.cur.elim false (c.rackLocked d)

/-- The racking context of die `d` copies the row that it has locked (R476): it reads the 16 blocks where the row stands, AGED (R298), and
each goes to the target when it comes back. The rows of a fenced pseudo-channel are written in the poisoned form (R421). -/
def Chip.rackCopy (c : Chip) (d : Nat) (j : RackJob) : Chip :=
  let w := j.rowLoc
  let c := c.onDie d (fun x => { x with rowOut := some ⟨j.bank, j.row, 16⟩ })
  (below 16).foldl (fun c b =>
    if j.poison then c.rackWrite d b 0 true
    else c.sendCmd { write := false, loc := c.locate w b, home := w, data := 0, poison := false, origin := .rackRead d, level := 2, age := 0
                     cls := some 7, born := c.keep }) c

/-- The RETIRE_DONE record (R480). -/
def Chip.doneRec (c : Chip) (d : Nat) (j : RackJob) : Chip :=
  let sat (n : Nat) : Nat := min max16 n
  c.ringRec { type := 0x04, cls := 0, source := fltPrs d, bank := j.bank, row := if j.kind == .row then j.row else 0
              arg0 := if j.kind == .row then 0 else 1, arg1 := j.copied, arg2 := fld 16 16 (sat j.corr) + fld 0 16 (sat j.lost) }

/-- A retired row is on its spare row from now on; the entry that served it before becomes unusable (R468, R470, R472). -/
def Chip.endRowRack (c : Chip) (d : Nat) (j : RackJob) : Chip :=
  let c := c.setRowmap j.entry { valid := true, racking := false, row := j.row }
  let c := match j.prev with
    | some e =>
      (c.setRowmap e { valid := false, racking := false, unusable := true, row := (c.rowmapE e).row }).logRetire (rowItem e)
        (logItem 3 (c.rowmapE e).row) .nothing
    | none => c
  (c.logRetire (rowItem j.entry) (logItem 2 j.row) .nothing).doneRec d j

/-- The last row of a bank is on its reserve bank: RACKING falls, and the row entries of the bank become invalid (R478). In a rescue that
goes on, the bank's accesses go to the reserve from here on, and RACKING falls with the fence of step 4, so that requests answer RETRY until
then (R138, R419). -/
def Chip.endBankRack (c : Chip) (d : Nat) (j : RackJob) : Chip :=
  let r := c.remapE j.entry
  let stays := j.kind == .rescue && (c.pc (j.bank / 32) ((j.bank / 16) % 2)).state == .rescue
  let c := c.setRemap j.entry (if stays then { r with copied := true } else { r with racking := false })
  let c := { c with addr := { c.addr with rowmap := c.addr.rowmap.map (fun (e : Nat × RowMap) =>
    if e.1 / 16 == j.bank then (e.1, { e.2 with valid := false, racking := false, row := 0 }) else e) } }
  match j.kind with
  | .rescue => c
  | _ => (c.logRetire (bankItem j.entry) (logItem 2 j.bank) .nothing).doneRec d j

/-- Count a row racked for the hints of a rescue (R423). -/
def Chip.rescueRow (c : Chip) (j : RackJob) : Chip :=
  let k := j.bank / 32
  let p := (j.bank / 16) % 2
  if (c.pc k p).state == .rescue then
    c.onPc k p (fun pc => { pc with
      rescueTimes := ((c.keep - pc.rescueMark) * 40 :: pc.rescueTimes).take 256
      rescueMark := c.keep, rescueRows := pc.rescueRows + 1 })
  else c

/-- The racking row's writes have all entered the write queue: its lock is released and its pointer advances (R297, R478). -/
def Chip.rackRelease (c : Chip) (s d : Nat) : Chip :=
  match (c.die d).cur, (c.die d).rowOut with
  | some j, some r =>
    if !(j.bank / 32 == s && r.left == 0) then c
    else
      let j := { j with copied := j.copied + 1 }
      let c := c.onSlice s (·.unlock (.rack d))
      let since := c.keep
      let c := (c.onDie d (fun x => { x with rowOut := none, rackSince := since })).countRow d
      match j.kind with
      | .row => (c.onDie d (fun x => { x with cur := none })).endRowRack d j
      | _ =>
        let c := c.rescueRow j
        if j.row + 1 < 49152 then (c.onDie d (fun x => { x with cur := some { j with row := j.row + 1 } })).pushOut s
        else ((c.onDie d (fun x => { x with cur := none })).endBankRack d j).pushOut s
  | _, _ => c

/-- A line lock of slice `s` is released (R297). -/
def Chip.lockRelease (c : Chip) (s : Nat) (o : LockOwner) : Chip :=
  if !c.live then c
  else match o with
    | .press p => c.granRelease s p
    | .rack d => c.rackRelease s d

end Sys2Proof.Machine
end

