-- ==== Sys2Proof/Machine/Select.lean ====
section
/-! DEFINITION. The selection of a press's next work at a chunk boundary (R300, R343): a chunk of a job (R328, R329), the next row of a scrub
context (R464-R467), or the next row of a racking context (R475, R476). -/

namespace Sys2Proof.Machine

/-- The dies whose scrub and racking contexts press `p` runs (R323, R343, R557). -/
def Chip.diesOf (c : Chip) (p : Nat) : List Nat := (below 16).filter (fun d => c.pressOfDie d == some p)

/-- Whether press `p` runs nothing: no chunk, and no row of a racking context (log entry 52). -/
def Chip.pressIdle (c : Chip) (p : Nat) : Bool := (c.press p).chunk.isNone && !(c.diesOf p).any c.rackRowOn

/-- Whether the scrub context of die `d` must wait at the row it has reached (R466). -/
def Chip.scrubHeld (c : Chip) (d : Nat) : Bool :=
  let w := (c.die d).scrubAt d
  c.underTest w || c.inRescue w || c.scrubPaused d

/-- Whether scrub of die `d` waits at the row it has reached (R466; PRS_SCRUB_STATUS.WAITING, R488). -/
def Chip.scrubWaits (c : Chip) (d : Nat) : Bool :=
  let x := c.die d
  x.scrubOn && x.scrubRow < 49152 && c.scrubPeriod d != 0 && c.served (bankIndex (x.scrubAt d)) && c.scrubHeld d

/-- Whether the scrub context of die `d` has a row to read now (R465, R466). -/
def Chip.scrubReady (c : Chip) (d : Nat) : Bool :=
  let x := c.die d
  x.scrubDue && x.scrubOn && x.scrubRow < 49152 && c.served (bankIndex (x.scrubAt d)) && !c.scrubHeld d

/-- Whether the racking context of die `d` may take its next row: one of the racking it works on, or the first of the next that it takes
(R469, R475). -/
def Chip.rackReady (c : Chip) (d : Nat) : Bool :=
  let x := c.die d
  match x.cur with
  | some j => !c.rackRowOn d && !c.rackWaits d j
  | none => match x.queue with
    | j :: _ => j.logged && !c.rackWaits d j
    | [] => false

/-- The level of a scrub or racking context whose age origin is a cycle of CK_KEEP: AGED from 2 us on (R261, R300, R343). -/
def Chip.ctxLevel (c : Chip) (since : Nat) : Nat := c.level 7 (since + 50 ≤ c.keep)

/-- What a press may select. -/
inductive Work where
  | job (i : Nat)
  | scrub (d : Nat)
  | rack (d : Nat)
  deriving DecidableEq, Repr

/-- The place of a piece of work in the round: the 64 job contexts, then the scrub and the racking context of each die. -/
def Work.key : Work → Nat
  | .job i => i
  | .scrub d => 64 + 2 * d
  | .rack d => 65 + 2 * d

/-- The work that press `p` may run now, each with its level (R300, R343). -/
def Chip.works (c : Chip) (p : Nat) : List (Work × Nat) :=
  ((c.press p).runnable.map (fun e => (Work.job e.1, c.jobLevel e.2))) ++
  (c.diesOf p).flatMap (fun d =>
    (if c.scrubReady d then [(Work.scrub d, c.ctxLevel (c.die d).scrubSince)] else []) ++
    (if c.rackReady d then [(Work.rack d, c.ctxLevel (c.die d).rackSince)] else []))

/-- The work that press `p` selects: the highest level, round-robin among its equals (R300). -/
def Chip.selectWork (c : Chip) (p : Nat) : Option Work :=
  let ws := c.works p
  let top := maxOf (ws.map (·.2))
  let cand := (ws.filter (fun w => w.2 == top)).map (·.1)
  (roundRobin 96 (c.press p).jobRr (cand.map Work.key)).bind (fun k => cand.find? (fun w => w.key == k))

/-- Press `p` remembers the work it selected last. -/
def Chip.selected (c : Chip) (p : Nat) (w : Work) : Chip := c.onPress p (fun pr => { pr with jobRr := w.key })

/-! ### A job's boundary (R329) -/

/-- The job in context `i` of press `p` stands at a chunk boundary and has been selected: the steps of R329. -/
def Chip.jobBoundary (c : Chip) (p i : Nat) (j : JobCtx) : Chip :=
  if j.cancel then c.endAtPress p i .aborted 0
  else
    let (rd, wr) := c.chunkOps p j
    let rows := (rd ++ wr).map (·.row)
    let rescue := rows.filter c.inRescue
    if !rescue.isEmpty then
      c.endAtPress p i .retry (maxOf (rescue.map (fun w => c.retryHint w.c w.p)))
    else if rows.any (fun w => !c.served (bankIndex w)) then c.endAtPress p i .capacityLost 0
    else if rows.any c.underTest then c.onPress p (·.onCtx i (fun j => { j with waitTest := true, waitBuf := false }))
    else if !rd.isEmpty && (c.press p).rdbufFree < 16 then
      c.onPress p (·.onCtx i (fun j => { j with waitBuf := true, waitTest := false }))
    else
      let k : Chunk := { ctx := i, first := j.dst + j.done, len := j.nextLen, todo := rd ++ wr, issued := false
                         reads := rd.length, buf := [], status := .ok, lost := 0 }
      let c := c.charge j.cls j.kind.units
      let c := c.onPress p (fun pr =>
        { (pr.onCtx i (fun j => { j with running := true, waitTest := false, waitBuf := false })) with
          chunk := some k, rdbufFree := if rd.isEmpty then pr.rdbufFree else pr.rdbufFree - 16 })
      c.issueNext p

/-! ### A scrub row (R464-R467) -/

/-- The scrub context of die `d` reads its row and goes on to the next. -/
def Chip.scrubGo (c : Chip) (d : Nat) : Chip :=
  let w := (c.die d).scrubAt d
  ((c.onDie d (fun x => { x.scrubNext with scrubDue := false })).scrubRead d w).countRow d

/-- The scrub context of die `d` goes on to the next served row. A pass that has none left ends once its last row has been read in full, and
the next one starts (R465-R467). -/
def Chip.scrubSeek (c : Chip) (d period : Nat) : Chip :=
  let c := if (c.die d).scrubOn then c else c.onDie d (·.startPass period c.keep)
  ((c.scrubSkip d 128).scrubOver d).scrubSkip d 128

/-- The spacing timer of die `d` expires: the row its scrub context has reached is due. It is read at once where its press runs nothing and
selects it, and otherwise when it is selected (R300, R343, R465, R466). -/
def Chip.scrubRow (c : Chip) (d : Nat) : Chip :=
  let period := c.scrubPeriod d
  if !(c.live && c.boot.st == .ready && period != 0 && c.dieWorks d) then c
  else
    let c := c.scrubSeek d period
    if (c.die d).scrubEnded || !c.served (bankIndex ((c.die d).scrubAt d)) then c
    else
      let now := c.keep
      let c := c.onDie d (fun x => { x with scrubDue := true, scrubSince := if x.scrubDue then x.scrubSince else now })
      match c.pressOfDie d with
      | some p => if c.pressIdle p && c.selectWork p == some (.scrub d) then (c.selected p (.scrub d)).scrubGo d else c
      | none => c

/-! ### A racking row (R475, R476) -/

/-- Whether the press of a die is quiescing: its racking context still copies a row whose line lock it holds or asks for (R342). -/
def Chip.dieFinishes (c : Chip) (d : Nat) : Bool :=
  match c.pressOfDie d with
  | some p => (c.press p).mode == .quiescing
  | none => false

/-- The racking context of die `d` asks for the line lock of its next row, with the next racking of its queue where it works on none
(R475, R476). -/
def Chip.rackGo (c : Chip) (d : Nat) : Chip :=
  c.onDie d (fun x =>
    match x.cur with
    | some j => { x with lockWait := some j.rowLoc }
    | none => match x.queue with
      | j :: rest => { x with cur := some j, queue := rest, lockWait := some j.rowLoc }
      | [] => x)

/-- The racking context of die `d`, which press `p` runs, copies the row that it has locked; or it asks for the lock of its next row, where its press runs nothing
and selects it (R300, R343, R476). -/
def Chip.rackRow (c : Chip) (p d : Nat) : Chip :=
  let x := c.die d
  if !(c.live && c.pressOfDie d == some p && (c.dieWorks d || c.dieFinishes d)) || x.rowOut.isSome || x.lockWait.isSome then c
  else
    match x.cur.filter (c.rackLocked d) with
    | some j => c.rackCopy d j
    | none => if c.dieWorks d && c.pressIdle p && c.selectWork p == some (.rack d) then (c.selected p (.rack d)).rackGo d else c

/-! ### The boundary -/

/-- The job packets in the input buffer of a press reach their contexts (R271, R325; log entry 50). -/
def Press.takeJobs (p : Press) : Press :=
  { (p.jobBuf.foldl (fun p i => p.onCtx i (fun j => { j with noted := true })) p) with jobBuf := [] }

/-- Press `p` is at a chunk boundary: shadows apply (R347), job packets are taken, and it selects its next work. -/
def Chip.chunkBoundary (c : Chip) (p : Nat) : Chip :=
  if !(c.live && c.pressIdle p && (c.press p).mode == .normal) then c
  else
    let c := if c.auto 11 then c.onPress p Press.applyShadows else c
    let c := c.onPress p Press.takeJobs
    match c.selectWork p with
    | none => c
    | some w =>
      let c := c.selected p w
      match w with
      | .job i => match (c.press p).ctxs.look i with
        | some j => c.jobBoundary p i j
        | none => c
      | .scrub d => c.scrubGo d
      | .rack d => c.rackGo d

end Sys2Proof.Machine
end

