-- ==== Sys2Proof/Machine/Refresh.lean ====
section
/-! DEFINITION. The time base (R721) and what counts on it, refresh (R366-R373), bands and refresh debt (R374-R377). -/

namespace Sys2Proof.Machine

/-! ### Intervals -/

/-- The refresh interval of a band in units of 5 ns (R366). -/
def refInterval (band : Nat) : Nat := match band with | 0 => 780 | 1 => 390 | _ => 195

/-- Where a pseudo-channel's timer starts (R372). -/
def Chc.timerStart (h : Chc) (k p band : Nat) : Nat :=
  if natBit h.refCfg.live 4 then (2 * (k % 4) + p) * refInterval band / 8 else 0

/-- POSTPONE_MAX of a controller (CHC_REF_CFG). -/
def Chc.postMax (h : Chc) : Nat := min 8 (natBits h.refCfg.live 0 4)

/-- One tick of the refresh time base: the timer gains 8 units, and at the interval OWED gains 1; a due point that brings OWED
above POSTPONE_MAX makes a refresh a hold (R367, R369). The timer stands still during a payment (R375). -/
def Pc.tick (pc : Pc) : Pc :=
  if !pc.timerOn || pc.paying then pc
  else
    let t := pc.timer + 8
    let iv := refInterval pc.band
    if t < iv then { pc with timer := t }
    else
      let owed := pc.owed + 1
      { pc with timer := t - iv, owed := owed, urgent := if pc.postMax < owed then pc.urgent + 1 else pc.urgent }

/-- Commands that wait grow older: 40 cycles of CK_DRAM are two or three units of AGE (R264). -/
def Pc.older (pc : Pc) (d : Nat) : Pc :=
  let f (m : Cmd) : Cmd := { m with age := min 125 (m.age + d) }
  { pc with fifo := pc.fifo.map f, rq := pc.rq.map f, wq := pc.wq.map f }

/-- Whether a queue of a pseudo-channel is full (R363). -/
def Pc.queueFull (pc : Pc) : Bool := 32 ≤ pc.rq.length || 32 ≤ pc.wq.length

/-- A tick of a channel controller. -/
def Chc.tick (h : Chc) (d : Nat) : Chc :=
  { h with
    pcs := h.pcs.map (fun (i, pc) => (i, (pc.tick).older d))
    waitQ := h.waitQ.tick (h.pcs.any (fun e => e.2.queueFull)) 40 1000 }

/-- A tick of a port's wait counters (R130, R133, R134, R161). -/
def Port.tick (p : Port) : Port :=
  { p with
    waitJob := p.waitJob.tick (!p.jobWait.isEmpty) 80 2000
    waitRsp := p.waitRsp.tick (p.ansWait.isSome || p.reqs.any (fun r => r.phase == .waitRsp)) 80 2000
    waitOrder := p.waitOrder.tick p.holdsOne 80 2000 }

/-- A tick of a slice's wait counter. -/
def Slice.tick (s : Slice) : Slice := { s with waitCq := s.waitCq.tick (32 ≤ s.cq.length) 80 2000 }

/-- A tick of a press's wait counters. -/
def Press.tick (p : Press) : Press :=
  { p with
    waitRdbuf := p.waitRdbuf.tick (p.ctxs.any (fun e => e.2.waitBuf)) 80 2000
    waitTest := p.waitTest.tick (p.ctxs.any (fun e => e.2.waitTest)) 80 2000 }

/-- The endpoints that hold their links' packets back: slices and presses whose input buffers are full (R271, R308). -/
def Chip.fullEnds (c : Chip) : List Nat :=
  (c.slices.filter (fun e => 16 ≤ e.2.inBuf.length)).map (fun e => epSlice e.1) ++
  (c.presses.filter (fun e => 8 ≤ e.2.jobBuf.length)).map (fun e => epPress e.1)

/-- A tick of the crossbar's stall counters (R271). -/
def Chip.stalls (c : Chip) : Tab WaitCnt :=
  c.fullEnds.foldl (fun t e => t.upd {} e (fun w => w.tick true 80 2000)) c.xbr.stall

/-- One cycle of CK_KEEP (40 ns): 80 cycles of CK_CORE and 40 of CK_DRAM pass with it. In the fault state only the time base
and refresh go on (R584). -/
def Chip.refreshTick (c : Chip) : Chip :=
  if !c.boot.pwrgd then c
  else
    let c := { c with keep := c.keep + 1 }
    if !c.on then c
    else if c.flt.fault then
      { c with chcs := c.chcs.map (fun (k, h) => (k, { h with pcs := h.pcs.map (fun (i, pc) => (i, pc.tick)) })) }
    else
      { c with
        chcs := c.chcs.map (fun (k, h) => (k, h.tick (2 + c.keep % 2)))
        ports := c.ports.map (fun (n, p) => (n, p.tick))
        slices := c.slices.map (fun (s, sl) => (s, sl.tick))
        presses := c.presses.map (fun (p, pr) => (p, pr.tick))
        xbr := { c.xbr with stall := c.stalls } }

/-! ### Shadows of a channel (R258, R394) -/

/-- The update group of channel controller `k` (R685). -/
def chcGroup (k : Nat) : Nat := 2 + k / 8

/-- POSTPONE_MAX in force reaches a pseudo-channel. A higher value is taken at once. A lower one waits for the end of a payment, and as a
band does under R374 for an urgent refresh that is a hold; then an excess of OWED is paid (R275, R377). -/
def Pc.newPostMax (pc : Pc) (m : Nat) : Pc :=
  if pc.postMax ≤ m then { pc with postMax := m, ppmPend := false }
  else if pc.paying || pc.urgent != 0 then { pc with ppmPend := true }
  else if m < pc.owed && pc.timerOn then { pc with postMax := m, ppmPend := false, payLeft := pc.owed - m, paying := true }
  else { pc with postMax := m, ppmPend := false }

/-- Apply the shadows of a channel controller. -/
def Chc.applyShadows (h : Chc) : Chc :=
  let h := { h with schedCfg := h.schedCfg.apply, refCfg := h.refCfg.apply, rdCfg := h.rdCfg.apply
                    calCfg := h.calCfg.apply, eccCfg := h.eccCfg.apply }
  (h.onPc 0 (·.newPostMax h.postMax)).onPc 1 (·.newPostMax h.postMax)

/-- Apply the shadows of slice `s`. -/
def Slice.applyShadows (s : Slice) : Slice := { s with cfg := s.cfg.apply }

/-- Whether the state of test block `blk` lies in the save RAM, so that its update waits for the restore (R673). -/
def Chip.scanned (c : Chip) (blk : Nat) : Bool :=
  match c.boot.field with
  | some t => 3 ≤ t.phase && t.phase ≤ 5 && 1 ≤ t.step && t.block == blk
  | none => false

/-- An update waits for the end of the restore. -/
def Chip.deferUpdate (c : Chip) : Chip := { c with boot := { c.boot with field := c.boot.field.map (fun t => { t with upd := true }) } }

/-- CFG_UPDATE of a channel: of its controller, and of its slice (R258, R394). -/
def Chip.updateChannel (c : Chip) (k : Nat) : Chip :=
  let c := if c.scanned (176 + k) then c.deferUpdate else c.onChc k Chc.applyShadows
  if 64 ≤ k then c else if c.scanned (112 + k) then c.deferUpdate else c.onSlice k Slice.applyShadows

/-- Whether a REFab of pseudo-channel `p` carries the channel's AUTO_APPLY: that of pseudo-channel 0, or of 1 while 0 is fenced
(R394). -/
def Chip.carries (c : Chip) (k p : Nat) : Bool := p == 0 || c.fenced k 0

/-! ### REFab (R368-R371, R398, R399) -/

/-- Whether a REFab may issue: the pseudo-channel is trained, is not refreshing, its core die listens and no replay goes on (R370, R373,
R386, R391). -/
def Pc.mayRefresh (pc : Pc) : Bool := pc.timerOn && !pc.inRef && pc.driven && !pc.replaying && !pc.alert && pc.script.isEmpty

/-- Whether a REFab may issue now: also beside a replay that a retraining hold or the fault state keeps still (R373, R390, R584). -/
def Chip.mayRefresh (c : Chip) (k p : Nat) : Bool :=
  let pc := c.pc k p
  pc.mayRefresh || (c.flt.fault || (c.chc k).held) && pc.timerOn && !pc.inRef && pc.driven && !pc.alert

/-- A REFab of pseudo-channel `p` of controller `k` issues: it closes every bank (R370). What it does in the die, and with it the switch to
complete pending changes of settings, comes with its retirement (Pc.refreshed), within tRFC and before any burst. -/
def Chip.refab (c : Chip) (k p : Nat) (payment : Bool) : Chip :=
  let c := c.onChc k (fun h =>
    let kept := h.retains p
    let h := h.onPc p (fun pc =>
      { pc with
        owed := pc.owed - 1, inRef := true
        openRows := if kept then pc.openRows else [], grpOpen := if kept then pc.grpOpen else []
        urgent := if payment then pc.urgent else pc.urgent - 1
        payLeft := if payment then pc.payLeft - 1 else pc.payLeft })
    let h := h.issueEnt { p := p, cmd := .refab, access := none, data := 0, check := 0, aux := kept }
    { h with cntRef := bump32 h.cntRef, cntRefDebt := if payment then bump32 h.cntRefDebt else h.cntRefDebt })
  if c.auto (chcGroup k) && c.carries k p then c.updateChannel k else c

/-- A REFab issues on an idle pseudo-channel that owes one (R368). -/
def Chip.refabIdle (c : Chip) (k p : Nat) : Chip :=
  let pc := c.pc k p
  if c.on && c.mayRefresh k p && !pc.paying && pc.urgent == 0 && pc.owed != 0 && pc.rq.isEmpty && pc.wq.isEmpty &&
      (c.chc k).retry.length < 64 then c.refab k p false
  else c

/-! ### Bands and debt (R374-R377) -/

/-- OWED halved once, rounding up. -/
def halveUp (n : Nat) : Nat := (n + 1) / 2

/-- A band takes effect (R375, R376). -/
def Pc.setBand (pc : Pc) (b : Nat) : Pc :=
  if b = pc.band then { pc with bandPend := none }
  else if pc.band < b then
    let s := b - pc.band
    let owed := pc.owed * 2 ^ s
    let pay := if pc.postMax < owed then owed - pc.postMax else 0
    { pc with band := b, bandPend := none, owed := owed, timer := pc.timer / 2 ^ s
              payLeft := pay, paying := pay != 0, urgent := if pay != 0 then 0 else pc.urgent }
  else
    let s := pc.band - b
    let owed := if s = 1 then halveUp pc.owed else halveUp (halveUp pc.owed)
    { pc with band := b, bandPend := none, owed := owed, timer := pc.timer * 2 ^ s }

/-- A band reaches a pseudo-channel: an urgent refresh that is a hold goes first, and a payment is not disturbed (R374). -/
def Pc.takeBand (pc : Pc) (b : Nat) : Pc :=
  if pc.paying || pc.urgent != 0 then { pc with bandPend := some b } else pc.setBand b

/-- The band of the die that holds a pseudo-channel reaches it (R374, R505). -/
def Chip.bandChange (c : Chip) (k p : Nat) : Chip :=
  let b := (c.zone (physDie c.dieRole k)).band
  let pc := c.pc k p
  if c.on && pc.state != .fenced && (pc.band != b || pc.bandPend.isSome) then c.onPc k p (·.takeBand b) else c

/-- A band that waited for a hold takes effect once the hold is over (R374), and then a POSTPONE_MAX that waited (R377). -/
def Pc.afterHold (pc : Pc) (m : Nat) : Pc :=
  let pc := match pc.bandPend with
    | some b => if pc.paying || pc.urgent != 0 then pc else pc.setBand b
    | none => pc
  if pc.ppmPend then pc.newPostMax m else pc

/-- What waited for a hold of a pseudo-channel. -/
def Chip.afterHold (c : Chip) (k p : Nat) : Chip := let m := (c.chc k).postMax; c.onPc k p (·.afterHold m)

/-- A refresh that is a hold, or the first of a payment, issues (R369, R375). -/
def Chip.refabIssue (c : Chip) (k p : Nat) : Chip :=
  let pc := c.pc k p
  if !(c.on && c.mayRefresh k p && (c.chc k).retry.length < 64) then c
  else if pc.paying && pc.payLeft != 0 then c.refab k p true
  else if pc.urgent != 0 && !pc.paying then (c.refab k p false).afterHold k p
  else c

/-- tRFC ends: the pseudo-channel resumes, or the next REFab of a payment issues (R370, R375). -/
def Chip.refreshEnd (c : Chip) (k p : Nat) : Chip :=
  if !(c.on && (c.pc k p).inRef) then c
  else
    let c := c.onPc k p (fun pc => { pc with inRef := false })
    let pc := c.pc k p
    if pc.paying && pc.payLeft != 0 && c.mayRefresh k p && (c.chc k).retry.length < 64 then c.refab k p true else c

/-- A payment ends; a band, then a POSTPONE_MAX, that waited for it takes effect (R374, R377). -/
def Chip.paymentEnd (c : Chip) (k p : Nat) : Chip :=
  let pc := c.pc k p
  if c.on && pc.paying && pc.payLeft == 0 && !pc.inRef then
    (c.onPc k p (fun pc => { pc with paying := false })).afterHold k p
  else c

end Sys2Proof.Machine
end

