-- ==== Sys2Proof/Machine/Train.lean ====
section
/-! DEFINITION. Training and drift calibration (R397-R442): lane settings, mode registers, temperature sets, repair and erasure, training,
replay (R387-R391, R720), retraining, rescue, and calibration passes. -/

namespace Sys2Proof.Machine

/-! ### Settings and stored points (R397, R430-R433, R435) -/

/-- The setting a slot of the calibration set has when neither copy of its record is good (R435). -/
def Setting.default : Setting := ⟨64, 32⟩

/-- Lanes of a settings group: 38 data lanes for read and write, 23 command lanes (R397). -/
def groupLanes (g : Nat) : Nat := match g with | 0 => 38 | 1 => 38 | 2 => 23 | _ => 0

/-- The 99 settings of a pseudo-channel by key: group × 64 + lane. -/
def settingKeys : List Nat := (below 3).flatMap (fun g => upFrom (64 * g) (groupLanes g))

/-- The place of a stored point: set 1 S30, 2 S60, 3 S90 (CHC_CAL_SEL). -/
def pointKey (set key : Nat) : Nat := set * 256 + key

/-- A stored point. -/
def Pc.point (pc : Pc) (set key : Nat) : Setting := pc.points.get .default (pointKey set key)
/-- Change one of the two values of a setting. -/
def Setting.put (s : Setting) (isDelay : Bool) (v : Nat) : Setting := if isDelay then { s with delay := v } else { s with vref := v }
/-- One of the two values of a setting. -/
def Setting.val (s : Setting) (isDelay : Bool) : Nat := if isDelay then s.delay else s.vref
/-- The top of the code range of R397. -/
def codeMax (isDelay : Bool) : Nat := if isDelay then 127 else 63

/-- The quotient of two integers rounded to the nearest integer, halves up (R428); the divisor is positive. -/
def roundDiv (a : Int) (b : Nat) : Int := (2 * a + b) / (2 * b)

/-- 240 times the exact value at a die temperature given in eighths of a degree (R430). -/
def exact240 (t : Int) (s30 s60 s90 : Nat) : Int :=
  if t ≤ 240 then 240 * s30
  else if 720 ≤ t then 240 * s90
  else if t ≤ 480 then (480 - t) * s30 + (t - 240) * s60
  else (720 - t) * s60 + (t - 480) * s90

/-- 240 times the exact value of a setting. -/
def Pc.exact (pc : Pc) (t : Int) (key : Nat) (isDelay : Bool) : Int :=
  exact240 t ((pc.point 1 key).val isDelay) ((pc.point 2 key).val isDelay) ((pc.point 3 key).val isDelay)

/-- The in-force value of a setting at 8 Gb/s: its exact value, rounded (R430). -/
def Pc.fromPoints (pc : Pc) (t : Int) (key : Nat) : Setting :=
  ⟨(roundDiv (pc.exact t key true) 240).toNat, (roundDiv (pc.exact t key false) 240).toNat⟩

/-- The setting in force. One that nothing has changed since training began is the value that R430 gives for the temperature at which it
began (R408 step 1, R435). Before boot step 8 has loaded a set it is DELAY 64 and VREF 32, the middle of the ranges: R439 gives no such value
(DESIGN CHOICE, log entry 19). -/
def Pc.setting (pc : Pc) (key : Nat) : Setting :=
  match pc.inForce.look key, pc.base with
  | some s, _ => s
  | none, some t => pc.fromPoints t key
  | none, none => .default

/-- Training begins from the settings that the stored points give at a temperature (R408 step 1). -/
def Pc.startFrom (pc : Pc) (t : Int) : Pc := { pc.modeWritten with base := some t, inForce := [], changes := [], mrPend := [], mrrs := [] }

/-- Write a stored point; the setting in force stays as it is (R431, R440). -/
def Pc.setPoint (pc : Pc) (set key : Nat) (s : Setting) : Pc :=
  { pc with
    inForce := if pc.base.isSome then pc.inForce.put key (pc.setting key) else pc.inForce
    points := pc.points.put (pointKey set key) s }

/-- The stored point nearest a temperature, ties to the lower, and 240 times its weight (R432). -/
def nearPoint (t : Int) : Nat × Nat :=
  if t ≤ 360 then (1, if t ≤ 240 then 240 else (480 - t).toNat)
  else if t ≤ 600 then (2, if t ≤ 480 then (t - 240).toNat else (720 - t).toNat)
  else (3, if 720 ≤ t then 240 else (t - 480).toNat)

/-- An accepted value adjusts one stored point (R432). -/
def Pc.acceptVal (pc : Pc) (t : Int) (key : Nat) (isDelay : Bool) (v : Nat) : Pc :=
  let x := pc.exact t key isDelay
  if 240 * (v : Int) = x then pc
  else
    let (set, w) := nearPoint t
    let s := pc.point set key
    let n := (s.val isDelay : Int) + roundDiv (240 * v - x) w
    pc.setPoint set key (s.put isDelay (min (codeMax isDelay) n.toNat))

/-- The temperature of the die of a controller in eighths of a degree: the mean of its two sensors, or the working one (R430). -/
def Chip.dieTemp8 (c : Chip) (k : Nat) : Int :=
  let d := physDie c.dieRole k
  let a := c.thm.sensors.get {} (16 + 2 * d)
  let b := c.thm.sensors.get {} (17 + 2 * d)
  if a.broken && !b.broken then 2 * b.temp
  else if b.broken && !a.broken then 2 * a.temp
  else a.temp + b.temp

/-! ### Changes of settings (R398, R399, R401) -/

/-- The word of a setting (R400, R435). -/
def Setting.word (s : Setting) : Nat := fld 8 6 s.vref + fld 0 7 s.delay

/-- The setting that will be in force once the pending changes have taken effect. -/
def Pc.willBe (pc : Pc) (key : Nat) : Setting := (pc.changes.reverse.findSome? (fun x => x.set.look key)).getD (pc.setting key)

/-- A change of settings is pending: it applies at the REFab by which the MRW of every changed write and command setting has
issued (R399). -/
def Pc.pendChange (pc : Pc) (vs : List (Nat × Setting)) : Pc :=
  let vs := vs.filter (fun v => pc.willBe v.1 != v.2)
  if vs.isEmpty then pc
  else { pc with changes := pc.changes ++
    [⟨vs.foldl (fun t v => t.put v.1 v.2) [], vs.filterMap (fun v => (mrOf v.1).map (fun m => (m, v.2.word)))⟩] }

/-- The in-force values are evaluated again (R431); at 4 Gb/s the stored points are not used (R433). -/
def Pc.reeval (pc : Pc) (t : Int) : Pc :=
  if pc.rate4 || pc.state == .fenced || pc.state == .untrained then pc
  else pc.pendChange (settingKeys.map (fun k => (k, pc.fromPoints t k)))

/-- Evaluate the in-force values of a pseudo-channel again. -/
def Chip.reeval (c : Chip) (k p : Nat) : Chip :=
  let t := c.dieTemp8 k
  c.onPc k p (·.reeval t)

/-- What an event does that may let a band take effect, with the evaluation that R431 makes at each band change. -/
def Chip.withBandEval (c : Chip) (k p : Nat) (f : Chip → Chip) : Chip :=
  if ((f c).pc k p).band != (c.pc k p).band then (f c).reeval k p else f c

/-- A band change of the die (R374, R431). -/
def Chip.bandChangeEval (c : Chip) (k p : Nat) : Chip := c.withBandEval k p (·.bandChange k p)

/-- A pending change gives up a setting, with its MRW. -/
def Change.without (x : Change) (key : Nat) : Change :=
  { set := x.set.del key, todo := x.todo.filter (fun m => mrOf key != some m.1) }

/-- A setting takes effect at once while the pseudo-channel trains, in its active and in its pending copy: a change of it that was pending
is over (R401). -/
def Pc.setOne (pc : Pc) (key : Nat) (s : Setting) : Pc :=
  { pc with
    inForce := pc.inForce.put key s
    changes := (pc.changes.filter (fun x => x.set.isEmpty || x.set.any (fun y => y.1 != key))).map (·.without key)
    mrPend := pc.mrPend.filter (fun m => mrOf key != some m.1) }

/-- Settings take effect at once while the pseudo-channel trains (R401). -/
def Pc.setNow (pc : Pc) (vs : List (Nat × Setting)) : Pc := vs.foldl (fun pc (k, s) => pc.setOne k s) pc

/-! ### Mode registers of the core die (R400-R403) -/

/-- LANE_MUX as CHC_LANE_MAP has the symbols on the spare lanes. -/
def Pc.muxWord (pc : Pc) : Nat := (pc.s37.elim 0 (fun s => 2 ^ 14 + fld 8 6 s)) + (pc.s36.elim 0 (fun s => 2 ^ 6 + fld 0 6 s))

/-- A training procedure sets both ends of the spare lanes, CHC_LANE_MAP and LANE_MUX (R412), in the core die at once (R401). -/
def Pc.setMap (pc : Pc) (v : Nat) : Pc :=
  let pc := { pc with laneMap := v }
  { pc with laneMux := pc.muxWord, mrPend := pc.mrPend.del 0x40 }

/-- Whether the write direction of a calibration pass is monitored, so that MODE.MON is 1. -/
def Pc.monitors (pc : Pc) : Bool := match pc.cal with | some x => x.wr.outcome == 0 && !x.stopped | none => false

/-- MON_OFS: the offsets of the monitor window in progress (R426); 0 while no window is, log entry 53. -/
def Pc.monOfs (pc : Pc) : Nat :=
  match pc.cal with
  | some x =>
    if !pc.monitors then 0
    else match x.wr.wins.length % 4 with
      | 0 => (128 - x.monD) % 128
      | 1 => x.monD
      | 2 => fld 8 6 (64 - x.monV)
      | _ => fld 8 6 x.monV
  | none => 0

/-- MODE as an MRW sends it (R400). -/
def Pc.modeWord (pc : Pc) (pat : Nat) (capture : Bool) : Nat :=
  flag 6 pc.rate4 + fld 4 2 pat + flag 2 pc.monitors + flag 1 capture + flag 0 pc.trains

/-- A mode register of the core die as MRR returns it: the active copy. One that R400 does not list reads 0. -/
def Chc.mr (h : Chc) (p m : Nat) : Nat :=
  let pc := h.pc p
  if m ≤ 0x25 then (pc.setting (64 + m)).word
  else if 0x28 ≤ m && m ≤ 0x3E then (pc.setting (128 + (m - 0x28))).word
  else if m = 0x40 then pc.laneMux
  else if m = 0x41 then pc.modeWord (pc.mrs.get 0 0x41) (h.capture p)
  else if m = 0x46 then pc.monOfs
  else pc.mrs.get 0 m

/-- MRRs of mode registers are to issue, each as a RD of any bank with an entry of the retry buffer (R384, R401). -/
def Pc.pendMrrs (pc : Pc) (ms : List Nat) : Pc := { pc with mrrs := pc.mrrs ++ ms }

/-- The controller reads mode registers by MRR (R401): the commands are to issue, and the data is the majority of the lanes. -/
def Chc.mrr (h : Chc) (p : Nat) (ms : List Nat) : Chc × List Nat := (h.onPc p (·.pendMrrs ms), ms.map (fun m => onLanes (h.mr p m)))

/-! ### Repair and erasure (R412-R414) -/

/-- AUTO_ERASE in force. -/
def Chc.autoErase (h : Chc) : Bool := natBit h.calCfg.live 24

/-- Put a symbol on a spare lane, or none. -/
def Pc.setSpare (pc : Pc) (lane : Nat) (s : Option Nat) : Pc :=
  let keep (lo : Nat) : Nat := pc.laneMap - pc.laneMap / 2 ^ lo % 256 * 2 ^ lo
  let v : Nat := match s with | some s => 128 + s | none => 0
  pc.setMap (if lane = 36 then keep 24 + v * 2 ^ 24 else keep 16 + v * 2 ^ 16)

/-- Erase a symbol in the first erasure place that is free. -/
def Pc.addErasure (pc : Pc) (s : Nat) : Pc :=
  let put (lo : Nat) : Pc := { pc with laneMap := pc.laneMap - pc.laneMap / 2 ^ lo % 256 * 2 ^ lo + (128 + s) * 2 ^ lo }
  if pc.e0.isNone then put 8 else put 0

/-- A repair or an erasure is counted, recorded and raised (R414, R630). -/
def Chip.laneChanged (c : Chip) (k p lane : Nat) (spare : Option Nat) (sym : Nat) : Chip :=
  let c := c.onChc k (fun h => { h with cntLane := bump32 h.cntLane })
  let d := fld 8 1 p + fld 0 6 lane
  match spare with
  | some s => (c.raise (fltChc k) ⟨1, 0x62, d⟩).laneHistPc 1 k p (fld 0 6 lane + fld 8 6 s + fld 16 6 sym)
  | none => (c.raise (fltChc k) ⟨1, 0x63, d⟩).laneHistPc 2 k p (fld 0 6 lane + fld 16 6 sym)

/-- Erase the symbol of a failed lane if R413 permits it. -/
def Chip.eraseSym (c : Chip) (k p lane sym : Nat) : Chip × Bool :=
  if (c.chc k).autoErase && (c.pc k p).erased.length < 2 then
    ((c.onPc k p (·.addErasure sym)).laneChanged k p lane none sym, true)
  else (c, false)

/-- A lane has failed: its symbol moves to a free spare, or is erased (R412, R413). A lane that carries no symbol, or an erased
one, is not trained. -/
def Chip.laneFails (c : Chip) (k p lane : Nat) : Chip × Bool :=
  let pc := c.pc k p
  if lane < 36 then
    if pc.laneOf lane != lane || pc.erased.contains lane then (c, true)
    else if pc.s36.isNone then ((c.onPc k p (·.setSpare 36 (some lane))).laneChanged k p lane (some 36) lane, true)
    else if pc.s37.isNone then ((c.onPc k p (·.setSpare 37 (some lane))).laneChanged k p lane (some 37) lane, true)
    else c.eraseSym k p lane lane
  else
    match (if lane = 36 then pc.s36 else pc.s37) with
    | some s => if pc.erased.contains s then (c, true) else c.eraseSym k p lane s
    | none => (c, true)

/-- Lanes fail, in order: their symbols move or are erased (R412, R413); whether that absorbs every failure (R414). Of several that fail
together R412 does not say which takes the first spare: data lanes rising and then spare lanes is a DESIGN CHOICE, log entry 55. -/
def Chip.moveLanes (c : Chip) (k p : Nat) (ls : List Nat) : Chip × Bool :=
  ls.foldl (fun (x : Chip × Bool) l => if x.2 then x.1.laneFails k p l else x) (c, true)

/-- Data lanes before spare lanes, each rising, of those with a property. -/
def lanesThat (f : Nat → Bool) : List Nat := (below 38).filter f

/-- Lanes in use: those that carry a symbol that is not erased (R426). -/
def Pc.lanesInUse (pc : Pc) : List Nat :=
  let ls := ((below 36).filter (fun s => !pc.erased.contains s)).map pc.laneOf
  lanesThat ls.contains

/-! ### Training (R408-R415) -/

/-- The settings that an attempt gives the lanes in use (R409). -/
def Pc.foundSettings (pc : Pc) (a : TrainAttempt) : List (Nat × Setting) :=
  pc.lanesInUse.flatMap (fun l => [(l, (a.rd.lane l).setting), (64 + l, (a.wr.lane l).setting)]) ++
  (below 23).map (fun l => (128 + l, (a.cmd.lane l).cmdSetting))

/-- The shortest of the windows of lanes, given with their lanes: its width and its lane, the lowest of those that have it (R409). -/
def shortest (ws : List (Nat × Nat)) : Nat × Nat := ws.foldl (fun m w => if w.1 < m.1 then w else m) (255, 0)

/-- The margins of a group: its shortest DELAY window and its shortest VREF window in the final sweeps, each with its lane. -/
def groupMargin (ls : List Nat) (d v : Nat → Nat × Nat) : List Byte :=
  let x := shortest (ls.map (fun l => ((d l).2, l)))
  let y := shortest (ls.map (fun l => ((v l).2, l)))
  leBytes 1 x.1 ++ leBytes 1 x.2 ++ leBytes 1 y.1 ++ leBytes 1 y.2

/-- The training-margin record (R408 step 8, R630). -/
def Chip.marginRec (c : Chip) (k p : Nat) (rate4 : Bool) (a : TrainAttempt) : Chip :=
  let t : Nat := (((c.dieTemp8 k) / 2) % 65536).toNat
  let ls := (c.pc k p).lanesInUse
  c.journal areaMargin (leBytes 1 k ++ leBytes 1 (fld 0 1 p + flag 1 rate4) ++ leBytes 2 t ++
    groupMargin ls (fun l => (a.rd.lane l).wDelay2) (fun l => (a.rd.lane l).wVref) ++
    groupMargin ls (fun l => (a.wr.lane l).wDelay2) (fun l => (a.wr.lane l).wVref) ++
    groupMargin (below 23) (fun l => (a.cmd.lane l).wDelay) (fun l => (a.cmd.lane l).wVref))

/-- The pattern registers of the core die after a confirmation, whose last runs carry the user pattern (R400, R404, R408 step 7). -/
def Pc.confirmModes (pc : Pc) : Pc :=
  let pc := pc.modeWritten
  { pc with mrs := ((((pc.mrs.put 0x41 2).put 0x42 0xF00F).put 0x43 0x0FF0).put 0x44 0xC3C3).put 0x45 0x3C3C }

/-- Sweeps use the LFSR pattern (R408, R417). -/
def Pc.sweepModes (pc : Pc) : Pc := let pc := pc.modeWritten; { pc with mrs := pc.mrs.put 0x41 0 }

/-- Repair or erase the lanes that fail an attempt (R408 steps 2 to 7): those that fail a sweep with the spares that take them over, then
those that fail confirmation, which is made with CHC_TRN_PAT at 0x3C3C_C3C3_0FF0_F00F. Whether a working setting remains (R410, R414). -/
def Chip.repairLanes (c : Chip) (k p : Nat) (a : TrainAttempt) : Chip × Bool :=
  let (c, ok) := c.moveLanes k p (lanesThat a.sweepFails)
  if !ok then (c, false)
  else
    let c := c.onChc k (fun h => { (h.onPc p (·.confirmModes)) with patLo := 0x0FF0F00F, patHi := 0x3C3CC3C3 })
    c.moveLanes k p (lanesThat (fun l => if l < 36 then a.confirmFails l else a.sweepFails l || a.confirmFails l))

/-- One run of the table of R408 at one rate: the state it leaves and whether it found a working setting. `able` is false where a second
ALERT has ruled the rate out (R720); `anew` tells a training that starts with no repair and no erasure (R415). -/
def Chip.trainAt (c : Chip) (k p : Nat) (a : TrainAttempt) (able rate4 anew : Bool) : Chip × Bool :=
  let t := c.dieTemp8 k
  let c := c.onPc k p (fun pc => { (if anew then pc.sweepModes.setMap 0 else pc.sweepModes) with rate4 := rate4 })
  if !(able && a.cmdOk) then (c, false)
  else
    let (c, ok) := c.repairLanes k p a
    if !ok then (c, false)
    else
      let c := c.onPc k p (fun pc =>
        let vs := pc.foundSettings a
        let pc := pc.setNow vs
        if rate4 then pc
        else vs.foldl (fun pc (x, s) => (pc.acceptVal t x true s.delay).acceptVal t x false s.vref) pc)
      (c.marginRec k p rate4 a, true)

/-- The entropy word of the fuse array (R382, R601). -/
def Chip.entropy (c : Chip) : Nat := c.fus.eff.get 0 12 + c.fus.eff.get 0 13 * 2 ^ 32

/-- The command path of a pseudo-channel is trained at boot: its refresh timer starts (R372) and the controller's generator is
seeded (R382). -/
def Chip.pathTrained (c : Chip) (k p : Nat) : Chip :=
  let b := (c.zone (physDie c.dieRole k)).band
  let (n, c) := if (c.chc k).rng = 0 then c.drawFree else (0, c)
  let e := c.entropy
  c.onChc k (fun h =>
    let seed := e % 2 ^ 64 ^^^ (Config.samplerEntropy n % 2 ^ 32 * 2 ^ 32) ^^^ k
    let h := { h with rng := if h.rng = 0 then (if seed = 0 then 1 else seed) else h.rng }
    h.onPc p (fun pc =>
      if pc.timerOn then pc else { pc with timerOn := true, band := b, timer := h.timerStart k p b, owed := 0, postMax := h.postMax }))

/-- A pseudo-channel enters service at the fallback rate (R415). -/
def Chip.rateFallback (c : Chip) (k p : Nat) : Chip := (c.raise (fltChc k) ⟨1, 0x64, p⟩).laneHistPc 3 k p 0

/-- A training procedure is over: MODE has been written, and its core die holds ALERT low (R387, R400, R720). -/
def Pc.quiet (pc : Pc) : Pc :=
  { pc.modeWritten with alert := false, script := [], runRetry := false, ownRun := none, lost8 := false, lost4 := false, mrrs := [] }

/-- A second ALERT in one compare run has ruled out the one rate of a procedure that tries no other (R720). -/
def Pc.ruledOut (pc : Pc) : Bool := pc.lost8 || pc.lost4

/-- The commands of a replay itself are given up: a training procedure takes over (R390, R419). -/
def Chc.dropAux (h : Chc) (p : Nat) : Chc := { h with retry := h.retry.filter (fun e => !(e.p == p && e.aux)) }

/-- A pseudo-channel enters rescue at its step 1, a training at 4 Gb/s (R419); a reserve pseudo-channel becomes unusable instead (R422). -/
def Chip.enterRescue (c : Chip) (k p : Nat) : Chip :=
  if k < 64 then
    let now := c.keep
    let t := c.dieTemp8 k
    c.onChc k (fun h => (h.dropAux p).onPc p (fun pc => { (pc.quiet.startFrom t) with
      state := .rescue, rescueStep := 1, rescueAt := now, rescueRows := 0, rescueTimes := [], rate4 := true
      replaying := false, fails := 0 }))
  else c.reserveUnusable [(k, p)]

/-- A pseudo-channel whose training has succeeded is in service. -/
def Chip.trained (c : Chip) (k p : Nat) : Chip := (c.onPc k p (fun pc => { pc.quiet with state := .normal })).reeval k p

/-- The repeat of R415 at 4 Gb/s, which starts with no repair and no erasure: service at that rate, or none. -/
def Chip.trainSlow (c : Chip) (k p : Nat) (a : TrainAttempt) (able : Bool) : Chip × Bool :=
  let t := c.dieTemp8 k
  let (c, ok) := (c.onPc k p (·.startFrom t)).trainAt k p a able true true
  (if ok then (c.trained k p).rateFallback k p else c, ok)

/-- The training of a pseudo-channel ends at boot (R408, R410, R415): service at 8 Gb/s, at 4 Gb/s, or a fence. -/
def Chip.bootTrainEnd (c : Chip) (k p : Nat) (at8 at4 : TrainAttempt) : Chip :=
  let pc := c.pc k p
  let c := if at8.cmdOk || at4.cmdOk then c.pathTrained k p else c
  let (c, ok8) := c.trainAt k p at8 (!pc.lost8) false true
  if ok8 then c.trained k p
  else
    let (c, ok4) := c.trainSlow k p at4 (!pc.lost4)
    if ok4 then c
    else
      let c := ({ c with boot := { c.boot with pcFenced := c.boot.pcFenced + 1 } }).onPc k p (fun pc => { pc.setMap 0 with rate4 := false })
      if k < 64 then c.fencePc k p else c.reserveUnusable [(k, p)]

/-- The training of a pseudo-channel under TRAIN ends (R415, R416): service at 8 Gb/s, or the path of R419 from its step 1. A reserve
pseudo-channel takes no rescue: it repeats at 4 Gb/s at once, and without a working setting there it becomes unusable (R422). -/
def Chip.cmdTrainEnd (c : Chip) (k p : Nat) (at8 at4 : TrainAttempt) : Chip :=
  let pc := c.pc k p
  let (c, ok) := c.trainAt k p at8 (!pc.lost8) false true
  if ok then c.trained k p
  else if k < 64 then (c.onPc k p (·.setMap 0)).enterRescue k p
  else
    let (c, ok4) := c.trainSlow k p at4 (!pc.lost4)
    if ok4 then c else (c.onPc k p (·.setMap 0)).reserveUnusable [(k, p)]

/-! ### Compare runs (R404-R407, R720) -/

/-- Whether a compare run may start on a pseudo-channel (R406). -/
def Pc.mayCompare (pc : Pc) : Bool := pc.state == .training || pc.state == .retrainHold || pc.state == .rescue

/-- Write the fields of CHC_TRN_CTL but START. -/
def Chc.writeTrnCtl (h : Chc) (v : Nat) : Chc :=
  { h with trnCtl := fld 16 4 (natBits v 16 4) + fld 12 2 (natBits v 12 2) + fld 8 2 (natBits v 8 2) + fld 4 1 (natBits v 4 1) }

/-- The pattern kind and the user pattern of a run go to the core die: USER_PAT, then MODE with PATTERN 11 taken as 00 (R400). -/
def Pc.runModes (pc : Pc) (ctl user : Nat) : Pc :=
  let us := (below 4).map (fun i => (0x42 + i, natBits user (16 * i) 16))
  let pc := { pc.modeWritten with runRetry := false }
  { pc with mrs := mergeTab (pc.mrs.put 0x41 (runKind ctl)) us }.pendMrws
    (us ++ [(0x41, pc.modeWord (runKind ctl) (natBits ctl 12 2 == 2))])

/-- A write of 1 to CHC_TRN_CTL.START (R406, R407). -/
def Chc.trnStart (h : Chc) : Chc :=
  let p := natBits h.trnCtl 4 1
  if h.trnBusy || !(h.pc p).mayCompare || natBits h.trnCtl 12 2 == 3 then h
  else
    { (h.onPc p (·.runModes h.trnCtl (h.patLo + h.patHi * 2 ^ 32))) with
      runCtl := h.trnCtl, runPat := h.patLo + h.patHi * 2 ^ 32
      trnFail := 0, trnDone := false, trnCnts := [], trnBusy := true }

/-- A write of CHC_TRN_CTL. -/
def Chip.writeTrnCtl (c : Chip) (k v : Nat) : Chip :=
  if !c.on then c else c.onChc k (fun h => if natBit v 0 then (h.writeTrnCtl v).trnStart else h.writeTrnCtl v)

/-- A run is over: BUSY falls, DONE rises, and the counts stand (R407). -/
def Chc.endRun (h : Chc) (counts : List (Nat × Nat)) : Chc :=
  { (h.onPc (natBits h.runCtl 4 1) (fun pc => { pc with runRetry := false })) with
    trnBusy := false, trnDone := true, trnCnts := counts
    trnFail := counts.foldl (fun a e => if e.2 = 0 then a else a + 2 ^ e.1) 0 }

/-- What the core die's registers hold after a run (R400, R405): ERR_l after a write run, CMD_CAP after a command run. -/
def Chc.runRegs (h : Chc) (recv : List (Fin 38 × Nat × BitVec 16)) : Chc :=
  let ctl := h.runCtl
  let p := natBits ctl 4 1
  match natBits ctl 12 2 with
  | 1 => h.onPc p (fun pc => { pc with mrs := (below 38).foldl (fun t l =>
      let n := runCount ctl h.runPat recv l
      if n = 0 then t else t.put (0x50 + l) (min max16 n)) pc.mrs })
  | 2 =>
    let (r, q) := lastCapture ctl h.runPat recv
    h.onPc p (fun pc => { pc with mrs := ((pc.mrs.put 0x48 (natBits r 0 16)).put 0x49 (natBits r 16 10)).put 0x4A q })
  | _ => h

/-- The last burst or command cycle of a run has been compared, in a block that serves (R584): mismatches are counted at the base die for a read run, read by MRR from ERR_l
for a write run, and taken from CMD_CAP after each command for a command run (R405, R407). A run that an ALERT spoils does not end (R720). -/
def Chip.trnRunEnd (c : Chip) (k : Nat) (recv : List (Fin 38 × Nat × BitVec 16)) : Chip :=
  let h := c.chc k
  let p := natBits h.runCtl 4 1
  if !(c.live && h.trnBusy && !(h.pc p).alert) then c
  else
    c.onChc k (fun h =>
      let h := h.runRegs recv
      let (h, ns) :=
        if natBits h.runCtl 12 2 == 1 then h.mrr p (upFrom 0x50 38)
        else (h, (below (runLanes h.runCtl)).map (fun l => min max32 (runCount h.runCtl h.runPat recv l)))
      h.endRun ((numbered 0 ns).filter (·.2 != 0)))

/-- A run ends sooner when its pseudo-channel leaves the states of R406; the counts it has reached are free values (R407). -/
def Chip.runTick (c : Chip) (k : Nat) : Chip :=
  let h := c.chc k
  if h.trnBusy && !(h.pc (natBits h.runCtl 4 1)).mayCompare then
    let (n, c) := c.drawFree
    c.onChc k (fun h => h.endRun ((below (runLanes h.runCtl)).map (fun l => (l, Config.runReached n l % (16 * runGroups h.runCtl l + 1)))))
  else c

/-! ### Replay and retraining (R387-R391, R417, R418, R720) -/

/-- An ACT of a bank that the bank model shows closed. -/
def RetryEnt.opens (e : RetryEnt) (pc : Pc) : Bool := match e.cmd with | .act b _ _ => !pc.modelRows.has b | _ => false

/-- ALERT has risen, so the die has ignored every command of pseudo-channel `p` that has not retired (R386): every entry before the failing
cycle has retired by then, log entry 53. They are retained (R387 step 5), an ACT by which a failed replay was to open a row again among them;
the rest of that replay's own commands are given up. The rows to open again are those that the bank model shows open (R387 step 4) and those
that the failed replay had still to open. -/
def Chc.retainAll (h : Chc) (p : Nat) : Chc :=
  let pc := h.pc p
  let fresh := !h.retains p
  let again := h.retry.filter (fun e => e.p == p && e.aux && e.opens pc)
  let kept := h.retry.filter (fun e => !(e.p == p && e.aux))
  let ignored := h.retry.any (fun e => e.p == p && !e.wait && e.cmd == .refab)
  { (h.onPc p (fun pc => { pc with
      inRef := pc.inRef && !ignored
      reopens := (if fresh && again.isEmpty && pc.script.isEmpty then pc.modelRows else mergeTab pc.reopens pc.modelRows).filter
        (fun r => !again.any (fun e => e.cmd.bank == some r.1)) })) with
    retry := again.map (fun e => { e with wait := true, aux := false }) ++
      kept.map (fun e => if e.p == p then { e with wait := true } else e) }

/-- REFabs that the die has ignored outside a replay are owed again, DEDUCED from R367, log entry 53; in a replay (`hold`) that holds only of
those that issued beside it. -/
def Chc.oweIgnored (h : Chc) (p : Nat) (hold : Bool) : Chc :=
  let lost (e : RetryEnt) : Bool := e.p == p && !e.wait && e.cmd == .refab && (e.aux || !hold)
  { (h.onPc p (fun pc => { pc with
      owed := pc.owed + (h.retry.filter lost).length, inRef := pc.inRef && !h.retry.any lost })) with
    retry := h.retry.filter (fun e => !lost e) }

/-- Whether a command reads a mode register or writes one that holds no setting. -/
def DramCmd.isMode : DramCmd → Bool
  | .mrw m _ => 0x41 ≤ m && m ≤ 0x46
  | .mrr _ => true
  | .act .. | .pre _ | .prea | .refab | .clrAlert | .rd .. | .wr .. => false

/-- Mode-register commands of a training procedure that the die has ignored are to issue again, in their order (R720). -/
def Chc.modesAgain (h : Chc) (p : Nat) : Chc :=
  let lost (e : RetryEnt) : Bool := e.p == p && !e.wait && e.cmd.isMode
  let ms := (h.retry.filter lost).map (·.cmd)
  let ws := ms.filterMap (fun m => match m with | .mrw r v => some (r, v) | _ => none)
  { (h.onPc p (fun pc => { pc with
      changes := if ws.isEmpty then pc.changes else ⟨[], ws⟩ :: pc.changes
      mrrs := ms.filterMap (fun m => match m with | .mrr r => some r | _ => none) ++ pc.mrrs })) with
    retry := h.retry.filter (fun e => !lost e) }

/-- A compare run that an ALERT spoils is discarded and runs again; a second ALERT in the same run leaves no working setting at the rate
tried (R720): a run that software started, or run `own` of the sweeps that the training makes itself. -/
def Pc.spoilRun (pc : Pc) (soft : Bool) (own : Option (Bool × Nat)) : Pc :=
  let lose (pc : Pc) (r4 : Bool) : Pc := { pc with runRetry := false, ownRun := none, lost8 := pc.lost8 || !r4, lost4 := pc.lost4 || r4 }
  let rate := match own with | some (r4, _) => r4 | none => pc.rate4
  if soft then (if pc.runRetry then lose pc rate else { pc with runRetry := true })
  else if own.isNone then pc
  else if pc.ownRun == own then lose pc rate
  else { pc with ownRun := own }

/-- A rise of ALERT while a pseudo-channel trains (R720): CLR_ALERT is to be issued, and the compare run in progress is run again. What was
in flight as a retraining hold or a rescue began, and the die has ignored, is replayed once the procedure has succeeded (R390, R419). -/
def Chc.alertInTraining (h : Chc) (p : Nat) (own : Option (Bool × Nat)) : Chc :=
  let soft := h.trnBusy && natBits h.runCtl 4 1 == p
  let h := ((h.oweIgnored p false).modesAgain p).retainAll p
  let h := if soft then { h with trnCnts := [], trnFail := 0 } else h
  h.onPc p (fun pc => { (pc.spoilRun soft own) with alert := true, script := [.clrAlert] })

/-- What a replay issues before it reissues (R387 steps 2 to 4): CLR_ALERT, PREA, and an ACT for each row that is to be open again. -/
def Pc.replayScript (pc : Pc) : List DramCmd := [.clrAlert, .prea] ++ pc.reopens.map (fun e => .act e.1 e.2.1 0)

/-- A replay begins (R387): what the die has ignored is retained, and the script of the replay is to be issued. -/
def Chc.beginReplay (h : Chc) (p : Nat) : Chc :=
  ((h.oweIgnored p true).retainAll p).onPc p (fun pc => { pc with replaying := true, script := pc.replayScript })

/-- A rise of ALERT in the fault state, where nothing but refresh goes on (R373, R584): CLR_ALERT is to be issued, and no replay follows. -/
def Chc.alertInFault (h : Chc) (p : Nat) : Chc :=
  ((h.oweIgnored p false).retainAll p).onPc p (fun pc => { pc with alert := true, script := [.clrAlert] })

/-- Both pseudo-channels of a channel are held and the channel is retrained (R390); the training procedure ends a parity failure itself. A
pseudo-channel in RESCUE is held with the other but keeps its STATE and is not retrained: R390 and R417 leave the case open, and this is a
DESIGN CHOICE, log entry 55. -/
def Chip.beginRetrain (c : Chip) (k p : Nat) : Chip :=
  let hold (h : Chc) (q : Nat) : Chc :=
    if (h.pc q).state == .normal then
      (h.dropAux q).onPc q (fun pc => { pc with
        state := .retrainHold, replaying := false, script := if pc.alert then [.clrAlert] else [], runRetry := false, ownRun := none
        lost8 := false, lost4 := false }.sweepModes)
    else h
  (c.onChc k (fun h => { hold (hold h 0) 1 with cntRetrain := bump32 h.cntRetrain })).raise (fltChc k) ⟨1, 0x61, p⟩

/-- Whether ALERT of a pseudo-channel can rise for a cycle that its die received so: the word fails the die's check, which it makes unless
MODE.CAPTURE is set (R403), and it is not already high with no CLR_ALERT under way (R386). -/
def Chip.canAlert (c : Chip) (k p : Nat) (r : Reception) : Bool :=
  let h := c.chc k
  (h.pc p).driven && r.fails && !h.capture p &&
  (!(h.pc p).alert || h.retry.any (fun e => e.p == p && e.cmd == .clrAlert))

/-- ALERT of a pseudo-channel rises (R387, R388, R390, R392, R720). -/
def Chip.alertRise (c : Chip) (k p : Nat) (r : Reception) : Chip :=
  let pc := c.pc k p
  if !(c.on && c.canAlert k p r) then c
  else
    let c := c.onChc k (fun h => { (h.onPc p (fun pc => { pc with alert := true })) with cntAlert := bump32 h.cntAlert })
    if c.flt.fault then c.onChc k (·.alertInFault p)
    else
    let c := c.raise (fltChc k) ⟨1, 0x60, p⟩
    if pc.trains then c.onChc k (·.alertInTraining p r.own)
    else if !pc.replaying then c.onChc k (fun h => (h.beginReplay p).onPc p (fun pc => { pc with fails := 0 }))
    else
      let c := c.onChc k (fun h => { ((h.beginReplay p).onPc p (fun pc => { pc with fails := pc.fails + 1 })) with
        cntReplayFail := bump32 h.cntReplayFail })
      if 4 < pc.fails + 1 then
        -- the replay that followed a passed retraining has failed (R390)
        if pc.state == .normal then c.enterRescue k p else c.onPc k p (fun pc => { pc with fails := 4, script := [] })
      else if pc.fails + 1 = 4 then
        if pc.state != .normal then c.onPc k p (fun pc => { pc with script := [] })
        else if (c.chc k).test == .underTest then
          -- the channel test stops first, and the hold begins when its restore has ended (R556)
          let c := c.onPc k p (fun pc => { pc with script := [] })
          let owed := ((c.pc k 0).owed, (c.pc k 1).owed)
          { c with boot := { c.boot with field := c.boot.field.map (fun t => { t with abort := true, owed0 := owed }) } }
        else c.beginRetrain k p
      else c

/-- Every command of a replay has retired, in a block that serves (R584): the episode ends, and an urgent refresh that fell due in it issues (R388, R391). -/
def Chip.replayEnd (c : Chip) (k p : Nat) : Chip :=
  let pc := c.pc k p
  if !(c.live && pc.replaying && !pc.alert && pc.script.isEmpty && !(c.chc k).retry.any (fun e => e.p == p)) then c
  else
    let c := c.onPc k p (fun pc => { pc with replaying := false, fails := 0 })
    if 0 < pc.urgent then c.withBandEval k p (·.refabIssue k p) else c

/-- A pseudo-channel goes on with what it retains once the hold or the training that stopped it has succeeded: it replays once more
(R390, R419). -/
def Chc.resumeReplay (h : Chc) (p : Nat) : Chc :=
  let again := (h.pc p).fails != 0 || h.retains p
  h.onPc p (fun pc => { pc with replaying := again, script := if again then pc.replayScript else [] })

/-- The centre of a lane's sweep in a retraining: its DELAY in force, or 64 on a spare that the retraining puts to use (R417). -/
def Pc.nearCentre (pc : Pc) (g l : Nat) : Nat :=
  if g < 2 && 36 ≤ l && !pc.lanesInUse.contains l then 64 else (pc.setting (64 * g + l)).delay

/-- A data lane fails a retraining in either direction; every command lane passes (R417). -/
def Pc.nearFails (pc : Pc) (a : RetrainAttempt) (l : Nat) : Bool :=
  !(nearOk (pc.nearCentre 0 l) (a.rd.lane l) && nearOk (pc.nearCentre 1 l) (a.wr.lane l))
def Pc.nearCmdOk (pc : Pc) (a : RetrainAttempt) : Bool := (below 23).all (fun l => nearOk (pc.nearCentre 2 l) (a.cmd.lane l))

/-- The setting that a retraining gives a lane: the middle code of its window, with VREF as in force (R417). -/
def Pc.nearSetting (pc : Pc) (g l mask : Nat) : Nat × Setting :=
  (64 * g + l, { pc.setting (64 * g + l) with delay := middle (nearWindow (pc.nearCentre g l) mask) })

/-- The settings of a retraining of the lanes `ls` in use after its repairs, `pc` being the pseudo-channel before them (R417). -/
def Pc.retrained (pc : Pc) (a : RetrainAttempt) (ls : List Nat) : List (Nat × Setting) :=
  ls.flatMap (fun l => [pc.nearSetting 0 l (a.rd.lane l), pc.nearSetting 1 l (a.wr.lane l)]) ++
  (below 23).map (fun l => pc.nearSetting 2 l (a.cmd.lane l))

/-- The retraining of one held pseudo-channel ends, and whether it has failed (R390, R417, R418). Repairs of one that fails are given up with
it (R414). -/
def Chip.retrainOne (c : Chip) (k p : Nat) (a : RetrainAttempt) : Chip × Bool :=
  let pc := c.pc k p
  if pc.state != .retrainHold then (c, false)
  else
    let (c, ok) := if !pc.ruledOut && pc.nearCmdOk a then c.moveLanes k p (lanesThat (pc.nearFails a)) else (c, false)
    if ok then
      (c.onChc k (fun h => (h.onPc p (fun x =>
        { (x.setNow (pc.retrained a x.lanesInUse)).quiet with state := .normal })).resumeReplay p), false)
    else (c.onPc k p (·.setMap pc.laneMap), true)

/-- The retraining under the hold of both pseudo-channels ends (R418): those of a data controller that have failed enter rescue, those of a
reserve controller become unusable at one moment (R207, R422). -/
def Chip.retrainEnd (c : Chip) (k : Nat) (r0 r1 : RetrainAttempt) : Chip :=
  if !c.live then c
  else
    let (c, f0) := c.retrainOne k 0 r0
    let (c, f1) := c.retrainOne k 1 r1
    let bad := (if f0 then [0] else []) ++ (if f1 then [1] else [])
    if k < 64 then bad.foldl (fun c p => c.enterRescue k p) c
    else if bad.isEmpty then c else c.reserveUnusable (bad.map (fun p => (k, p)))

/-! ### Rescue (R419-R421) -/

/-- Queue the racking of every bank that took an entry in step 2 of a rescue (R419, R475). -/
def Chip.queueRescue (c : Chip) (k p : Nat) (es : List (Nat × Nat)) : Chip :=
  es.foldl (fun c (b, e) => c.queueRack { kind := .rescue, bank := 32 * k + 16 * p + b, row := 0, entry := e, logged := true }) c

/-- The row that a request packet of the crossbar is for. -/
def PktBody.rowOf : PktBody → Option RowLoc
  | .part r => some r.row
  | .gran g => some g.row
  | _ => none

/-- Whether a slice holds a line, a buffered block, a request or an access for a row that satisfies `P`. -/
def Slice.worksOn (x : Slice) (s : Nat) (P : RowLoc → Bool) : Bool :=
  x.busy.any (fun (p, b, r, _) => P ⟨s, p, b, r⟩) ||
  x.inBuf.any (fun (_, i) => match i with | .op r => P r.row | .walk _ => false) ||
  x.lockLane.any (fun (_, g) => P g.row) || x.granWait.any (fun (_, g) => P g.row) || x.cq.any (fun (_, o, _) => P o.row) ||
  List.any x.ops (fun (e : Nat × SliceOp) => P e.2.src.row) || x.out.any (fun m => P m.home) || x.ret.any (fun r => P r.home)

/-- Whether the queues of a pseudo-channel and its entries of the retry buffer are empty. -/
def Chc.pcEmpty (h : Chc) (p : Nat) : Bool :=
  let pc := h.pc p
  pc.fifo.isEmpty && pc.rq.isEmpty && pc.wq.isEmpty && pc.bursts.isEmpty && !h.retry.any (fun e => e.p == p)

/-- Whether work for a data pseudo-channel is under way: a part or a granule operation on its way or in its slice, a chunk that has started,
and every command that the slice or the channel controller holds for it (R239). -/
def Chip.underWay (c : Chip) (k p : Nat) : Bool :=
  let on := c.standsAt k p
  (c.slice k).worksOn k on || !(c.chc k).pcEmpty p ||
  c.xbr.pkts.any (fun x => x.vc == .req && x.body.rowOf.any on) ||
  c.presses.any (fun e => e.2.chunk.any (fun x => x.todo.any (fun g => on g.row)))

/-- Step 2 of a rescue goes on (R239, R419): once the work under way has completed, the slice writes back and invalidates the
pseudo-channel's lines; when none is left the banks take entries, or the pseudo-channel stays at 4 Gb/s. -/
def Chip.rescueTick (c : Chip) (k p : Nat) : Chip :=
  let pc := c.pc k p
  if !(pc.state == .rescue && pc.rescueStep == 2) || (!pc.rescueWb && c.underWay k p) then c
  else
    let c := (c.onPc k p (fun pc => { pc with rescueWb := true })).cleanLines k (fun l => c.standsAt k p (l.rowLoc k))
    if List.any (c.slice k).lines (fun e => c.standsAt k p (e.2.rowLoc k)) then c
    else
      let need := !(c.bareBanks k p).isEmpty
      let (c, es) := c.substitute k p 2 true
      if es.isEmpty && need then
        (c.onPc k p (fun pc => { pc with state := .normal, rescueStep := 0, rescueWb := false })).rateFallback k p
      else
        let now := c.keep
        (c.onPc k p (fun pc => { pc with rescueStep := 3, rescueMark := now })).queueRescue k p es

/-- The training of step 1 of a rescue ends (R239, R419): the work that waited goes on at 4 Gb/s, and step 2 follows; or the pseudo-channel
is fenced with its blocks lost, and the repairs of the attempt are given up (R414). -/
def Chip.rescueTrainEnd (c : Chip) (k p : Nat) (a : TrainAttempt) : Chip :=
  let pc := c.pc k p
  if !(c.live && pc.state == .rescue && pc.rescueStep == 1) then c
  else
    let (c, ok) := c.trainAt k p a (!pc.ruledOut) true false
    if !ok then (c.onPc k p (·.setMap pc.laneMap)).fenceStep5 k p
    else
      (c.onChc k (fun h => (h.onPc p (fun pc => { pc.quiet with rescueStep := 2, rescueWb := false })).resumeReplay p)).rescueTick k p

/-- Whether the rackings of a pseudo-channel's banks are over and nothing waits for it. -/
def Chip.rescueOver (c : Chip) (k p : Nat) : Bool :=
  let pc := c.pc k p
  let x := c.die (k / 4)
  pc.state == .rescue && pc.rescueStep == 3 && pc.fails != 4 &&
  !(x.cur.toList ++ x.queue).any (fun j => j.kind != .row && j.bank / 16 == 2 * k + p) && !c.underWay k p

/-- Every bank of a rescue is racked: the pseudo-channel is fenced with nothing lost (R419 step 4). -/
def Chip.rescueRackDone (c : Chip) (k p : Nat) : Chip :=
  if !(c.live && c.rescueOver k p) then c
  else
    let rows := (c.pc k p).rescueRows
    let c := ((c.fencePc k p).endQueues k p).endCopied k p
    let c := (c.substitute k p 2 false).1.siftAll
    let c := c.raise (fltChc k) ⟨1, 0x65, p⟩
    let c := c.ringRec { type := 0x0E, cls := 1, source := fltChc k, arg0 := p, arg1 := rows }
    c.laneHistPc 4 k p 0

/-! ### Calibration passes (R425-R434) -/

/-- Whether a pass of a pseudo-channel may run (R425). -/
def Chip.calMayRun (c : Chip) (k p : Nat) : Bool :=
  let pc := c.pc k p
  pc.state == .normal && !pc.replaying && (c.chc k).test == .normal

/-- MON_D and MON_V in force. -/
def Chc.monD (h : Chc) : Nat := max 1 (natBits h.calCfg.live 8 5)
def Chc.monV (h : Chc) : Nat := max 1 (natBits h.calCfg.live 16 4)

/-- MODE and MON_OFS go to the core die (R400, R426). -/
def Pc.monModes (pc : Pc) : Pc := pc.pendMrws [(0x41, pc.modeWord (pc.mrs.get 0 0x41) false), (0x46, pc.monOfs)]

/-- A pass starts (R425, R434), with the configuration in force then (R440). -/
def Chip.startPass (c : Chip) (k p : Nat) (byCmd : Bool) : Chip :=
  let us := c.us
  let h := c.chc k
  c.onPc k p (fun pc => { pc.modeWritten with cal := some { startUs := us, byCmd := byCmd, monD := h.monD, monV := h.monV } }.monModes)

/-- A running pass stops when its pseudo-channel enters a replay, a hold, rescue or a fence, or its channel a test (R425). -/
def Chip.calTick (c : Chip) (k p : Nat) : Chip :=
  match (c.pc k p).cal with
  | some x => if x.stopped || c.calMayRun k p then c else c.onPc k p (fun pc => { pc with cal := some { x with stopped := true } })
  | none => c

/-- The calibration period of a pseudo-channel expires (R425). -/
def Chip.calPassStart (c : Chip) (k p : Nat) : Chip :=
  if c.live && c.boot.st == .ready && natBits (c.chc k).calCfg.live 0 8 != 0 && c.calMayRun k p && (c.pc k p).cal.isNone then
    c.startPass k p false
  else c

/-- The statistics of a lane in window `i` of a direction: D, T and N. -/
def CalDir.stat (x : CalDir) (i lane : Nat) : Nat × Nat × Nat :=
  match (x.wins.getD i []).find? (fun e => e.1 == lane) with
  | some (_, d, t, n) => (d, t, n)
  | none => (0, 0, 0)

/-- round(m × (e− − e+) / (e− + e+)) limited to ±4, for e = a/b; 0 where the sum is 0 (R428). Where a window saw no transition,
the manual states no quotient, and the shift is a free value within its limits. -/
def calShift (m am bm ap bp : Nat) : Int :=
  let x := am * bp
  let y := ap * bm
  if bm = 0 || bp = 0 then (Config.noTransition am ap % 9 : Nat) - 4
  else if x + y = 0 then 0
  else max (-4) (min 4 (roundDiv (m * ((x : Int) - y)) (x + y)))

/-- The candidate of one setting of a lane from result `r` of a direction, as an integer (R428). -/
def CalDir.candidate (x : CalDir) (y : CalPass) (s : Setting) (r lane : Nat) (isDelay : Bool) : Int :=
  let i := 4 * r + (if isDelay then 0 else 2)
  let (dm, tm, _) := x.stat i lane
  let (dp, tp, _) := x.stat (i + 1) lane
  if isDelay then s.delay + calShift y.monD dm tm dp tp
  else s.vref + calShift y.monV dm 1 dp 1

/-- The mean of two candidates rounded toward the in-force value (R429). -/
def meanToward (a b x : Int) : Int :=
  let s := a + b
  if s % 2 = 0 then s / 2 else if 2 * x < s then (s - 1) / 2 else (s + 1) / 2

/-- The accepted settings of a direction, or none where the two results do not agree (R429). -/
def CalDir.accepted (x : CalDir) (y : CalPass) (pc : Pc) (g : Nat) : Option (List (Nat × Setting)) :=
  let lanes := pc.lanesInUse
  let both (l : Nat) (isDelay : Bool) : Int × Int :=
    let s := pc.setting (64 * g + l)
    (x.candidate y s 0 l isDelay, x.candidate y s 1 l isDelay)
  let agree (l : Nat) (isDelay : Bool) : Bool := let (a, b) := both l isDelay; a - b ≤ 2 && b - a ≤ 2
  if lanes.all (fun l => agree l true && agree l false) then
    some (lanes.map (fun l =>
      let s := pc.setting (64 * g + l)
      let v (isDelay : Bool) : Nat :=
        let (a, b) := both l isDelay
        min (codeMax isDelay) (meanToward a b (s.val isDelay)).toNat
      (64 * g + l, ⟨v true, v false⟩)))
  else none

/-- A direction is accepted: the stored points follow and the in-force values with them; at 4 Gb/s the values themselves apply
(R431-R433). -/
def Pc.acceptDir (pc : Pc) (t : Int) (vs : List (Nat × Setting)) : Pc :=
  if pc.rate4 then pc.pendChange vs
  else (vs.foldl (fun pc (k, s) => (pc.acceptVal t k true s.delay).acceptVal t k false s.vref) pc).reeval t

/-- Outcome codes of a direction (CHC_CAL_STATUS). -/
def calAccepted : Nat := 1
def calLow : Nat := 2
def calUnstable : Nat := 3
def calInvalid : Nat := 4
def calSkipped : Nat := 5

/-- A direction of a pass ends with an outcome, which the counters take (R427). -/
def Chip.endDir (c : Chip) (k p : Nat) (wr : Bool) (out : Nat) : Chip :=
  c.onChc k (fun h => { (h.onPc p (fun pc => { pc with
      cal := pc.cal.map (fun x => if wr then { x with wr := { x.wr with outcome := out } } else { x with rd := { x.rd with outcome := out } }) }))
    with
    cntCalAcc := if out = calAccepted then bump32 h.cntCalAcc else h.cntCalAcc
    cntCalRef := if out = calUnstable || out = calInvalid then bump32 h.cntCalRef else h.cntCalRef })

/-- A pass is over: MODE.MON is cleared (R400). -/
def Chip.passOver (c : Chip) (k p : Nat) (x : CalPass) (out : Nat) : Chip :=
  (c.endCal k p x out).onPc k p (fun pc => pc.modeWritten.pendMrws [(0x41, pc.modeWord (pc.mrs.get 0 0x41) false)])

/-- A pass ends when both its directions have (R441). -/
def Chip.endPassIf (c : Chip) (k p : Nat) : Chip :=
  match (c.pc k p).cal with
  | some x => if x.rd.outcome = 0 || x.wr.outcome = 0 then c else c.passOver k p x (max x.rd.outcome x.wr.outcome)
  | none => c

/-- The statistics of a window as the controller has them, lane by lane: D, T and N. For writes it reads them by MRR from DIS_l, which
saturates, and TRANS_l and ONES_l, which count in units of 64 (R400, R426). -/
def windowStats (wr : Bool) (s : MonLane) : Nat × Nat × Nat :=
  if wr then (onLanes (min max16 s.d), 64 * onLanes (min max16 (s.t / 64)), 64 * onLanes (min max16 (s.n / 64))) else (s.d, s.t, s.n)

/-- What the core die's registers hold after a write window: ONES_l, TRANS_l and DIS_l of the lanes in use (R400). -/
def Pc.monRegs (pc : Pc) (stats : List (Fin 38 × MonLane)) : Pc :=
  { pc with mrs := stats.foldl (fun t s =>
    ((t.put (0x80 + s.1.val) (min max16 (s.2.n / 64))).put (0xA8 + s.1.val) (min max16 (s.2.t / 64))).put (0xD0 + s.1.val)
      (min max16 s.2.d)) pc.mrs }

/-- A window of a pass is over: that of a write window is read by MRR, and MON_OFS goes to the next (R400, R426). -/
def Pc.windowOver (pc : Pc) (wr : Bool) (used : List (Fin 38 × MonLane)) (x : CalPass) : Pc :=
  let pc := { (if wr then pc.monRegs used else pc) with cal := some x }
  if wr then (pc.pendMrrs (used.flatMap (fun s => [0xD0 + s.1.val, 0xA8 + s.1.val, 0x80 + s.1.val]))).pendMrws [(0x46, pc.monOfs)] else pc

/-- A monitor window of one direction ends (R426-R429). -/
def Chip.monitorWindow (c : Chip) (k p : Nat) (wr : Bool) (stats : List (Fin 38 × MonLane)) : Chip :=
  let pc := c.pc k p
  match pc.cal with
  | none => c
  | some x =>
    let dir := if wr then x.wr else x.rd
    let lanes := pc.lanesInUse
    if !(c.live && !x.stopped && c.calMayRun k p && dir.outcome == 0 && lanes.all (fun l => stats.any (fun s => s.1.val == l))) then c
    else
      let used := stats.filter (fun s => lanes.contains s.1.val)
      let win := used.map (fun s => (s.1.val, windowStats wr s.2))
      let dir := { dir with wins := dir.wins ++ [win] }
      let c := c.onPc k p (·.windowOver wr used (if wr then { x with wr := dir } else { x with rd := dir }))
      if win.any (fun e => 10 * e.2.2.2 < 4 * 2 ^ 20 || 6 * 2 ^ 20 < 10 * e.2.2.2) then (c.endDir k p wr calInvalid).endPassIf k p
      else if dir.wins.length < 8 then c
      else
        match dir.accepted x (c.pc k p) (flagNat wr) with
        | none => (c.endDir k p wr calUnstable).endPassIf k p
        | some vs =>
          let t := c.dieTemp8 k
          ((c.onPc k p (·.acceptDir t vs)).endDir k p wr calAccepted).endPassIf k p

/-- 40 ms after the start of a pass, the directions whose windows have not all ended close (R427, R431). -/
def Chip.calLowTraffic (c : Chip) (k p : Nat) : Chip :=
  match (c.pc k p).cal with
  | none => c
  | some x =>
    if !(c.live && !x.stopped && c.calMayRun k p) then c
    else
      let c := if x.rd.outcome = 0 then c.endDir k p false calLow else c
      let c := if x.wr.outcome = 0 then c.endDir k p true calLow else c
      (c.endPassIf k p).reeval k p

/-- A running pass ends CAL_SKIPPED: its pseudo-channel has left NORMAL or replays, or its channel is in test (R425). -/
def Chip.calSkip (c : Chip) (k p : Nat) : Chip :=
  match (c.pc k p).cal with
  | some x => if c.on && (x.stopped || !c.calMayRun k p) then c.passOver k p x calSkipped else c
  | none => c

/-! ### Register writes of R440 -/

/-- A write of CHC_LANE_MAP0 or 1 (R440). LANE_MUX follows: at once in a training, else at a REFab (R398, R401, R412). -/
def Chip.writeLaneMap (c : Chip) (k p v : Nat) : Chip :=
  if c.on && (c.pc k p).mayCompare then
    let m := flag 31 (natBit v 31) + fld 24 6 (natBits v 24 6) + flag 23 (natBit v 23) + fld 16 6 (natBits v 16 6) +
      flag 15 (natBit v 15) + fld 8 6 (natBits v 8 6) + flag 7 (natBit v 7) + fld 0 6 (natBits v 0 6)
    c.onPc k p (fun pc =>
      if pc.trains then pc.setMap m else let pc := { pc with laneMap := m }; pc.pendMrws [(0x40, pc.muxWord)])
  else c

/-- The setting that CHC_CAL_SEL names: set, pseudo-channel, key. -/
def Chc.calSelected (h : Chc) : Option (Nat × Nat × Nat) :=
  let g := natBits h.calSel 9 2
  let l := natBits h.calSel 0 6
  if l < groupLanes g then some (natBits h.calSel 11 2, natBits h.calSel 8 1, 64 * g + l) else none

/-- CHC_CAL_VAL as a read shows it. -/
def Chc.calVal (h : Chc) : Nat :=
  match h.calSelected with
  | some (set, p, key) => (if set = 0 then (h.pc p).setting key else (h.pc p).point set key).word
  | none => 0

/-- A write of CHC_CAL_VAL (R440). -/
def Chip.writeCalVal (c : Chip) (k v : Nat) : Chip :=
  let h := c.chc k
  let s : Setting := ⟨natBits v 0 7, natBits v 8 6⟩
  if !c.on then c
  else
    match h.calSelected with
    | some (0, p, key) => if (h.pc p).mayCompare then c.onPc k p (·.setNow [(key, s)]) else c
    | some (set, p, key) => c.onPc k p (·.setPoint set key s)
    | none => c

end Sys2Proof.Machine
end

