-- ==== Sys2Proof/Machine/Fault.lean ====
section
/-! DEFINITION. Fault collection (R562-R597, R723): capture, fetch, records, the first event, blanking windows, escalation, and
the fault state. -/

namespace Sys2Proof.Machine

/-! ### Ignored lines (R567) -/

/-- Whether a test block failed at boot or in the field. -/
def Chip.testFailed (c : Chip) (i : Nat) : Bool :=
  let r := (c.boot.results.get {} i).result
  r == 2 || r == 3

/-- Whether FLT ignores the line of a block: its test failed, its port is not enabled, or its channel is slice-dead. -/
def Chip.ignored (c : Chip) (blk : Nat) : Bool :=
  if blk < 16 then
    match blk with
    | 4 => c.testFailed 9
    | 7 => c.testFailed 8
    | 8 => c.testFailed 6
    | 9 => c.testFailed 7
    | _ => false
  else if blk < 48 then c.testFailed blk || !(c.port (blk - 16)).enabled
  else if blk < 112 then c.testFailed blk || c.sliceDead (blk - 48)
  else if blk < 184 then c.testFailed (blk + 64) || (blk < 176 && c.sliceDead (blk - 112))
  else if blk < 200 then c.testFailed (blk + 64)
  else false

/-- Whether the synchronised line of a block is high as FLT sees it (R566). -/
def Chip.lineHigh (c : Chip) (blk : Nat) : Bool := !c.ignored blk && (c.flt.evs.get {} blk).line

/-! ### Several events of one block in one cycle (R563) -/

/-- The event that is kept when several arise at once. -/
def keptOf : List Event → Option Event
  | [] => none
  | e :: t => match keptOf t with
    | none => some e
    | some k => if e.before k then some e else some k

/-- Events of one block arise in the same cycle: one is kept and the others join the count. -/
def Chip.raiseAll (c : Chip) (blk : Nat) (es : List Event) : Chip :=
  match keptOf es with
  | none => c
  | some k => (es.erase k).foldl (fun c e => c.raise blk e) (c.raise blk k)

/-- A level condition of block `blk` begins in the cycle of the block's events `es` (R563, R564). -/
def Chip.raiseAllLevel (c : Chip) (blk : Nat) (es : List Event) (e : Event) : Chip := (c.raiseAll blk (es ++ [e])).holdLevel blk e

/-! ### Fault records (R592, R630) -/

/-- FLT_FIRST as a read shows it. -/
def Flt.firstWord (f : Flt) : Nat :=
  match f.first with
  | some x => if x.done then 2 ^ 31 + fld 29 2 x.ev.cls + flag 28 (!x.also.isEmpty) + fld 16 8 x.ev.code + fld 8 8 x.blk else 0
  | none => 0

/-- The detail of the first event. -/
def Flt.firstDetail (f : Flt) : Nat := match f.first with | some x => if x.done then x.ev.detail else 0 | none => 0

/-- The blocks of FLT_FIRST_ALSO, rising. -/
def Flt.alsoList (f : Flt) : List Nat :=
  match f.first with
  | some x => if x.done then (below 256).filter (fun b => x.also.contains b) else []
  | none => []

/-- The bytes of a fault record from byte 14 on (R630). -/
def Flt.recordBody (f : Flt) (blk : Nat) (e : Event) (multiOnly cut : Bool) : List Byte :=
  let also := f.alsoList
  leBytes 1 blk ++ leBytes 1 e.code ++ leBytes 1 (fld 0 2 e.cls + flag 2 multiOnly + flag 3 cut) ++ leBytes 1 0 ++
  leBytes 2 e.detail ++ leBytes 4 f.firstWord ++ leBytes 2 f.firstDetail ++ leBytes 1 (min 255 also.length) ++ leBytes 1 0 ++
  (below 8).flatMap (fun i => leBytes 1 ((also[i]?).getD 0xFF))

/-- A fault record goes to the cellar book (R592, R623, R624). One of an event that FLT fetches before NVM has loaded waits for it. -/
def Chip.faultRec (c : Chip) (blk : Nat) (e : Event) (multiOnly cut : Bool) (what : NvmFor) : Chip :=
  if c.on && !c.nvm.up && !c.nvm.failed && !c.flt.fault && c.thm.shut == .none then
    { c with nvm := { c.nvm with
        faultQ := c.nvm.faultQ ++ [{ area := areaFault, slot := none, body := c.flt.recordBody blk e multiOnly cut, us := c.us, what := what }] } }
  else if !(c.nvmOpen || (what == .fatal && c.nvm.up && !c.nvm.failed && c.thm.shut == .none)) then c
  else
    match c.nvm.takesRecord areaFault with
    | some n => { c with nvm := Nvm.kick { n with
        faultQ := n.faultQ ++ [{ area := areaFault, slot := none, body := c.flt.recordBody blk e multiOnly cut, us := c.us, what := what }] } }
    | none => { c with nvm := { c.nvm with cntDrop := bump32 c.nvm.cntDrop } }

/-! ### The fault state (R583-R585, R80, R219) -/

/-- A port in the fault state: silent and DOWN (R72, R80). -/
def Port.silence (p : Port) : Port := if p.enabled && p.state != .down then { p with state := .down, reason := 11 } else p

/-- A slice in the fault state: its contents are discarded (R219). -/
def Slice.discard (s : Slice) : Slice := { s with lines := [], evbs := [], granWait := [], out := [], busy := [], locks := [] }

/-- NVM keeps only the write in progress and fault records of the fatal event (R625). -/
def Nvm.onlyFatal (n : Nvm) : Nvm :=
  { n with dirQ := [], faultQ := n.faultQ.filter (fun r => r.what == .fatal), retireQ := [], journalQ := [], userQ := [], flushQ := [], cntPend := 0 }

/-- NVM starts nothing more: every pending write is discarded (R515, R625). -/
def Nvm.dropQueues (n : Nvm) : Nvm :=
  { n with dirQ := [], faultQ := [], retireQ := [], journalQ := [], userQ := [], flushQ := [], cntPend := 0 }

/-- The management controller in the fault state: Xikan is halted and I3C silent, so no command that was taken is answered; a sideband
packet not yet taken is the responder's (R541, R584, R660). -/
def Mgt.halt (m : Mgt) : Mgt :=
  let ws := m.sbWait.filter (fun k => k.path == 1)
  { m with
    buf := [], queue := [], rsm := [], long := none, inReset := false, posted := [], sbWait := ws, sbBusy := !ws.isEmpty, jtagBusy := false
    i3c := { addr := m.i3c.addr } }

/-- The stack enters the fault state. -/
def Chip.enterFault (c : Chip) : Chip :=
  let c := c.life (lifeIx 0 2)
  let high := (below 256).filter c.lineHigh
  let now := c.keep
  { c with
    flt := { c.flt with fault := true, aliveOn := false, alive := false, frozen := high, frozenAt := now }
    boot := { c.boot with st := .fault, cause := 8, field := none }
    ports := c.ports.map (fun (n, p) => (n, p.silence))
    slices := c.slices.map (fun (s, x) => (s, x.discard))
    nvm := c.nvm.onlyFatal
    mgt := c.mgt.halt }

/-! ### Capture (R565, R578, R580) -/

/-- Whether a blanking window covers a block. -/
def Flt.covered (f : Flt) (blk : Nat) : Bool := f.windows.any (fun w => w.mask.contains blk)

/-- FLT captures rising lines in one cycle. -/
def Chip.capture (c : Chip) (blks : List Nat) : Chip :=
  if !(c.on && c.flt.on && !c.flt.fault) then c
  else
    let new := ((below 256).filter (fun b => blks.contains b)).filter (fun b => c.lineHigh b && !c.flt.high.contains b)
    if new.isEmpty then c
    else
      let f := c.flt
      { c with flt := { f with
          high := f.high ++ new, grp := f.grp + 1
          caps := f.caps ++ new.map (fun b => ⟨b, f.grp, c.us, f.covered b, new.filter (· != b)⟩) } }

/-- Blocks of a chunk's read buffer are lost: each counts as one that decoded as lost (R335, R337, R594). -/
def Chunk.loseBlocks (k : Chunk) (bs : List Nat) : Chunk :=
  let hit (b : BlkRes) : Bool := bs.contains b.ix && !b.status.flagged
  let n := (k.buf.filter (fun e => hit e.2)).length
  { k with
    buf := k.buf.map (fun (i, b) => (i, if hit b then { b with status := .poison, data := 0 } else b))
    lost := k.lost + n
    status := if n = 0 then k.status else k.status.merge .poison }

/-- The block whose error line an error raises. -/
def errBlock : HwErr → Nat
  | .mgtSramCe _ | .mgtSramUe _ => 2
  | .hpaTagCe p _ | .hpaTagUe p _ => fltHpa p
  | .prsRdbufCe p _ | .prsRdbufUe p _ _ => fltPrs p
  | .xbrParity _ => 8
  | .dctSram s _ _ _ => fltDct s

/-- A block raises the error that it has found in itself. The blocks of an uncorrectable read-buffer word count as lost (R335,
R337, R594). An error of a slice's SRAM is met by an access that no command names as its own: a request of the conflict queue, the granule
operation of a line lock, an eviction, a drain, a FLUSH walk, a rewrite (R218). -/
def Chip.hwErr (c : Chip) : HwErr → Chip
  | .mgtSramCe a => c.raise 2 ⟨1, 0x09, a.toNat⟩
  | .mgtSramUe a => c.raise 2 ⟨2, 0x0A, a.toNat⟩
  | .hpaTagCe p t => c.raise (fltHpa p) ⟨1, 0x42, t⟩
  | .hpaTagUe p t => (c.onPort p (fun q => { q with slots := { q.slots with stop := true } })).raise (fltHpa p) ⟨3, 0x43, t⟩
  | .prsRdbufCe p w => c.raise (fltPrs p) ⟨1, 0x70, w.toNat⟩
  | .prsRdbufUe p w bs =>
    (c.onPress p (fun x => { x with chunk := x.chunk.map (fun k => k.loseBlocks (bs.map (·.val))) })).raise (fltPrs p) ⟨2, 0x71, w.toNat⟩
  | .xbrParity e => c.raise 8 ⟨3, 0x30, e⟩
  | .dctSram s i j e =>
    match (c.slice s.val).lines.look i.val with
    | some l => (c.sramError (l.rowLoc s.val) i.val j.val true e).1
    | none => c

/-- A block raises an error of the cycle that began with `c0`: of the events that it raises in that cycle the most severe is kept, behind an
unfetched one from before they join the count (R563). -/
def Chip.hwErrWith (c c0 : Chip) (x : HwErr) : Chip :=
  let b := errBlock x
  let r := c.flt.evs.get ({} : EvReg) b
  let d := { c with flt := { c.flt with evs := c.flt.evs.put b ({} : EvReg) } }.hwErr x
  let e := (d.flt.evs.get ({} : EvReg) b).pend
  let d := { d with flt := { d.flt with evs := d.flt.evs.put b r, high := c.flt.high } }
  match e with
  | none => d
  | some e => if (c0.flt.evs.get ({} : EvReg) b).pend.isNone then d.raiseWith b e else d.raise b e

/-- ERROR_LINE_CAPTURE: the errors that blocks find in themselves, and the capture of lines. -/
def Chip.errorCapture (c : Chip) (blks : List Nat) (hw : List HwErr) : Chip :=
  if !c.live then c else (hw.foldl (fun d x => d.hwErrWith c x) c).capture blks

/-! ### The first event (R574-R576) -/

/-- Whether event `a` of block `i` is taken before event `b` of block `j` of the same capture cycle (R575). -/
def Event.firstBefore (a : Event) (i : Nat) (b : Event) (j : Nat) : Bool := b.cls < a.cls || (a.cls == b.cls && i < j)

/-- A fetched event is offered as the first event. Every other block captured with it, in a blanking window or not, is one of
FLT_FIRST_ALSO. -/
def Flt.offerFirst (f : Flt) (cap : Capture) (e : Event) : Flt :=
  let mine : First := ⟨e, cap.blk, cap.time, cap.grp, cap.mates, false⟩
  if cap.grp < f.firstFrom then f
  else
    match f.first with
    | none => { f with first := some mine }
    | some x =>
      if x.done then f
      else if cap.grp < x.grp then { f with first := some mine }
      else if cap.grp == x.grp && e.firstBefore cap.blk x.ev x.blk then { f with first := some mine }
      else f

/-- The first event stands once no capture of its cycle or an earlier one waits for its fetch; one made in a blanking window may turn out
fatal. -/
def Flt.settleFirst (f : Flt) : Flt :=
  match f.first with
  | some x =>
    if x.done || f.caps.any (fun c => f.firstFrom ≤ c.grp && c.grp ≤ x.grp) then f
    else { f with first := some { x with done := true } }
  | none => f

/-! ### Reactions (R577, R581) -/

/-- The window over a fence of a pseudo-channel of CHC `k`. -/
def fenceWindow (k : Nat) : Nat × List Nat := (fltChc k, if k < 64 then [fltChc k, fltDct k, fltPrs (k / 4)] else [fltChc k])

/-- The windows that a reaction opens, one for each fence: the reacting block and the neighbour mask. -/
def Chip.reaction (c : Chip) (blk : Nat) (e : Event) : List (Nat × List Nat) :=
  match e.code with
  | 0x08 | 0x0A => [(2, [2, 3, 4, 6, 7])]
  | 0x66 | 0x6A => [fenceWindow (blk - 112)]
  | 0x23 => (c.zone e.detail).given.map (fun x => fenceWindow x.1)
  | 0x29 =>
    let t := e.detail
    let target := if 248 ≤ t then fltPrs (t - 248) else if 176 ≤ t then fltChc (t - 176) else if 112 ≤ t then fltDct (t - 112) else fltDct (t - 48)
    [(target, [target])]
  | _ => []

/-- Whether an event asks for a block reset of MGT. -/
def Event.asksReset (e : Event) : Bool := e.code == 0x08 || e.code == 0x0A

/-- Whether a block reset of MGT now would come within 10 ms of the end of the one before (R581). -/
def Chip.resetTooSoon (c : Chip) : Bool := match c.flt.resetEnd with | some t => c.keep < t + 250000 | none => false

/-- Open a blanking window of 2 us. -/
def Chip.openWindow (c : Chip) (w : Nat × List Nat) : Chip :=
  { c with flt := { c.flt with windows := c.flt.windows ++ [⟨w.1, w.2, c.keep + 50⟩], lastWin := w.1 } }

/-- The in-band interrupt that a latch asks for (R591, R649). -/
def Chip.latchIbi (c : Chip) (blk : Nat) (e : Event) : Chip :=
  let i := c.mgt.i3c
  if e.cls = 1 && c.flt.ibiCe then
    { c with mgt := { c.mgt with i3c := { i with ibi2 := if i.ibi2.isNone then some (blk, e.code) else i.ibi2 } } }
  else if e.cls = 2 && c.flt.ibiUc then
    { c with mgt := { c.mgt with i3c := { i with ibi3 := if i.ibi3.isNone then some (blk, e.code) else i.ibi3 } } }
  else c

/-! ### Fetch (R568, R571, R578) -/

/-- Act on a fetched event outside a blanking window, with `n` events behind it. A fetch that was under way when the fault state was entered
is recorded, and starts nothing (R583). -/
def Chip.latch (c : Chip) (cap : Capture) (e : Event) (n : Nat) : Chip :=
  let soon := e.asksReset && c.resetTooSoon
  let e := if soon then { e with cls := 3 } else e
  let f := c.flt
  let had := f.recs.has cap.blk
  let rec' : FltRec := match f.recs.look cap.blk with
    | some r => { r with multi := satAdd max16 r.multi (1 + n) }
    | none => ⟨e, min max16 n⟩
  let f := { f with
    recs := f.recs.put cap.blk rec'
    cntCe := if e.cls = 1 then satAdd max32 f.cntCe (1 + n) else f.cntCe
    cntUc := if e.cls = 1 then f.cntUc else satAdd max32 f.cntUc (1 + n) }
  let f := (f.offerFirst cap e).settleFirst
  let c := { c with flt := f }
  if e.cls = 3 then
    let c := if e.code = 0x24 then c else c.faultRec cap.blk e had false .fatal
    if c.flt.fault then c else c.enterFault
  else if c.flt.fault then c
  else
    let c := if had then c else c.latchIbi cap.blk e
    let c := if e.cls = 2 && !had then c.faultRec cap.blk e false false .nothing else c
    let c := if e.asksReset then { c with mgt := { c.mgt with inReset := true } } else c
    (c.reaction cap.blk e).foldl Chip.openWindow c

/-- FLT fetches the event register of a block it has captured: also in the fault state, for a capture made before it, whose fetch is then
under way (R583; DEDUCED, log entry 29). -/
def Chip.eventFetch (c : Chip) (blk : Nat) : Chip :=
  match c.flt.caps.find? (fun x => x.blk == blk) with
  | none => c
  | some cap =>
    if !c.on then c
    else
      let r := c.flt.evs.get {} blk
      let e? := match r.pend with | some e => some e | none => r.levels.head?
      -- a fatal level condition that began behind the fetched event is fetched next, after a new rise of the line (R723)
      let r' := { r with pend := r.owed, count := 0, owed := none }
      let c := { c with flt := { c.flt with
        evs := c.flt.evs.put blk r'
        caps := c.flt.caps.filter (fun x => x != cap)
        high := if r'.line && r.owed.isNone then c.flt.high else c.flt.high.filter (· != blk) } }
      match e? with
      | none => { c with flt := c.flt.settleFirst }
      | some e =>
        if cap.blank && e.cls != 3 then
          { c with flt := { c.flt with
              conseq := if c.flt.conseq.contains blk then c.flt.conseq else c.flt.conseq ++ [blk]
              cntConseq := satAdd max32 c.flt.cntConseq (1 + r.count) }.settleFirst }
        else c.latch cap e r.count

/-- FLT fetches the event register of a block in the cycle in which a write of 1 to its FLT_ACK bit falls: the acknowledgement acts first, so
that the fetched event creates a new record (R570). A block whose line a level condition keeps high is not acknowledged (R569). -/
def Chip.fetchWithAck (c : Chip) (blk : Nat) (ack : Bool) : Chip :=
  if !(ack && c.on && !c.flt.fault && c.flt.caps.any (fun x => x.blk == blk)) then c.eventFetch blk
  else if !c.ignored blk && !(c.flt.evs.get {} blk).levels.isEmpty then
    { c with flt := { c.flt with cntAckRef := bump32 c.flt.cntAckRef } }.eventFetch blk
  else { c with flt := { c.flt with recs := c.flt.recs.del blk } }.eventFetch blk

/-! ### Windows, acknowledgement and clears -/

/-- The oldest blanking window closes; lines of blocks that no window covers any more and that are still high are new captures
(R580). -/
def Chip.windowClose (c : Chip) : Chip :=
  match c.flt.windows with
  | [] => c
  | w :: rest =>
    if !(c.on && !c.flt.fault) then c
    else
      let f := { c.flt with windows := rest }
      let again := ((below 256).filter (fun b => w.mask.contains b)).filter (fun b =>
        !f.covered b && c.lineHigh b && f.high.contains b && !f.caps.any (fun x => x.blk == b && !x.blank))
      { c with flt := { f with
          grp := if again.isEmpty then f.grp else f.grp + 1
          caps := f.caps ++ again.map (fun b => ⟨b, f.grp, c.us, false, again.filter (· != b)⟩) } }

/-- FLT_ACK word `k` is written (R569). -/
def Chip.fltAck (c : Chip) (k v : Nat) : Chip :=
  if !(c.on && !c.flt.fault) then c
  else
    (below 32).foldl (fun c i =>
      let b := 32 * k + i
      if !natBit v i then c
      else if c.lineHigh b then { c with flt := { c.flt with cntAckRef := bump32 c.flt.cntAckRef } }
      else { c with flt := { c.flt with recs := c.flt.recs.del b } }) c

/-- FLT_FIRST_CLR (R576). DESIGN CHOICE: the high word that a read of the first event's time has latched stays, log entry 29. -/
def Flt.clearFirst (f : Flt) : Flt := { f with first := none, firstFrom := f.grp }
/-- FLT_CONSEQ_CLR. -/
def Flt.clearConseq (f : Flt) : Flt := { f with conseq := [] }
/-- FLT_CLR. -/
def Flt.clearCounts (f : Flt) : Flt := { f with cntCe := 0, cntUc := 0, cntConseq := 0, cntAckRef := 0 }

/-! ### ALIVE (R587, R588) -/

/-- ALIVE toggles while the stack is well: from the end of boot step 4, outside SAFE and the fault state. -/
def Chip.aliveToggle (c : Chip) : Chip :=
  if c.on && c.flt.aliveOn && !c.flt.fault then { c with flt := { c.flt with alive := !c.flt.alive } } else c

end Sys2Proof.Machine
end

