-- ==== Sys2Proof/Machine/Thermal.lean ====
section
/-! DEFINITION. Thermal management (R491-R520, R527): samples, evaluations, bands, throttle, blind dies, trims and shutdown. -/

namespace Sys2Proof.Machine

/-! ### Zones and sensors (R491-R493) -/

/-- The sensors of a zone: core dies 0-17, slice pairs 18-25, port groups 26-33 in the order of R493. -/
def zoneSensors (z : Nat) : List Nat := if z < 18 then [16 + 2 * z, 17 + 2 * z] else if z < 26 then [z - 10] else [z - 26]

/-- Sensor `i`. -/
def Chip.sensor (c : Chip) (i : Nat) : Sensor := c.thm.sensors.get {} i

/-- The zone of a sensor. -/
def sensorZone (i : Nat) : Nat := if i < 8 then 26 + i else if i < 16 then 10 + i else (i - 16) / 2

/-- TEMP as a number of quarter degrees (R492). -/
def Reading.celsius4 (r : BitVec 11) : Int := if r.toNat < 1024 then r.toNat else (r.toNat : Int) - 2048

/-- Whether a conversion is out of range (R498). -/
def outOfRange (t : Int) : Bool := t < -160 || 600 < t

/-- A sensor takes a conversion, and is broken from the first sample at which a condition of R498 holds. -/
def Sensor.sample (s : Sensor) (r : Option Reading) : Sensor :=
  match r with
  | none => { s with broken := true }
  | some r =>
    if r.late then { s with broken := true }
    else
      let t := Reading.celsius4 r.temp
      let same := if s.same != 0 && s.raw == r.raw.toNat then s.same + 1 else 1
      { temp := t, raw := r.raw.toNat, same := min 64 same, broken := s.broken || outOfRange t || 64 ≤ same }

/-- The substitute value of a broken sensor (R499). -/
def Limits.substitute (l : Limits) : Int := 4 * (l.throt + 1)

/-- The value that a sensor contributes to its zone (R493, R499). -/
def Sensor.value (s : Sensor) (l : Limits) : Int := if s.broken then l.substitute else s.temp

/-- The highest of a list of temperatures. -/
def maxTemp : List Int → Int
  | [] => 0
  | [x] => x
  | x :: t => max x (maxTemp t)

/-- The stack maximum: the highest TEMP among the working sensors (R495). -/
def Chip.stackMax (c : Chip) : Int := maxTemp (((below 52).filter (fun i => !(c.sensor i).broken)).map (fun i => (c.sensor i).temp))

/-- TEMP in the 11 bits of a register. -/
def tempBits (t : Int) : Nat := (t % 2048).toNat

/-! ### THM_CFG as each zone applies it (R519) -/

/-- ESC_TIME, REL_TIME and PACE as a zone applies them, 0 taken as 1. -/
def Zone.escTime (z : Zone) : Nat := max 1 (natBits z.cfg 0 8)
def Zone.relTime (z : Zone) : Nat := max 1 (natBits z.cfg 8 8)
def Zone.pace (z : Zone) : Nat := max 1 (natBits z.cfg 24 4)

/-- A zone applies a word of THM_CFG. -/
def Zone.takeCfg (z : Zone) (v : Nat) : Zone := { z with cfg := v, cfgNew := true }

/-- Whether port `n` paces (R511): it is live and some core-die or slice-pair zone has step 3, or its port group is hot. -/
def Chip.paces (c : Chip) (n : Nat) : Bool :=
  (c.port n).enabled && ((below 26).any (fun z => (c.zone z).step == 3) || (c.zone (26 + n / 4)).pacing)

/-- Every port takes the pacing that the zones order: PACE slots in 16, or all of them. -/
def Chip.repace (c : Chip) : Chip :=
  { c with ports := c.ports.map (fun (n, p) =>
      (n, { p with slots := { p.slots with pace := if c.paces n then (c.zone (26 + n / 4)).pace else 16 } })) }

/-- CFG_UPDATE of THM's group: every zone applies THM_CFG. -/
def Chip.applyThm (c : Chip) : Chip :=
  if !c.thm.cfg.dirty then c
  else { c with thm := { c.thm with
    cfg := c.thm.cfg.apply
    zones := (below 34).foldl (fun t z => t.upd {} z (·.takeCfg c.thm.cfg.shadow)) c.thm.zones } }.repace

/-- At an evaluation with AUTO_APPLY the zone applies THM_CFG; the shadow is applied in full once every zone has. -/
def Chip.autoThm (c : Chip) (z : Nat) : Chip :=
  if !(c.auto 13 && c.thm.cfg.dirty) then c
  else
    let zs := c.thm.zones.upd {} z (·.takeCfg c.thm.cfg.shadow)
    let all := (below 34).all (fun i => (zs.get {} i).cfgNew)
    { c with thm := { c.thm with zones := zs, cfg := if all then c.thm.cfg.apply else c.thm.cfg } }

/-! ### Bands, warning and throttle (R503-R508, R511) -/

/-- The refresh band after an evaluation (R504). -/
def nextBand (b : Nat) (t : Int) : Nat :=
  if 380 < t || (b = 2 && 372 < t) then 2
  else if 340 < t || (1 ≤ b && 332 < t) then 1
  else 0

/-- The warning level after an evaluation (R503). -/
def nextWarn (l : Limits) (was : Bool) (t : Int) : Bool := 4 * l.warn ≤ t || (was && 4 * ((l.warn : Int) - 3) ≤ t)

/-- Whether so many units of 62.5 us have passed since a CK_KEEP cycle. -/
def passed (now since units : Nat) : Bool := 3125 * units ≤ 2 * (now - since)

/-- The throttle step of a zone after an evaluation (R506). `below` tells that the condition of the step in progress has held at
every evaluation since `since`. -/
def Zone.throttle (z : Zone) (t : Int) (now : Nat) : Zone :=
  let hot := 4 * (z.lim.throt : Int) ≤ t
  let cool := t < 4 * ((z.lim.throt : Int) - 4)
  let go (z : Zone) (s : Nat) : Zone := { z with step := s, since := now, below := true }
  let hold (z : Zone) (ok : Bool) (units s : Nat) : Zone :=
    if !ok then { z with below := false }
    else if !z.below then { z with below := true, since := now }
    else if passed now z.since units then go z s
    else z
  match z.step with
  | 0 => if hot then go z 2 else z
  | 1 => if hot then go z 2 else hold z cool z.relTime 0
  | 2 => if cool then go z 1 else hold z hot z.escTime 3
  | _ => if cool then go z 1 else z

/-- The flit pacing of a port group after an evaluation (R511). -/
def Zone.paceNext (z : Zone) (t : Int) : Bool :=
  4 * (z.lim.throt : Int) ≤ t || (z.pacing && 4 * ((z.lim.throt : Int) - 4) ≤ t)

/-! ### Blind dies (R500) -/

/-- The controllers whose channels live on a physical die. -/
def Chip.chcsOn (c : Chip) (d : Nat) : List Nat := (below 72).filter (fun k => physDie c.dieRole k == d)

/-- A die is blind: its pseudo-channels are fenced with their blocks lost, or become unusable; until boot step 10 has been
made, the substitution is left to that step (R500, R545, R548). -/
def Chip.goBlind (c : Chip) (d : Nat) : Chip :=
  if c.boot.step < 8 then c
  else
    let pcs := ((c.chcsOn d).flatMap (fun k => [(k, 0), (k, 1)])).filter (fun x =>
      (c.pc x.1 x.2).state != .fenced && (c.pc x.1 x.2).state != .untrained)
    let data := pcs.filter (fun x => x.1 < 64)
    let c := { c with thm := { c.thm with zones := c.thm.zones.upd {} d (fun z => { z with given := pcs }) } }
    if c.boot.st == .booting && c.boot.step ≤ 10 then
      pcs.foldl (fun c (k, p) =>
        let c := { c with boot := { c.boot with pcFenced := if c.boot.step < 10 then c.boot.pcFenced + 1 else c.boot.pcFenced } }
        if k < 64 then (c.fencePc k p).endQueues k p else c.reserveUnusable [(k, p)]) c
    else
      let c := c.fenceLost data
      let reserve := pcs.filter (fun x => 64 ≤ x.1)
      if reserve.isEmpty then c else c.reserveUnusable reserve

/-! ### Shutdown (R514-R518) -/

/-- FUS_PROG_EN.EN as a read shows it (R610). -/
def Fus.en (f : Fus) : Bool := f.progEn && f.progLock.v == 0

/-- A fuse pulse or a record write is in progress: a fuse command acts only while EN is 1 (R610). -/
def Chip.pulsing (c : Chip) : Bool := c.fus.cmd.isSome && c.fus.en
def Chip.recording (c : Chip) : Bool := c.nvm.cur.isSome

/-- A thermal shutdown begins: its fatal event is raised, with the events `es` of the same evaluation (R563), THERMTRIP_N falls and the grace starts (R515). The fault state is entered
when FLT classifies the event (R583), which EVENT_FETCH does; before FLT runs there is nobody to classify it, and it is entered at
once. -/
def Chip.beginShutdown (c : Chip) (sensor : Nat) (temp : Int) (es : List Event) : Chip :=
  if c.thm.shut != .none then c
  else
    let fuse := c.pulsing
    let rec' := c.recording
    let c := c.raiseAllLevel 5 es ⟨3, 0x24, sensor⟩
    let c := if c.flt.on || c.flt.fault then c else c.enterFault
    -- no new record write starts, and the queue goes with the internal rails (R515, R625)
    let c := { c with nvm := c.nvm.dropQueues }
    { c with thm := { c.thm with
        shut := .grace, tripLow := true, rearm := c.thm.lim.rearm, shutStart := c.keep, lowSeen := !c.boot.resetN
        fuseInGrace := fuse, nvmInGrace := rec'
        info := { valid := true, cut := 0, cutOp := 0, sensor := sensor, temp := tempBits temp } } }

/-- The command whose operation the shutdown meets, which will be reported ABORTED (R517). -/
def Chip.opInProgress (c : Chip) : Nat :=
  if c.pulsing then (match c.fus.cmd with | some f => if f.sealing then 0x29 else 0x28 | none => 0)
  else match c.nvm.cur with
    | some w => (match w.req.what with | .patchWrite => 0x31 | .calStore => 0x12 | _ => 0)
    | none => 0

/-! ### Trims (R513) -/

/-- Two's-complement value of a byte. -/
def sbyte (v : Nat) : Int := if v % 256 < 128 then (v % 256 : Nat) else (v % 256 : Nat) - 256

/-- The trims follow the mean of the working sensors among 8-15; MGT_TRIM_OFS is added while it is not locked. -/
def Chip.retrim (c : Chip) : Chip :=
  let ss := ((upFrom 8 8).map c.sensor).filter (fun s => !s.broken)
  if ss.isEmpty then c
  else
    let mean := (ss.map (·.temp)).foldl (· + ·) 0 * ((840 / ss.length : Nat) : Int)
    let ofs := if c.mgt.lock.v = 1 then 0 else c.mgt.trimOfs
    let f := c.fus.eff.get 0
    { c with thm := { c.thm with
        trimKeep := Config.trimComp 0 mean (f 7 + f 8 * 2 ^ 32) + sbyte ofs
        trimRef := Config.trimComp 1 mean (f 9 + f 10 * 2 ^ 32) + sbyte (ofs / 256) } }

/-! ### Sampling and evaluation (R496, R497) -/

/-- THM runs: it evaluates from the end of boot step 4, in the fault state too, until a shutdown. -/
def Chip.thmRuns (c : Chip) : Bool := c.on && 5 ≤ c.boot.step && c.thm.shut == .none

/-- Change zone `z`. -/
def Chip.onZone (c : Chip) (z : Nat) (f : Zone → Zone) : Chip := { c with thm := { c.thm with zones := c.thm.zones.upd {} z f } }

/-- A zone's sample point: its sensors start converting. -/
def Chip.thmSample (c : Chip) (z : Nat) : Chip := if c.thmRuns then c.onZone z (fun x => { x with conv := true }) else c

/-- The readings of a zone's sensors, taken in the order of the sensors; a missing one has not ended in time (R498). -/
def Chip.takeReadings (c : Chip) (z : Nat) (rs : List Reading) : Chip × List Nat :=
  (numbered 0 (zoneSensors z)).foldl (fun (x : Chip × List Nat) (i, s) =>
    let was := x.1.sensor s
    let now := was.sample (rs[i]?)
    ({ x.1 with thm := { x.1.thm with sensors := x.1.thm.sensors.put s now } },
      if now.broken && !was.broken then x.2 ++ [s] else x.2)) (c, [])

/-- The evaluation of a zone's sample, in the order of R497. -/
def Chip.thmEvaluate (c : Chip) (z : Nat) (rs : List Reading) : Chip :=
  if !(c.thmRuns && (c.zone z).conv) then c
  else
    let (c, broke) := c.takeReadings z rs
    let c := c.autoThm z
    let lim := c.thm.lim
    let old := c.zone z
    let ss := (zoneSensors z).map (fun i => (i, c.sensor i))
    let t := maxTemp (ss.map (fun x => x.2.value lim))
    let es := broke.map (fun s => (⟨1, 0x20, s⟩ : Event))
    let c := c.onZone z (fun x => { x with
      conv := false, seen := true, temp := t, lim := lim, fast := 4 * ((lim.throt : Int) - 6) ≤ t })
    let c := if 18 ≤ z && z < 26 then c.retrim else c
    let blind := z < 18 && ss.all (fun x => x.2.broken)
    let warn := nextWarn lim old.warn t
    let zn := { c.zone z with
      band := if z < 18 then nextBand old.band t else 0
      warn := warn
      blind := old.blind || blind
      pacing := 26 ≤ z && (c.zone z).paceNext t }
    let zn := if z < 26 then zn.throttle t c.keep else zn
    let hot := old.step < 2 && zn.step == 2
    let c := (c.onZone z (fun _ => zn)).repace
    let c := { c with thm := { c.thm with
      cntWarn := if warn && !old.warn then bump32 c.thm.cntWarn else c.thm.cntWarn
      cntThrot := if hot then bump32 c.thm.cntThrot else c.thm.cntThrot } }
    let es := es ++ (if blind && !old.blind then [⟨2, 0x23, z⟩] else []) ++ (if warn && !old.warn then [⟨1, 0x21, z⟩] else []) ++
      (if hot then [⟨1, 0x22, z⟩] else [])
    -- the decisions take effect together at the end of the evaluation (R497, R514)
    match ss.find? (fun x => !x.2.broken && 4 * (lim.shut : Int) ≤ x.2.temp) with
    | some (i, s) => c.beginShutdown i s.temp es
    | none =>
      let c := c.raiseAll 5 es
      if blind && !old.blind && !c.flt.fault then c.goBlind z else c

/-- The keeper sampler (R518, R527): from the end of boot step 2 to that of step 4 it may start a shutdown; after one it watches for re-arm,
with the conditions of R498 for every sensor (log entry 37). -/
def Chip.keeperSample (c : Chip) (rs : List Reading) : Chip :=
  let early := c.boot.pwrgd && 3 ≤ c.boot.step && c.boot.step ≤ 4 && c.thm.shut == .none && (c.boot.st == .booting || c.boot.st == .safe)
  if !(early || c.thm.shut == .released) then c
  else
    let c := (below 52).foldl (fun (c : Chip) i =>
      { c with thm := { c.thm with sensors := c.thm.sensors.upd {} i (fun s =>
        let x := s.sample (rs[i]?)
        if early then { x with broken := s.broken } else x) } }) c
    if !early then c
    else
      match (numbered 0 rs).find? (fun x => x.1 < 52 && !x.2.late && !outOfRange (Reading.celsius4 x.2.temp) && 432 ≤ Reading.celsius4 x.2.temp) with
      | some (i, r) => c.beginShutdown i (Reading.celsius4 r.temp) []
      | none => c

/-- Every working sensor reads below REARM (R518). -/
def Chip.belowRearm (c : Chip) : Bool :=
  (below 52).all (fun i => let s := c.sensor i; s.broken || s.temp < 4 * (c.thm.rearm : Int))

/-! ### SET_THERMAL (R501, R502) -/

/-- Whether four thresholds keep R501 and R502, under the limits fused as THROT_MAX, SHUT_MAX and REARM_MAX. -/
def limitsOk (l : Limits) (fused : Nat) : Bool :=
  50 ≤ l.warn && l.warn + 4 ≤ l.throt && l.warn < l.throt &&
  60 ≤ l.throt && l.throt ≤ natBits fused 0 8 && l.throt + 5 ≤ l.shut &&
  l.shut ≤ natBits fused 8 8 && 40 ≤ l.rearm && l.rearm ≤ natBits fused 16 8 && l.rearm + 8 ≤ l.shut

end Sys2Proof.Machine
end

