-- ==== Sys2Proof/Machine/Fuse.lean ====
section
/-! DEFINITION. The fuse array (R598-R616): the shipped array, reading at both references, the boot read with amendment records,
and programming pulses. -/

namespace Sys2Proof.Machine

/-- A word at the normal and at the strict reference (R599). -/
def FuseArray.norm (a : FuseArray) (w : Nat) : Nat := (Tab.get {} a w).norm
def FuseArray.strict (a : FuseArray) (w : Nat) : Nat := (Tab.get {} a w).strict

/-! ### Regions (R600, R605, R606) -/

/-- Whether a region's SEAL fuse reads 1. -/
def FuseArray.sealed (a : FuseArray) (r : Nat) : Bool := natBit (a.norm (64 * r + 62)) 0

/-- Whether words 0-61 of a region, given as a function, match its check word. -/
def FuseArray.checks (a : FuseArray) (r : Nat) (word : Nat → Nat) : Bool :=
  crc32c ((below 62).flatMap (fun i => leBytes 4 (word i))) == a.norm (64 * r + 63)

/-- Whether a region is sealed and fails its check. -/
def FuseArray.bad (a : FuseArray) (r : Nat) : Bool := a.sealed r && !a.checks r (fun i => a.norm (64 * r + i))

/-- Amendment record `k` of region 7, if it is in force: target region, target word and value (R606). -/
def FuseArray.amend (a : FuseArray) (k : Nat) : Option (Nat × Nat × Nat) :=
  let h := a.norm (448 + 2 * k)
  let v := a.norm (449 + 2 * k)
  let chk := crc16 (leBytes 4 v ++ [BitVec.ofNat 8 (h / 2 ^ 16), BitVec.ofNat 8 (h / 2 ^ 24)])
  if natBit h 31 && natBits h 0 16 == chk && natBits h 28 3 ≤ 6 then
    some (natBits h 28 3, natBits h 22 6, v)
  else none

/-- The records that govern, lowest first: in force, aimed at a region that fails its check, and not overruled by a later one for
the same word. -/
def FuseArray.governing (a : FuseArray) : List (Nat × Nat × Nat) :=
  if a.bad 7 then []
  else
    let rs := ((below 31).filterMap a.amend).filter (fun x => a.bad x.1)
    (numbered 0 rs).filterMap (fun (i, x) => if (rs.drop (i + 1)).any (fun y => y.1 == x.1 && y.2.1 == x.2.1) then none else some x)

/-- The amended value of a word, if a record names it. -/
def amended (gs : List (Nat × Nat × Nat)) (r i : Nat) : Option Nat := (gs.find? (fun x => x.1 == r && x.2.1 == i)).map (·.2.2)

/-- The state of a region (FUS_STATUS.STATE). -/
def FuseArray.stateOf (a : FuseArray) (gs : List (Nat × Nat × Nat)) (r : Nat) : Nat :=
  if !a.sealed r then 0
  else if !a.bad r then 1
  else if gs.any (·.1 == r) && a.checks r (fun i => (amended gs r i).getD (a.norm (64 * r + i))) then 3
  else 2

/-- The value of a word in force, none where it counts as absent (R605). -/
def FuseArray.inForce (a : FuseArray) (gs : List (Nat × Nat × Nat)) (st r i : Nat) : Option Nat :=
  match st with
  | 2 => if i < 62 then amended gs r i else none
  | 3 => some ((amended gs r i).getD (a.norm (64 * r + i)))
  | _ => some (a.norm (64 * r + i))

/-- The first marginal word of a region, if it has one (R604). -/
def FuseArray.marginalIn (a : FuseArray) (r : Nat) : List Nat := (below 64).filter (fun i => a.norm (64 * r + i) != a.strict (64 * r + i))

/-! ### The boot read (R604-R609) -/

/-- What the boot read finds. -/
structure FuseRead where
  eff    : Tab Nat          -- words in force, by address; an absent word reads 0
  itemOk : Bool             -- R607
  state  : Nat
  locked : Nat
  marg   : Nat              -- FUS_MARGINAL.REGIONS
  margN  : Nat
  amReg  : Nat              -- FUS_AMEND.REGIONS
  amN    : Nat
  events : List Event
  deriving DecidableEq, Repr

/-- A mask of the regions that satisfy `p`. -/
def regionMask (p : Nat → Bool) : Nat := sumBelow 8 (fun r => if p r then 2 ^ r else 0)

/-- Exactly two bits of 18 are set. -/
def twoDies (v : Nat) : Bool := ((below 18).filter (natBit v)).length == 2

/-- FUS reads the array at boot step 3. -/
def FuseArray.bootRead (a : FuseArray) : FuseRead :=
  let gs := a.governing
  let st := (below 8).map (a.stateOf gs)
  let word (r i : Nat) : Option Nat := a.inForce gs (st.getD r 0) r i
  let eff := (below 8).flatMap (fun r => (below 64).filterMap (fun i =>
    match word r i with | some v => if v = 0 then none else some (64 * r + i, v) | none => none))
  let marg (r : Nat) : List Nat := a.marginalIn r
  { eff := eff
    itemOk := ((below 54).filter (· != 11)).all (fun i => (word 0 i).isSome) && twoDies ((word 0 4).getD 0)
    state := sumBelow 8 (fun r => st.getD r 0 * 4 ^ r)
    locked := regionMask a.sealed
    marg := regionMask (fun r => !(marg r).isEmpty)
    margN := sumBelow 8 (fun r => (marg r).length)
    amReg := regionMask (fun r => gs.any (·.1 == r))
    amN := gs.length
    events := (below 8).flatMap (fun r =>
      (match marg r with | i :: _ => [⟨1, 0x10, fld 13 3 r + i⟩] | [] => []) ++
      (if a.bad r then [⟨2, 0x11, r⟩] else [])) }

/-- Words `i` to `i + n - 1` of the values in force, word `i` lowest. -/
def effWords (eff : Tab Nat) (i n : Nat) : Nat := sumBelow n (fun k => eff.get 0 (i + k) * 2 ^ (32 * k))

/-- The words of the array that are in force now, by address (R605). -/
def FuseArray.words (a : FuseArray) : Tab Nat := a.bootRead.eff

/-- The credential and the key digests are loaded into their shadows from the words in force (R534, R535, R602). -/
def Fus.loadShadows (f : Fus) (w : Tab Nat) : Fus :=
  { f with cred := effWords w 65 4, key0 := effWords w 14 8, key1 := effWords w 69 8, zeroised := false, zeroBad := false, rdBuf := w.get 0 76 }

/-- The shadows and the read buffer are zeroised before a scan operation (R534). -/
def Fus.zeroise (f : Fus) (good : Bool) : Fus := { f with cred := 0, key0 := 0, key1 := 0, rdBuf := 0, zeroised := true, zeroBad := !good }

/-- FUS takes what the boot read found. The credential stands in its shadow alone (R603). -/
def Fus.takeRead (f : Fus) (r : FuseRead) : Fus :=
  { f with
    eff := r.eff.filter (fun e => !(65 ≤ e.1 && e.1 ≤ 68)), state := r.state, locked := r.locked, credSet := effWords r.eff 65 4 != 0
    marginal := r.marg, margCnt := r.margN, amendReg := r.amReg, amendCnt := r.amN }.loadShadows r.eff

/-- ENTROPY has gone to the channel controllers, and nothing holds it any more (R603). -/
def Fus.dropEntropy (f : Fus) : Fus := { f with eff := f.eff.filter (fun e => !(e.1 == 12 || e.1 == 13)) }

/-- A credential is provisioned (MGT_CRED_STATUS). -/
def Fus.provisioned (f : Fus) : Bool := f.credSet

/-! ### Programming (R599, R612, R613) -/

/-- A pulse on one fuse of a bit: it may come to read 1, and never reads less than before. -/
def FuseWord.pulse (w : FuseWord) (plane b : Nat) (normal strict : Bool) : FuseWord :=
  let on (v : Nat) (x : Bool) : Nat := if x && !natBit v b then v + 2 ^ b else v
  if plane = 0 then { w with n0 := on w.n0 (normal || strict), s0 := on w.s0 strict }
  else { w with n1 := on w.n1 (normal || strict), s1 := on w.s1 strict }

/-- A pulse on the array. -/
def FuseArray.pulse (a : FuseArray) (w plane b : Nat) (normal strict : Bool) : FuseArray :=
  Tab.upd {} a w (·.pulse plane b normal strict)

/-- How a fuse command goes on after a pulse. -/
inductive FuseOut where
  | goesOn (m : FuseCmd)
  | bitFails (bit : Nat)      -- neither fuse of the bit reads 1 at the strict reference
  | ends (m : FuseCmd)
  deriving DecidableEq, Repr

/-- The bit whose fuses are pulsed. -/
def FuseCmd.bit (m : FuseCmd) : Option Nat := match m.blind with | b :: _ => some b | [] => m.bits.head?

/-- REINFORCE reads, with the word at `w`: the next of its bits `bs` that has a fuse at 0 there receives a further pulse on it (R612, R613). -/
def FuseCmd.check (m : FuseCmd) (w : FuseWord) : List Nat → Nat → FuseOut
  | [], n => .ends { m with bits := [], blind := [], phase := 0, pulsed := n }
  | b :: rest, n =>
    if !natBit w.s0 b then .goesOn { m with bits := b :: rest, blind := [], phase := 2, pulsed := n }
    else if !natBit w.s1 b then .goesOn { m with bits := b :: rest, blind := [], phase := 3, pulsed := n }
    else m.check w rest (n + 1)

/-- The command after a pulse on bit `b` that is not among the blind ones of REINFORCE (R612). -/
def FuseCmd.afterBit (m : FuseCmd) (w : FuseWord) (b : Nat) (rest : List Nat) : FuseOut :=
  let s0 := natBit w.s0 b
  let s1 := natBit w.s1 b
  let bitEnd : FuseOut :=
    if !s0 && !s1 then .bitFails b
    else if m.reinforce then m.check w rest (m.pulsed + 1)
    else if rest.isEmpty then .ends { m with bits := [], phase := 0, pulsed := m.pulsed + 1 }
    else .goesOn { m with bits := rest, phase := 0, pulsed := m.pulsed + 1 }
  match m.phase with
  | 0 => .goesOn { m with phase := 1 }
  | 1 => if !s0 then .goesOn { m with phase := 2 } else if !s1 then .goesOn { m with phase := 3 } else bitEnd
  | 2 => if !s1 then .goesOn { m with phase := 3 } else bitEnd
  | _ => bitEnd

/-- The command after the pulse in progress, the word now reading `w` (R612, R613). -/
def FuseCmd.next (m : FuseCmd) (w : FuseWord) : FuseOut :=
  match m.blind, m.bits with
  | _ :: later, bs =>
    if m.phase = 0 then .goesOn { m with phase := 1 }
    else if later.isEmpty then m.check w bs m.pulsed
    else .goesOn { m with blind := later, phase := 0 }
  | [], b :: rest => m.afterBit w b rest
  | [], [] => .ends m

/-- The bits that FUSE_PROGRAM programs: those of the mask that read 0 at the normal reference (R611). -/
def programBits (w : FuseWord) (mask : Nat) : List Nat := (below 32).filter (fun b => natBit mask b && !natBit w.norm b)

/-- The bits that REINFORCE pulses: those that read 1 at the normal reference and 0 at the strict (R613). -/
def weakBits (w : FuseWord) : List Nat := (below 32).filter (fun b => natBit w.norm b && !natBit w.strict b)

/-- A bit as a cut pulse leaves it: it reads 0, or 1 at the normal reference alone (R616). -/
def FuseWord.leave (w : FuseWord) (b : Nat) (weak : Bool) : FuseWord :=
  let off (v : Nat) : Nat := if natBit v b then v - 2 ^ b else v
  { n0 := if weak then off w.n0 + 2 ^ b else off w.n0, s0 := off w.s0, n1 := off w.n1, s1 := off w.s1 }

/-- A pulse in progress is cut short: its bit reads 0 or MARGINAL, which is a free value but for REINFORCE, whose bits read 1 before and whose
value it cannot change (R613, R616). -/
def FuseArray.cut (a : FuseArray) (m : FuseCmd) (weak : Bool) : FuseArray :=
  match m.bit with
  | some b => Tab.upd {} a m.word (·.leave b (weak || m.reinforce))
  | none => a

/-- Whether a word is secret: ENTROPY or CREDENTIAL (R603). -/
def secretWord (w : Nat) : Bool := w == 12 || w == 13 || (65 ≤ w && w ≤ 68)

/-- FUSE_READ of a word: its value and its marginal mask (R615). -/
def FuseArray.readOut (a : FuseArray) (w : Nat) : Nat × Nat :=
  if secretWord w then (0, 0) else (a.norm w, a.norm w ^^^ a.strict w)

/-! ### Registers of FUS -/

/-- SRC of FUS_CFG. -/
def Fus.pump (f : Fus) : Bool := natBit f.cfg 0

/-- A write of FUS_LOCK_SET (R608). -/
def Fus.setLocks (f : Fus) (v : Nat) : Fus := { f with locked := f.locked ||| (v % 256) }

end Sys2Proof.Machine
end

