-- ==== Sys2Proof/Machine/Nvm.lean ====
section
/-! DEFINITION. The cellar book (R617-R636): its areas and shipped contents, reading and writing of slots, relocation, journals, life
counters, the retirement log, the calibration set and the firmware patch. -/

namespace Sys2Proof.Machine

/-! ### Layout (R621) -/

/-- First slot and number of slots of an area; (0, 0) for a code the table does not list. -/
def areaPlace (area : Nat) : Nat × Nat :=
  match area with
  | 0 => (0, 16) | 1 => (16, 3128) | 2 => (3144, 2048) | 3 => (5192, 8192) | 4 => (13384, 256) | 5 => (13640, 4096)
  | 6 => (17736, 2753) | 7 => (20489, 1783) | 8 => (22272, 5466) | 9 => (27738, 1024) | 15 => (28762, 4006)
  | _ => (0, 0)

/-- The area and the slot within it of a slot of the book. -/
def slotHome (s : Nat) : Nat × Nat :=
  match [0, 1, 2, 3, 4, 5, 6, 7, 8, 9].find? (fun a => (areaPlace a).1 ≤ s && s < (areaPlace a).1 + (areaPlace a).2) with
  | some a => (a, s - (areaPlace a).1)
  | none => (15, s - 28762)

/-- The journals (R630). -/
def isJournal (area : Nat) : Bool := 2 ≤ area && area ≤ 5

/-- The generation areas CAL and PATCH (R620). -/
def isGenArea (area : Nat) : Bool := area == 7 || area == 8

/-- The calibration settings that data slot `i` of the factory set holds (R435, R715). -/
def factoryPayload (i : Nat) : List Byte := (below 24).flatMap (fun j => leBytes 2 (Config.factoryCal (24 * (i - 1) + j)))

/-- A 4-byte field's worth of the bytes 0-59 that the CRC of a record covers (R617). -/
def BookRec.covered (r : BookRec) : List Byte :=
  padBytes 48 r.payload ++ leBytes 2 r.slot ++ leBytes 1 r.area ++ leBytes 1 r.format ++ leBytes 4 r.gen ++ leBytes 4 r.seq

/-- A record with its FORMAT and the CRC of its contents (R617). -/
def bookRec (payload : List Byte) (slot area gen seq : Nat) : BookRec :=
  let r : BookRec := { payload := payload, slot := slot, area := area, format := 1, gen := gen, seq := seq, crc := 0 }
  { r with crc := crc32c r.covered }

/-- A physical record as the part was shipped (R715): the directory, the counters and the retirement log written with zeros, the
calibration set as generation 1, and the journals, the patch, the user area and the spares without a valid record. Log entry 14. -/
def shippedRec (phys : Nat) : Option BookRec :=
  let (a, i) := slotHome (phys / 2)
  let first := phys % 2 == 0
  if a == 0 || a == 1 || a == 6 then some (bookRec (padBytes 48 []) i a 0 (if first then 1 else 0))
  else if a == 7 then
    some (bookRec (if first && i != 0 then factoryPayload i else padBytes 48 []) i a (if first then 1 else 0) (if first then 1 else 0))
  else none

/-- A physical record of the book whose CRC matches, as that of every shipped record does (R618). -/
def Book.rec (b : Book) (phys : Nat) : Option BookRec :=
  match Tab.look b phys with
  | some r => r.filter (fun x => x.crc == crc32c x.covered)
  | none => shippedRec phys

/-! ### Reading a slot (R618, R620, R622) -/

/-- The slot that serves a slot, after relocation. -/
def servingSlot (reloc : List (Nat × Nat)) (s : Nat) : Nat := ((reloc.find? (fun e => e.1 == s)).map (·.2)).getD s

/-- The valid copy `i` of a slot: its CRC matches and it names the slot. -/
def Book.copy (b : Book) (reloc : List (Nat × Nat)) (area slot i : Nat) : Option BookRec :=
  match b.rec (2 * servingSlot reloc ((areaPlace area).1 + slot) + i) with
  | some r => if r.area == area && r.slot == slot then some r else none
  | none => none

/-- Whether a write count is ahead of another (R618). -/
def seqAhead (a b : Nat) : Bool := let d := (a + 2 ^ 32 - b % 2 ^ 32) % 2 ^ 32; d != 0 && d < 2 ^ 31

/-- The newer valid copy of a slot and its number. -/
def Book.newest (b : Book) (reloc : List (Nat × Nat)) (area slot : Nat) : Option (Nat × BookRec) :=
  match b.copy reloc area slot 0, b.copy reloc area slot 1 with
  | some x, some y => if seqAhead y.seq x.seq then some (1, y) else some (0, x)
  | some x, none => some (0, x)
  | none, some y => some (1, y)
  | none, none => none

/-- Whether exactly one copy of a slot is valid. -/
def Book.oneBad (b : Book) (reloc : List (Nat × Nat)) (area slot : Nat) : Bool :=
  (b.copy reloc area slot 0).isSome != (b.copy reloc area slot 1).isSome

/-- The generation that the header of a generation area names (R620). -/
def Book.headGen (b : Book) (reloc : List (Nat × Nat)) (area : Nat) : Option Nat := (b.newest reloc area 0).map (·.2.gen)

/-- The record from which a slot is read (R618, R620). -/
def Book.read (b : Book) (reloc : List (Nat × Nat)) (area slot : Nat) : Option BookRec :=
  if isGenArea area && slot != 0 then
    match b.headGen reloc area with
    | some g => ((b.copy reloc area slot 0).toList ++ (b.copy reloc area slot 1).toList).find? (·.gen == g)
    | none => none
  else (b.newest reloc area slot).map (·.2)

/-- A read that finds one copy of a slot invalid and uses the other counts and raises it (R618). -/
def Chip.noteBad (c : Chip) (b : Book) (area slot : Nat) : Chip :=
  if b.oneBad c.nvm.reloc area slot then
    { c with nvm := { c.nvm with cntBad := bump32 c.nvm.cntBad } }.raise 4 ⟨1, 0x18, (areaPlace area).1 + slot⟩
  else c

/-- A bad or lost record is counted and raised (R618). -/
def Chip.noteRead (c : Chip) (b : Book) (area slot : Nat) : Chip :=
  if (b.read c.nvm.reloc area slot).isNone then c.raise 4 ⟨1, 0x19, (areaPlace area).1 + slot⟩ else c.noteBad b area slot

/-- Read a slot: its payload, and the state after the checks of R618. -/
def Chip.bookRead (c : Chip) (b : Book) (area slot : Nat) : Option (List Byte) × Chip :=
  ((b.read c.nvm.reloc area slot).map (·.payload), c.noteRead b area slot)

/-- Word `i` of a payload. -/
def payloadWord (p : List Byte) (i : Nat) : Nat := leNat (byteSlice p (4 * i) 4)

/-! ### Writing (R619, R620, R630, R632, R633) -/

/-- The slot that a pending record goes to: its own, or the head of its journal. -/
def Chip.writeSlot (c : Chip) (r : NvmReq) : Nat := match r.slot with | some s => s | none => c.nvm.heads.get 0 r.area

/-- Twelve 32-bit items of an image from slot `s` on. -/
def imagePayload (t : Tab Nat) (s : Nat) : List Byte := (below 12).flatMap (fun i => leBytes 4 (t.get 0 (12 * s + i)))

/-- The directory payload of slot `s`: twelve relocation entries (R622). -/
def dirPayload (reloc : List (Nat × Nat)) (s : Nat) : List Byte :=
  (below 12).flatMap (fun i => leBytes 4 (match reloc[12 * (s - 1) + i]? with | some (a, x) => fld 0 15 a + fld 16 15 x | none => 0))

/-- The payload that is written for a pending record. -/
def Chip.writePayload (c : Chip) (r : NvmReq) : List Byte :=
  let n := c.nvm
  if r.area = 0 then dirPayload n.reloc (c.writeSlot r)
  else if r.area = 1 then imagePayload n.counters (c.writeSlot r)
  else if r.area = 6 then imagePayload n.retire (c.writeSlot r)
  else if isJournal r.area then
    padBytes 48 (leBytes 4 (n.jseq.get 0 r.area + 1) ++ leBytes 4 (n.counters.get 0 (lifeIx 0 1)) ++ leBytes 6 r.us ++ r.body)
  else padBytes 48 r.body

/-- The copy of its slot that a write goes into: the invalid one, else the one that is not newer; in a generation area the one
whose GEN is not the header's (R619, R620). -/
def Book.target (b : Book) (reloc : List (Nat × Nat)) (area slot : Nat) : Nat :=
  let g := if isGenArea area then b.headGen reloc area else none
  match b.copy reloc area slot 0, b.copy reloc area slot 1 with
  | none, _ => if isGenArea area && (b.copy reloc area slot 1).any (fun y => some y.gen != g) then 1 else 0
  | some x, none => if isGenArea area && some x.gen != g then 0 else 1
  | some x, some y =>
    if isGenArea area && slot != 0 then (if some x.gen == g then 1 else 0)
    else if seqAhead y.seq x.seq then 0 else 1

/-- The copy that a write goes into, as a physical record, and the SEQ it carries: those of its first try, for a try that follows (R619). -/
def Chip.writePlace (c : Chip) (b : Book) (w : NvmWrite) : Nat × Nat :=
  match w.place with
  | some x => x
  | none =>
    let r := w.req
    let slot := c.writeSlot r
    (2 * servingSlot c.nvm.reloc ((areaPlace r.area).1 + slot) + b.target c.nvm.reloc r.area slot,
      match b.newest c.nvm.reloc r.area slot with | some (_, x) => (x.seq + 1) % 2 ^ 32 | none => 1)

/-- The record that a write puts into its copy. -/
def Chip.writeRecord (c : Chip) (b : Book) (w : NvmWrite) : Nat × BookRec :=
  let (phys, seq) := c.writePlace b w
  (phys, bookRec (c.writePayload w.req) (c.writeSlot w.req) w.req.area w.req.gen seq)

/-- A journal's record is written: its JSEQ and head advance (R630). -/
def Nvm.wrote (n : Nvm) (r : NvmReq) : Nvm :=
  if isJournal r.area then
    { n with
      jseq := n.jseq.upd 0 r.area (fun x => (x + 1) % 2 ^ 32)
      heads := n.heads.upd 0 r.area (fun x => (x + 1) % (areaPlace r.area).2) }
  else n

/-- A retirement's STARTED record stands in the book: its racking may begin (R633). -/
def Chip.startLogged (c : Chip) (row : Bool) (entry : Nat) : Chip :=
  let f (j : RackJob) : RackJob := if (j.kind == .row) == row && j.kind != .rescue && j.entry == entry then { j with logged := true } else j
  let d := if row then entry / 16 / 128 else (c.remapE entry).bank / 128
  c.onDie d (fun x => { x with queue := x.queue.map f, cur := x.cur.map f })

/-- What the end of a record write brings about in the stack. -/
def Chip.wroteFor (c : Chip) (r : NvmReq) : Chip :=
  match r.what with
  | .started row e => c.startLogged row e
  | .calStore =>
    if r.slot == some 0 then { c with nvm := { c.nvm with calGen := r.gen, calEnd := some c.keep } } else c
  | .patchWrite =>
    { c with
      mgt := { c.mgt with long := c.mgt.long.map (fun l => match l.job with | .nvmWrite _ => { l with job := .nvmWrite true } | _ => l) }
      nvm := { c.nvm with
        recent := List.filter (fun (e : Nat × Nat × Nat) => c.keep < e.2.2 + 25000000) c.nvm.recent ++ [(r.area, c.writeSlot r, c.keep)]
        patchGen := if r.area == 8 && r.slot == some 0 then r.gen else c.nvm.patchGen } }
  | .nothing | .fatal => c

/-- NVM fails in the field (R622): the event, and the consequences of R543 and R474. -/
def Chip.nvmFailField (c : Chip) : Chip := c.nvmFails.raise 4 ⟨2, 0x1A, 0⟩

/-- A copy that has failed for the third time is relocated: the slot takes the next spare slot and a directory slot is written, or
NVM fails (R619, R622). -/
def Chip.relocate (c : Chip) (r : NvmReq) : Chip :=
  let s := (areaPlace r.area).1 + c.writeSlot r
  let n := c.nvm
  let known := n.reloc.any (fun e => e.1 == s)
  let spare := 1 + n.reloc.foldl (fun m e => max m e.2) 28761
  if (180 ≤ n.reloc.length && !known) || 32768 ≤ spare || r.area == 0 then c.nvmFailField
  else
    let reloc := if known then n.reloc.map (fun e => if e.1 == s then (s, spare) else e) else n.reloc ++ [(s, spare)]
    let ix := (listIdx (fun e => e.1 == s) reloc).getD 0
    { c with nvm := { n with
        reloc := reloc, cur := some { req := r }
        dirQ := n.dirQ ++ [{ area := 0, slot := some (1 + ix / 12), body := [] }] } }

/-- The book as a relocation leaves it: the record from which the slot is read stands in the second copy of the spare slot, so that it is read
from there until the new record is (R438, R619). DEDUCED, log entry 54. -/
def Chip.moveKept (c : Chip) (b : Book) (r : NvmReq) : Book :=
  let slot := c.writeSlot r
  let place (reloc : List (Nat × Nat)) : Nat := servingSlot reloc ((areaPlace r.area).1 + slot)
  let n := (c.relocate r).nvm
  match b.read c.nvm.reloc r.area slot with
  | some x => if place n.reloc = place c.nvm.reloc then b else Tab.put b (2 * place n.reloc + 1) (some x)
  | none => b

/-- The opcode of a management command that a shutdown keeps from completing although its record write in progress ends (R517): a CAL_STORE
whose header is not yet written. -/
def NvmReq.cutOp (r : NvmReq) : Nat := if r.what == .calStore && r.slot != some 0 then 0x12 else 0

/-- The record write in progress ends: it has read back, or is tried again, or relocated; the next pending write starts (R619,
R622, R623). During the grace of a shutdown nothing new starts (R515), and the write in progress ends as it would have (R517). -/
def Chip.recordWriteEnd (c : Chip) (b : Book) (ok : Bool) : Chip × Book :=
  match c.nvm.cur with
  | none => (c, b)
  | some w =>
    if !c.on then (c, b)
    else
      let (phys, x) := c.writeRecord b w
      let c := { c with nvm := { c.nvm with cntWrite := bump32 c.nvm.cntWrite } }
      if ok then
        let c := { c with nvm := { c.nvm with cur := none } }
        let c := c.wroteFor w.req
        let c := { c with nvm := c.nvm.wrote w.req }
        let c := if c.thm.shut == .grace then { c with thm := { c.thm with info := { c.thm.info with cut := 2, cutOp := w.req.cutOp } } }
          else { c with nvm := c.nvm.kick }
        (c, Tab.put b phys (some x))
      else
        let b := Tab.put b phys none
        if w.tries < 2 then
          ({ c with nvm := { c.nvm with cur := some { w with tries := w.tries + 1, place := some (phys, x.seq) } } }, b)
        else (c.relocate w.req, c.moveKept b w.req)

/-- A record write that is cut short (R517, R619, R694): its copy is left as it was, unreadable, or written. -/
def Chip.cutRecordWrite (c : Chip) (b : Book) (n : Nat) : Book :=
  match c.nvm.cur with
  | some w =>
    let (phys, x) := c.writeRecord b w
    match Config.cutRecord n with
    | 0 => b
    | 1 => Tab.put b phys none
    | _ => Tab.put b phys (some x)
  | none => b

/-! ### Loading at boot (R473, R529, R629-R631, R633, R634) -/

/-- The relocation entries of the directory; none where a directory slot has no valid copy (R622). -/
def Book.loadReloc (b : Book) : Option (List (Nat × Nat)) :=
  (upFrom 1 15).foldl (fun (acc : Option (List (Nat × Nat))) s =>
    match acc, b.read [] 0 s with
    | some l, some r =>
      some (l ++ ((below 12).filterMap (fun i =>
        let v := payloadWord r.payload i
        if v = 0 then none else some (natBits v 0 15, natBits v 16 15))))
    | _, _ => none) (if (b.read [] 0 0).isSome then some [] else none)

/-- An image of 32-bit items, zeros not listed, from the slots of an area. -/
def Chip.loadImage (c : Chip) (b : Book) (area slots : Nat) : Tab Nat × Chip :=
  (below slots).foldl (fun (x : Tab Nat × Chip) s =>
    let (p?, c) := x.2.bookRead b area s
    (match p? with
      | some p => x.1 ++ ((below 12).filterMap (fun i => let v := payloadWord p i; if v = 0 then none else some (12 * s + i, v)))
      | none => x.1, c)) ([], c)

/-- The head and the last JSEQ of a journal: the slot after the valid slot of the highest JSEQ. -/
def Book.journalHead (b : Book) (reloc : List (Nat × Nat)) (area : Nat) : Nat × Nat :=
  let n := (areaPlace area).2
  foldBelow n (fun (x : Nat × Nat) s =>
    match b.read reloc area s with
    | some r => let q := payloadWord r.payload 0; if x.2 < q then ((s + 1) % n, q) else x
    | none => x) (0, 0)

/-- The slots of the journals are looked at for their heads; a copy found bad is counted and raised (R618, R630). Places that were never written
raise no NVM_RECORD_LOST (log entry 34). -/
def Chip.noteJournals (c : Chip) (b : Book) : Chip :=
  (upFrom 2 4).foldl (fun c a => foldBelow (areaPlace a).2 (fun c s => c.noteBad b a s) c) c

/-- NVM loads at boot step 5, once it has passed its test (R618, R622, R629, R630), and whether it has: not where the directory cannot be
read. The record of an event that FLT fetched before then is written now (R592). -/
def Chip.nvmLoad (c : Chip) (b : Book) : Chip × Bool :=
  let c := (below 16).foldl (fun c s => c.noteRead b 0 s) c
  match b.loadReloc with
  | none => (c, false)
  | some reloc =>
    let c := { c with nvm := { c.nvm with up := true, failed := false, reloc := reloc } }
    let (counters, c) := c.loadImage b 1 3128
    let c := c.noteJournals b
    let js : List (Nat × Nat × Nat) := (upFrom 2 4).map (fun a => (a, b.journalHead reloc a))
    let c := { c with nvm := { c.nvm with
      counters := counters
      heads := js.map (fun (x : Nat × Nat × Nat) => (x.1, x.2.1)), jseq := js.map (fun (x : Nat × Nat × Nat) => (x.1, x.2.2))
      calGen := (b.headGen reloc 7).getD 0, patchGen := (b.headGen reloc 8).getD 0 } }
    let c := c.life (lifeIx 0 1)
    let c := if c.thm.info.valid then c.life (lifeIx 0 3) else c
    let marg := c.fus.margCnt
    let c := { c with nvm := { c.nvm with counters := c.nvm.counters.upd 0 (lifeIx 0 4) (fun v => satAdd max32 v marg) } }
    let c := { c with nvm := Nvm.kick { c.nvm with flushQ := [{ area := 1, slot := some 0, body := [] }] } }
    -- the report of an operation that a shutdown cut (R631)
    (if c.thm.info.cut = 3 then c.faultRec 5 ⟨3, 0x24, c.thm.info.cutOp⟩ false true .nothing else c, true)

/-- Whether the patch of the book verifies, with its VERSION; none where the area holds no patch (R529, R634). -/
def Chip.patchCheck (c : Chip) (b : Book) : Option (Bool × Nat) :=
  let r := c.nvm.reloc
  match b.read r 8 0 with
  | none => none
  | some h =>
    let len := payloadWord h.payload 0
    let key := (byteAt h.payload 8).toNat
    let slots := (upFrom 1 3).map (b.read r 8) ++ (upFrom 4 (ceilDiv len 48)).map (b.read r 8)
    let bytes (l : List (Option BookRec)) : List Byte := l.flatMap (fun x => match x with | some r => r.payload | none => [])
    let ks := bytes (slots.take 3)
    let pub := byteSlice ks 0 64
    let sig := byteSlice ks 64 64
    let code := byteSlice (bytes (slots.drop 3)) 0 len
    let digest := if key = 1 then c.fus.key1 else c.fus.key0
    let ok := 1 ≤ len && len ≤ 262144 && key ≤ 1 && slots.all (·.isSome) &&
      sha256 pub == digest && digest != 0 &&
      !(key == 0 && natBit (c.fus.eff.get 0 64) 3) &&
      ecdsaVerify pub sig (h.payload ++ code)
    some (ok, payloadWord h.payload 1)

/-- The slots of the patch area that the verification reads: the header, the key with the signature, and those of the code; none where the
area holds no patch. -/
def Book.patchSlots (b : Book) (reloc : List (Nat × Nat)) : List Nat :=
  match b.read reloc 8 0 with
  | none => []
  | some h => below (4 + min 5462 (ceilDiv (payloadWord h.payload 0) 48))

/-- Ilael loads the patch at boot step 5 (R529), and the copies it finds invalid are counted and raised (R618). -/
def Chip.loadPatch (c : Chip) (b : Book) : Chip :=
  if !c.nvm.up || c.nvm.failed then c
  else
    let c := (b.patchSlots c.nvm.reloc).foldl (fun c s => c.noteRead b 8 s) c
    match c.patchCheck b with
    | none => c
    | some (true, v) => { c with boot := { c.boot with patchVersion := v } }
    | some (false, _) => { c with boot := { c.boot with patchRejected := true } }

/-- A reloaded row item of the retirement log (R473, R633). Of several STARTED items of one row the one of the higher entry was accepted later,
since each acceptance takes the lowest free entry of the bank (R469), so it is the one that serves in the end (R470; DEDUCED, log entry 56). -/
def Chip.reloadRow (c : Chip) (e v : Nat) : Chip :=
  let row := natBits v 0 16
  match v / 2 ^ 30 with
  | 1 =>
    let prev := c.prevEntry (e / 16) row
    let c := c.setRowmap e { valid := true, racking := true, row := row }
    let c := c.queueRack { kind := .row, bank := e / 16, row := row, entry := e, prev := prev, logged := true }
    c.ringRec { type := 0x06, cls := 0, source := 2, row := row, bank := e / 16, arg0 := 0, arg1 := e }
  | 2 => c.setRowmap e { valid := true, row := row }
  | 3 => c.setRowmap e { unusable := true, row := row }
  | _ => c

/-- A reloaded bank item of the retirement log (R214, R473, R633). -/
def Chip.reloadBank (c : Chip) (e v : Nat) : Chip :=
  let bank := natBits v 0 11
  match v / 2 ^ 30 with
  | 1 =>
    let c := c.setRemap e { valid := true, cause := 3, racking := true, bank := bank }
    let c := c.queueRack { kind := .bank, bank := bank, row := 0, entry := e, logged := true }
    c.ringRec { type := 0x06, cls := 0, source := 2, bank := bank, arg0 := 1, arg1 := e }
  | 2 => c.setRemap e { valid := true, cause := 3, bank := bank }
  | 3 => c.setRemap e { cause := 4 }
  | _ => c

/-- The retirement log is reloaded in boot step 9 (R214, R473, R633): ended row retirements before those that restart. Entries on
unusable reserve banks are left for step 10. -/
def Chip.reloadRetire (c : Chip) (b : Book) : Chip :=
  if !c.nvm.up || c.nvm.failed then c
  else
    let (img, c) := c.loadImage b 6 2753
    let c := { c with nvm := { c.nvm with retire := img } }
    let rows := List.filter (fun (e : Nat × Nat) => e.1 < 32768) img
    let banks := List.filter (fun (e : Nat × Nat) => 32772 ≤ e.1 && e.1 < 33028) img
    let c := (List.filter (fun (e : Nat × Nat) => e.2 / 2 ^ 30 != 1) rows).foldl (fun c e => c.reloadRow e.1 e.2) c
    let c := (List.filter (fun (e : Nat × Nat) => e.2 / 2 ^ 30 == 1) rows).foldl (fun c e => c.reloadRow e.1 e.2) c
    banks.foldl (fun c e => c.reloadBank (e.1 - 32772) e.2) c

/-! ### The calibration set (R435-R438) -/

/-- The number in the set of a stored point: pseudo-channels in order, within each S30, S60 and S90, within each the read, write
and command settings in order of lane. The manual does not give the order; log entry 15. -/
def calIndex (k p set i : Nat) : Nat := ((2 * k + p) * 3 + (set - 1)) * 99 + i

/-- Setting number `i` of the set in force in the book. -/
def Book.calSetting (b : Book) (reloc : List (Nat × Nat)) (i : Nat) : Setting :=
  match b.read reloc 7 (1 + i / 24) with
  | some r => let v := leNat (byteSlice r.payload (2 * (i % 24)) 2); ⟨natBits v 0 7, natBits v 8 6⟩
  | none => .default

/-- The stored points of a pseudo-channel as the book has them. -/
def Book.points (b : Book) (reloc : List (Nat × Nat)) (k p : Nat) : Tab Setting :=
  (upFrom 1 3).flatMap (fun set => (numbered 0 settingKeys).map (fun (i, key) =>
    (pointKey set key, b.calSetting reloc (calIndex k p set i))))

/-- The calibration set is loaded at the start of boot step 8 (R435); with NVM failed nothing loads and every setting takes its
default (R543). -/
def Chip.loadCal (c : Chip) (b : Book) : Chip :=
  if !c.nvm.up || c.nvm.failed then c
  else
    let c := (below 1783).foldl (fun c s => c.noteRead b 7 s) c
    let r := c.nvm.reloc
    (below 72).foldl (fun c k => c.onChc k (fun h =>
      (h.onPc 0 (fun pc => { pc with points := b.points r k 0 })).onPc 1 (fun pc => { pc with points := b.points r k 1 }))) c

/-- The payload of data slot `s` of a CAL_STORE: 24 stored points (R435, R437). -/
def Chip.calPayload (c : Chip) (s : Nat) : List Byte :=
  (below 24).flatMap (fun j =>
    let i := 24 * (s - 1) + j
    let n := i / 99
    leBytes 2 ((c.pc (n / 3 / 2) (n / 3 % 2)).point (1 + n % 3) (settingKeys.getD (i % 99) 0)).word)

/-- The records of a CAL_STORE: every data record, then the header (R437). -/
def Chip.calStoreReqs (c : Chip) (gen : Nat) : List NvmReq :=
  (upFrom 1 1782).map (fun s => { area := 7, slot := some s, body := c.calPayload s, gen := gen, what := .calStore }) ++
  [{ area := 7, slot := some 0, body := [], gen := gen, what := .calStore }]

/-! ### Life counters (R626-R629) -/

/-- The bin of a temperature in quarter degrees (R627). -/
def tempBin (t : Int) : Nat := if t < 120 then 0 else if 400 ≤ t then 15 else ((t - 100) / 20).toNat

/-- Add one to each of a list of counters. -/
def Chip.lives (c : Chip) (is : List Nat) : Chip := is.foldl (fun c i => c.life i) c

/-- The highest TEMP among the working base-die sensors 0-15, if there is one (R627). -/
def Chip.baseMax (c : Chip) : Option Int :=
  let ss := ((below 16).map c.sensor).filter (fun s => !s.broken)
  if ss.isEmpty then none else some (maxTemp (ss.map (·.temp)))

/-- A second of CK_KEEP ends (R624, R627). -/
def Chip.lifeSecond (c : Chip) : Chip :=
  if !(c.on && c.nvm.up) then c
  else
    let c := { c with nvm := { c.nvm with secCnt := [] } }
    let dies := below 18
    let c := c.life (lifeIx 0 0)
    let c := c.lives (dies.map (fun d => lifeIx 1 (16 * d + tempBin (c.zone d).temp)))
    let c := match c.baseMax with | some t => c.life (lifeIx 1 (16 * 18 + tempBin t)) | none => c
    c.lives (dies.map (fun d => lifeIx 27 (3 * d + (c.zone d).band)))

/-- The bin of a count of ACTs (R628). -/
def actBin (n : Nat) : Nat := if n < 64 then 0 else min 15 (Nat.log2 n - 5)

/-- A window of 64 ms ends (R628). -/
def Chip.actWindow (c : Chip) : Chip :=
  if !(c.on && c.nvm.up) then c
  else
    let c := c.lives ((below 2304).map (fun b => lifeIx 32 (16 * b + actBin ((c.pc (b / 32) ((b / 16) % 2)).acts.get 0 (b % 16)))))
    { c with chcs := c.chcs.map (fun (k, h) => (k, { h with pcs := h.pcs.map (fun (p, pc) => (p, { pc with acts := [] })) })) }

/-- FLUSH_MIN minutes have passed: the counter image is written out (R629), with NVM_CFG applied first under AUTO_APPLY (R672). -/
def Chip.counterFlush (c : Chip) : Chip :=
  if !(c.nvmOpen && c.on) then c
  else
    let cfg := if c.auto 14 then c.nvm.cfg.apply else c.nvm.cfg
    { c with nvm := Nvm.kick { c.nvm with cfg := cfg, cntPend := 3128 } }

end Sys2Proof.Machine
end

