-- ==== Sys2Proof/Machine/Boot.lean ====
section
/-! DEFINITION. Reset, boot and boot self-test (R521-R550): PWRGD and RESET_N, the boot steps, SAFE and NO_SERVICE, READY, test mode,
and the loss of a rail (R694). -/

namespace Sys2Proof.Machine

/-! ### Registers of RST (R559) -/

/-- BOOT_STATUS.STATE. -/
def Chip.bootState (c : Chip) : Nat :=
  match c.boot.st with
  | .safe => 2
  | .fault => 4
  | .rearmWait => 5
  | .booting => if c.boot.testMode then 6 else 0
  | .ready => if c.boot.testMode then 6 else 1
  | .noService => if c.boot.testMode then 6 else 3

/-- BOOT_STATUS. -/
def Chip.bootStatus (c : Chip) : Nat :=
  let b := c.boot
  fld 28 4 c.bootState + fld 24 4 b.step + fld 16 8 b.cause + flag 14 b.patchRejected + flag 13 b.saveRamFail + flag 12 b.bwrBypass +
  flag 11 b.sbiFail + flag 10 b.nvmFail + flag 9 b.strapInvalid + fld 0 9 b.failBlock

/-- Slices in BYPASS_FAILED, and presses that have failed; with the main domain in reset, as many as there were before. -/
def Chip.slicesByp (c : Chip) : Nat :=
  if c.on then ((below 64).filter (fun s => (c.slice s).mode == .bypassFailed)).length else c.boot.sliceByp
def Chip.pressesFailed (c : Chip) : Nat :=
  if c.on then ((below 16).filter (fun p => (c.press p).mode == .failed)).length else c.boot.pressFail

/-- BOOT_DETAIL. -/
def Chip.bootDetail (c : Chip) : Nat :=
  fld 24 8 c.boot.pcFenced + fld 18 6 c.boot.portFail + fld 11 7 c.slicesByp + fld 6 5 c.pressesFailed

/-- RST_CAUSE. -/
def Chip.rstCause (c : Chip) : Nat := fld 8 8 c.boot.resetnCnt + fld 0 2 c.boot.last

/-! ### The reset of the main domain (R521, R522) -/

/-- The sensors as a reset leaves them: none is broken any more (R498). -/
def mendSensors (t : Tab Sensor) : Tab Sensor := t.map (fun (i, s) => (i, { s with broken := false, same := 0 }))

/-- What the keeper keeps of THM through a reset of the main domain: THM_SHUT_INFO, the re-arm condition and the sensors, whose broken
marks stand while a shutdown holds (R518). -/
def Thm.kept (t : Thm) : Thm :=
  { info := t.info, shut := t.shut, rearm := t.rearm, lowSeen := t.lowSeen, tripLow := t.tripLow, shutStart := t.shutStart
    sensors := if t.shut == .none then mendSensors t.sensors else t.sensors }

/-- What the keeper keeps of RST: all that its registers show, up to the start of the next boot (R521, R559). -/
def Boot.kept (b : Boot) : Boot :=
  { pwrgd := b.pwrgd, resetN := b.resetN, settled := b.settled, last := b.last, resetnCnt := b.resetnCnt
    portEn := b.portEn, mgmtSel := b.mgmtSel, step := 2
    cause := b.cause, failBlock := b.failBlock, patchRejected := b.patchRejected, saveRamFail := b.saveRamFail, bwrBypass := b.bwrBypass
    sbiFail := b.sbiFail, nvmFail := b.nvmFail, strapInvalid := b.strapInvalid, pcFenced := b.pcFenced, portFail := b.portFail
    sliceByp := b.sliceByp, pressFail := b.pressFail }

/-- A boot begins: RST shows nothing of the one before (DEDUCED, log entry 56). -/
def Boot.anew (b : Boot) : Boot :=
  { b with
    cause := 0, failBlock := 0x1FF, patchRejected := false, saveRamFail := false, bwrBypass := false, sbiFail := false, nvmFail := false
    pcFenced := 0, portFail := 0, sliceByp := 0, pressFail := 0 }

/-- The main domain is reset: everything but the keeper takes its reset value. -/
def Chip.mainReset (c : Chip) : Chip :=
  { keep := c.keep, free := c.free
    boot := { c.boot.kept with sliceByp := c.slicesByp, pressFail := c.pressesFailed }
    thm := c.thm.kept
    fus := { vprogOk := c.fus.vprogOk }, mgt := { bootstat := c.mgt.bootstat } }

/-- The contents of the core dies are lost (R344, R516, R523). -/
def State.loseMemory (s : State) : State := { s with mem := [], epoch := s.epoch + 1 }

/-- A record write or a fuse pulse in progress is cut short, and with it what it belonged to (R616, R619). -/
def State.cutShort (s : State) : State :=
  let n := s.chip.free
  { s with
    fuses := if s.chip.pulsing then (match s.chip.fus.cmd with | some m => s.fuses.cut m (Config.cutFuse n) | none => s.fuses) else s.fuses
    book := s.chip.cutRecordWrite s.book n
    chip := { s.chip with free := n + 1, fus := { s.chip.fus with cmd := none }, nvm := { s.chip.nvm with cur := none } } }

/-- The main domain is reset with everything in progress abandoned and the memory lost. -/
def State.mainReset (s : State) : State := (s.cutShort.loseMemory).onChip Chip.mainReset

/-! ### PWRGD and RESET_N (R521, R522, R525, R693, R721) -/

/-- PWRGD rises, and the keeper leaves reset: step 1, which takes no time, and then step 2, in which CK_KEEP settles (R525). -/
def Chip.pwrgdRise (c : Chip) : Chip :=
  if c.boot.pwrgd then c
  else { c with keep := 0, boot := { c.boot with pwrgd := true, step := 2, last := 1, resetnCnt := 0 } }

/-- PWRGD falls: the keeper and the main domain are reset. -/
def State.pwrgdFall (s : State) : State :=
  if !s.chip.boot.pwrgd then s
  else (s.cutShort.loseMemory).onChip (fun c => { free := c.free, fus := { vprogOk := c.fus.vprogOk } })

/-- Whether a low pulse of RESET_N resets the main domain, with the free value it may draw: one of 1 us, the least that R691 asks for, is
seen, one shorter than 50 ns is not (R693), and between them either may be (DEDUCED, log entry 3). -/
def Chip.pulseSeen (c : Chip) (lowNs : Nat) : Bool × Chip :=
  if lowNs < 50 then (false, c)
  else if 1000 ≤ lowNs then (true, c)
  else (Config.shortPulse c.free, { c with free := c.free + 1 })

/-- The shutdown's record when RESET_N falls within the grace: what was in progress is cut. -/
def Chip.cutInfo (c : Chip) : Chip :=
  if c.thm.shut == .grace && (c.pulsing || c.recording) then
    { c with thm := { c.thm with info := { c.thm.info with cut := 3, cutOp := c.opInProgress } } }
  else c

/-- RESET_N falls. -/
def State.resetNFall (s : State) (lowNs : Nat) : State :=
  if !(s.chip.boot.pwrgd && s.chip.boot.resetN) then s
  else
    let (seen, c) := s.chip.pulseSeen lowNs
    let s := { s with chip := c }
    if !seen then s
    else
      let after := c.thm.shut != .none
      let s := (s.onChip Chip.cutInfo).mainReset
      s.onChip (fun c => { c with
        boot := { c.boot with
          resetN := false, resetnCnt := min 0xFF (c.boot.resetnCnt + 1), last := if after then 3 else 2
          st := if after then .rearmWait else .booting }
        thm := { c.thm with lowSeen := true, shut := if after then .released else .none } })

/-- The straps that a rise of RESET_N samples, with which boot begins (R41, R57, R61, R522). -/
def Chip.sampleStraps (c : Chip) (straps : BitVec 10) (stable : Bool) : Chip :=
  let v := if stable then straps.toNat else (Config.floatStrap c.free).toNat
  { c with
    free := if stable then c.free else c.free + 1
    boot := { c.boot.anew with resetN := true, portEn := natBits v 0 5, mgmtSel := natBits v 5 5, strapInvalid := natBits v 0 2 == 3 } }

/-- Boot goes on to step 3 (R518, R525). -/
def Chip.step3 (c : Chip) : Chip :=
  { c with
    boot := { c.boot with step := 3, st := .booting }
    thm := { c.thm with shut := .none, tripLow := false, sensors := if c.thm.shut == .none then c.thm.sensors else mendSensors c.thm.sensors } }

/-- Whether the hold of R518 is over. -/
def Chip.rearmed (c : Chip) : Bool := c.thm.shut == .released && c.thm.lowSeen && c.boot.resetN && c.belowRearm

/-- The synchronised RESET_N rises. -/
def Chip.resetNRise (c : Chip) (straps : BitVec 10) (stable : Bool) : Chip :=
  if !c.boot.pwrgd || c.boot.resetN then c
  else
    let c := c.sampleStraps straps stable
    if c.boot.settled && (c.thm.shut == .none || c.rearmed) then c.step3 else c

/-- The settling time of step 2 ends. -/
def Chip.keeperSettleEnd (c : Chip) : Chip :=
  if !c.boot.pwrgd || c.boot.settled then c
  else
    let c := { c with boot := { c.boot with settled := true, step := 2 } }
    if c.boot.resetN && c.thm.shut == .none then c.step3 else c

/-- The re-arm hold ends with RESET_N already high. -/
def Chip.rearmRelease (c : Chip) : Chip := if c.boot.pwrgd && c.rearmed then c.step3 else c

/-! ### SAFE (R531, R536, R539, R540) -/

/-- Boot ends in SAFE: the main domain stays in reset but for the PLLs and the responder. -/
def Chip.enterSafe (c : Chip) (cause : Nat) : Chip :=
  let b := c.boot
  let r := c.mainReset
  { r with
    boot := { r.boot with
      st := .safe, step := b.step, cause := cause
      refclkOk := b.refclkOk, pllA := b.pllA, pllB := b.pllB }
    fus := { r.fus with eff := c.fus.eff } }

/-- A boot step is in progress, before READY or NO_SERVICE. -/
def Chip.inStep (c : Chip) (n : Nat) : Bool := c.on && c.boot.st == .booting && c.boot.step == n

/-- Whether PORT_EN selects port `i` (R57-R59). -/
def strapSelects (portEn i : Nat) : Bool :=
  let offset := natBits portEn 2 2
  match natBits portEn 0 2 with
  | 0 => true
  | 1 => (if natBit portEn 4 then i / 16 else i % 2) == offset % 2
  | 2 => (if natBit portEn 4 then i / 8 else i % 4) == offset % 4
  | _ => false

/-- Whether the responder may bring up a sideband (R540). -/
def Chip.responderSideband (c : Chip) : Bool :=
  c.boot.pllA && strapSelects c.boot.portEn c.boot.mgmtSel && !natBit (c.fus.eff.get 0 5) c.boot.mgmtSel

/-- The SAFE responder brings up the management port's sideband, in SAFE, or in the fault state where it was never initialised. -/
def Chip.safeSidebandInit (c : Chip) : Chip :=
  let up (c : Chip) : Chip := c.onPort c.boot.mgmtSel (fun p => { p with enabled := true, strapEn := true, mgmtPort := true, sbUp := true })
  if !(c.boot.pwrgd && c.boot.resetN && c.responderSideband) || c.thm.shut == .released then c
  else if c.boot.st == .safe then up c
  else if c.flt.fault && !(c.port c.boot.mgmtSel).sbUp then up c
  else c

/-! ### Step 3 (R525, R531, R56-R61, R604-R609) -/

/-- A port as the straps and fuses leave it. -/
def Chip.portAtStep3 (c : Chip) (i : Nat) : Port :=
  let strap := strapSelects c.boot.portEn i
  let fuse := natBit (c.fus.eff.get 0 5) i
  let mine := c.boot.mgmtSel == i
  if c.boot.strapInvalid then { strapEn := false, fuseDis := fuse, mgmtPort := mine, state := .down, reason := 12 }
  else if !strap then { strapEn := false, fuseDis := fuse, mgmtPort := mine, state := .down, reason := 1 }
  else if fuse then { strapEn := true, fuseDis := true, mgmtPort := mine, state := .down, reason := 2 }
  else { strapEn := true, enabled := true, mgmtPort := mine }

/-- Both PLLs have locked, and FUS reads the array. -/
def Chip.pllLock (c : Chip) (a : FuseArray) : Chip :=
  if !c.inStep 3 then c
  else
    let r := a.bootRead
    let c := { c with boot := { c.boot with pllA := true, pllB := true, refclkOk := true }, fus := c.fus.takeRead r }
    if !r.itemOk then c.enterSafe 3
    else
      let c := r.events.foldl (fun c e => c.raise 3 e) c
      { c with
        thm := { c.thm with fused := c.fus.eff.get 0 6 }
        ports := (below 32).map (fun i => (i, c.portAtStep3 i))
        boot := { c.boot with step := 4 } }

/-- A PLL has not locked in time. -/
def Chip.pllLockTimeout (c : Chip) (a b : Bool) : Chip :=
  if c.inStep 3 && !(a && b) then { c with boot := { c.boot with pllA := a, pllB := b, refclkOk := true } }.enterSafe 1 else c

/-- A PLL loses lock (R42, R531). -/
def Chip.pllLockLoss (c : Chip) (b : Bool) : Chip :=
  if !(c.boot.pwrgd && (if b then c.boot.pllB else c.boot.pllA)) then c
  else
    let c := { c with boot := if b then { c.boot with pllB := false } else { c.boot with pllA := false } }
    if c.inStep 3 || c.inStep 4 then c.enterSafe 1
    else if c.on then c.raiseLevel 0 ⟨3, if b then 0x02 else 0x01, 0⟩
    else c

/-- REFCLK is found lost (R42, R531). -/
def Chip.refclkLost (c : Chip) : Chip :=
  if !c.boot.pwrgd then c
  else
    let was := c.boot.refclkOk
    let c := { c with boot := { c.boot with refclkOk := false } }
    if c.inStep 3 || c.inStep 4 then c.enterSafe 2
    else if c.on && was then c.raiseLevel 0 ⟨3, 0x03, 0⟩
    else c

/-- The shadows are reloaded from the fuse array, if they are zeroised (R535). -/
def Chip.reloadShadows (c : Chip) (a : FuseArray) : Chip := if c.fus.zeroised then { c with fus := c.fus.loadShadows a.words } else c

/-- FUS reloads the shadows at the end of a scan operation (R535). A field test holds them zeroised from RUN_BIST to the end of
its restore. -/
def Chip.shadowReload (c : Chip) (a : FuseArray) : Chip :=
  let scanning := match c.boot.field with | some t => 3 ≤ t.phase && t.phase ≤ 5 | none => false
  if c.on && !scanning then c.reloadShadows a else c

/-! ### Self-test (R532-R538, R461-R463, R542-R544) -/

/-- The boot step that runs a test block, if there is such a block. -/
def testStep (i : Nat) : Option Nat :=
  if i < 6 then some 4 else if i < 11 then some 5 else if i < 16 then none else if i < 264 then some 6 else none

/-- The test blocks of a boot step. -/
def stepTests (n : Nat) : List Nat := match n with | 4 => below 6 | 5 => upFrom 6 5 | 6 => upFrom 16 248 | _ => []

/-- The type of a test block, by which BIST_REF gives its references (R601). -/
def testType (i : Nat) : Nat :=
  if i < 16 then i else if i < 48 then 11 else if i < 112 then 12 else if i < 176 then 13 else if i < 248 then 14 else 15

/-- The outcome of a logic BIST as BST_RESULT.RESULT codes it: the signature against the one fused, the pattern counter against the programmed
count, and the run-complete flag (R532, R533). -/
def Chip.logicResult (c : Chip) (t : Nat) (r : BistRun) : Nat :=
  if r.signature.toNat != c.fus.eff.get 0 (22 + 2 * t) then 2
  else if r.count.toNat == c.fus.eff.get 0 (23 + 2 * t) && r.complete then 1 else 3

/-- The outcome of a memory BIST: the compare-fail flag, the range, and the run-complete flag. -/
def memoryResult (r : BistRun) : Nat := if r.bad then 2 else if r.range && r.complete then 1 else 3

/-- Two outcomes of one test taken together: FAIL over INCOMPLETE over PASS. -/
def worse (a b : Nat) : Nat := if a = 2 || b = 2 then 2 else max a b

/-- Whether a test of a block is a scan operation, before which the secrets are zeroised (R534); the save RAM and the slice arrays
have a memory BIST only. -/
def scanTest (i : Nat) : Bool := i != 10 && !(48 ≤ i && i < 112)

/-- Whether the boot test of a block has a memory BIST: that of the save RAM, an HPA's tag memory, a slice's arrays, a retry buffer (R525). -/
def memoryTest (i : Nat) : Bool := i == 10 || (16 ≤ i && i < 112) || (176 ≤ i && i < 248)

/-- BST_RESULT.RESULT of a boot run of a block. -/
def Chip.bistResult (c : Chip) (i : Nat) (r : BistRun) : Nat :=
  worse (if scanTest i then c.logicResult (testType i) r else 1) (if memoryTest i then memoryResult r else 1)

/-- Fence a pseudo-channel at boot: substitution is left to step 10, and a reserve pseudo-channel becomes unusable (R205, R548). -/
def Chip.fenceAtBoot (c : Chip) (k p : Nat) : Chip :=
  if (c.pc k p).state == .fenced then c
  else
    let c := { c with boot := { c.boot with pcFenced := c.boot.pcFenced + 1 } }
    if k < 64 then ((c.onPc k p (fun pc => { pc.setMap 0 with rate4 := false })).fencePc k p).endQueues k p else c.reserveUnusable [(k, p)]

/-- The consequence of a test block's failure at boot (R537). -/
def Chip.bootFails (c : Chip) (i : Nat) : Chip :=
  if i = 6 then { c with boot := { c.boot with xbrFail := true } }
  else if i = 7 then { c with boot := { c.boot with bwrBypass := true }, bwr := { c.bwr with bypass := true } }
  else if i = 8 then { c with boot := { c.boot with sbiFail := true } }
  else if i = 9 then c.nvmFails
  else if i = 10 then { c with boot := { c.boot with saveRamFail := true } }
  else if i < 48 then
    let c := { c with boot := { c.boot with portFail := c.boot.portFail + 1 } }
    c.onPort (i - 16) (fun p => { p with
      bistFail := true, state := if p.enabled then .down else p.state, reason := if p.enabled then 10 else p.reason })
  else if i < 112 then c.onSlice (i - 48) (fun s => { s with failed := true, mode := .bypassFailed })
  else if i < 176 then (c.fenceAtBoot (i - 112) 0).fenceAtBoot (i - 112) 1
  else if i < 248 then ((c.onChc (i - 176) (fun h => { h with bistFail := true })).fenceAtBoot (i - 176) 0).fenceAtBoot (i - 176) 1
  else c.onPress (i - 248) (fun p => { p with mode := .failed })

/-- The result of a checker self-test in the registers of its pseudo-channel (R462). -/
def Pc.checked (pc : Pc) (v : CheckerRun) : Pc :=
  { pc with vectors := v.matched.val, pathFail := !v.passes, chkFail := !v.passes }

/-- The checker self-test of a pseudo-channel at boot step 7, of which `v` of the 40 vectors matched (R461-R463, R538). -/
def Chip.bootChecker (c : Chip) (k p : Nat) (v : CheckerRun) : Chip :=
  let c := c.onPc k p (·.checked v)
  if v.passes || (c.pc k p).state == .fenced then c else (c.fenceAtBoot k p).raise (fltChc k) ⟨2, 0x6A, p⟩

/-- Boot step 4 ends: FLT captures, ALIVE starts, and THM evaluates (R524, R525, R567). -/
def Chip.endStep4 (c : Chip) : Chip :=
  ({ c with flt := { c.flt with on := true, aliveOn := true }, boot := { c.boot with step := 5 } }).capture (below 200)

/-- Boot step 5 ends: NVM loads and the patch is verified, once the reload of the shadows is over (R529, R535, R629-R631). A directory that
cannot be read has failed NVM's own test before (R622). -/
def Chip.endStep5 (c : Chip) (a : FuseArray) (b : Book) : Chip :=
  let c := c.reloadShadows a
  let c := if c.nvm.failed then c else (c.nvmLoad b).1
  let c := c.loadPatch b
  { c with boot := { c.boot with step := 6 } }

/-! ### Steps 8 to 10 (R525, R545, R548, R192-R194, R205-R207) -/

/-- Change every pseudo-channel of the part. -/
def Chip.onAllPcs (c : Chip) (f : Chip → Nat → Nat → Chip) : Chip := (below 72).foldl (fun c k => f (f c k 0) k 1) c

/-- The map of the array's CONFIG word (R192). -/
def Chip.fusedMap (c : Chip) : Nat := let m := natBits (c.fus.eff.get 0 64) 0 2; if m = 3 then 0 else m

/-- The map in force is fixed (R192-R194). -/
def Chip.fixMap (c : Chip) : Chip :=
  { c with
    addr := { c.addr with mode := if c.addr.req < 3 then c.addr.req else c.fusedMap, fixed := true, waiting := false }
    boot := { c.boot with mapWaited := true } }

/-- Boot step 10 begins, with the wait of R193 where it applies. -/
def Chip.beginStep10 (c : Chip) : Chip :=
  let c := { c with boot := { c.boot with step := 10 } }
  if natBit (c.fus.eff.get 0 64) 2 && c.addr.req == 3 then { c with addr := { c.addr with waiting := true } } else c.fixMap

/-- A port still on its way to step 4 of R65. -/
def Port.training (p : Port) : Bool := p.enabled && (p.state == .sbInit || p.state == .mbTrain || p.state == .adapterInit)

/-- Boot step 9 ends once no enabled port is on its way any more (R66). -/
def Chip.endStep9If (c : Chip) : Chip :=
  if c.inStep 9 && !(below 32).any (fun n => (c.port n).training) then c.beginStep10 else c

/-- The ports that boot step 9 starts (R64, R65): those that are enabled, one that was disabled and enabled again before it among them
(R67). -/
def Port.startsAtStep9 (p : Port) : Bool :=
  p.enabled && (p.state == .reset || (p.state == .down && p.reason == 3 && !p.disable))

/-- Boot step 9 begins: the enabled ports start, and the retirement log is reloaded. ENTROPY has served its purpose (R603). -/
def Chip.beginStep9 (c : Chip) (b : Book) : Chip :=
  let c := { c with boot := { c.boot with step := 9 }, fus := c.fus.dropEntropy }
  let c := (below 32).foldl (fun c n => if (c.port n).startsAtStep9 then c.onPort n Port.start else c) c
  (c.reloadRetire b).endStep9If

/-- Boot step 8 ends once no pseudo-channel trains any more. -/
def Chip.endStep8If (c : Chip) (b : Book) : Chip :=
  if c.inStep 8 && !(below 72).any (fun k => (c.pc k 0).state == .training || (c.pc k 1).state == .training) then c.beginStep9 b else c

/-- Whether every sensor of a physical core die is broken. -/
def Chip.dieBlind (c : Chip) (d : Nat) : Bool := (c.sensor (16 + 2 * d)).broken && (c.sensor (17 + 2 * d)).broken

/-- Boot step 8 begins: the calibration set is loaded, the pseudo-channels of blind dies are fenced, and the others train. -/
def Chip.beginStep8 (c : Chip) (b : Book) : Chip :=
  let c := { c with boot := { c.boot with step := 8 } }.loadCal b
  let role := c.dieRole
  let c := c.onAllPcs (fun c k p => if c.dieBlind (physDie role k) then c.fenceAtBoot k p else c)
  let c := c.onAllPcs (fun c k p =>
    let t := c.dieTemp8 k
    if (c.pc k p).state == .fenced then c else c.onPc k p (fun pc => { (pc.startFrom t) with state := .training }))
  c.endStep8If b

/-- The outcome of a block's boot test: NVM's fails too where a directory slot has no valid copy (R622). -/
def Chip.bootResult (c : Chip) (b : Book) (i : Nat) (r : BistRun) : Nat :=
  if i = 9 && b.loadReloc.isNone then worse 2 (c.bistResult i r) else c.bistResult i r

/-- A boot self-test of a test block completes (R537). -/
def Chip.bootLbistEnd (c : Chip) (a : FuseArray) (b : Book) (i : Nat) (run : BistRun) (v0 v1 : CheckerRun) (zeroiseOk : Bool) : Chip :=
  match testStep i with
  | none => c
  | some n =>
    if !(c.inStep n && !c.boot.results.has i) then c
    else if scanTest i && !zeroiseOk then c.enterSafe 6
    else
      let c := if scanTest i then { c with fus := c.fus.zeroise true } else c
      let res := c.bootResult b i run
      let c := { c with boot := { c.boot with results := c.boot.results.put i { result := res, patterns := run.patterns.toNat } } }
      if n = 4 && res != 1 then ({ c with boot := { c.boot with failBlock := i } }).enterSafe (if res = 3 then 5 else 4)
      else
        let c := if res = 1 then c
          else (({ c with boot := { c.boot with failBlock := min c.boot.failBlock i } }).bootFails i).raise 6 ⟨1, 0x28, i⟩
        let c := if 176 ≤ i && i < 248 then (c.bootChecker (i - 176) 0 v0).bootChecker (i - 176) 1 v1 else c
        if (stepTests n).all (fun j => c.boot.results.has j) then
          (match n with
            | 4 => c.endStep4
            | 5 => c.endStep5 a b
            | _ => c.beginStep8 b)
        else c

/-- The training of a pseudo-channel ends, at boot or under TRAIN (R408, R415, R416). -/
def Chip.pcTrainingEnd (c : Chip) (b : Book) (k p : Nat) (at8 at4 : TrainAttempt) : Chip :=
  if (c.pc k p).state != .training then c
  else if c.inStep 8 then (c.bootTrainEnd k p at8 at4).endStep8If b
  else if c.live then c.cmdTrainEnd k p at8 at4
  else c

/-- 100 ms after the start of step 9 (R66), which comes once: every port that has not reached step 4 goes DOWN, whether or not step 9
has ended before. A port that starts again later has no deadline (log entry 30). -/
def Chip.linkTrainDeadline (c : Chip) : Chip :=
  if !(c.live && 9 ≤ c.boot.step && !c.boot.linkTimed) then c
  else
    let c := { c with boot := { c.boot with linkTimed := true } }
    ((below 32).foldl (fun c n => if (c.port n).training then c.linkDown n 7 else c) c).endStep9If

/-- The wait of R193 expires. -/
def Chip.mapWaitTimeout (c : Chip) : Chip := if c.inStep 10 && c.addr.waiting then c.fixMap else c

/-- A write of ADDR_MAP_CFG.REQ, whose first write since reset holds (R193, R194, R676). -/
def Chip.mapReqWrite (c : Chip) (v : Nat) : Chip :=
  if !c.on then c
  else
    let c := if c.addr.reqSet then c else { c with addr := { c.addr with req := natBits v 4 2, reqSet := true } }
    if c.live && c.inStep 10 && c.addr.waiting then c.fixMap else c

/-- Retirements reloaded onto unusable reserve banks are placed again, in ascending order of data bank (R205, R214). -/
def Chip.replaceReloaded (c : Chip) : Chip :=
  (below 2048).foldl (fun c bank =>
    match c.entryOf bank with
    | some e =>
      let (k, p, _) := entryPlace e
      if (c.remapE e).cause == 3 && c.fenced k p then
        let c := (c.setRemap e { cause := 4 }).dropRacks (fun j => j.onEntry e)
        if c.fenced (bank / 32) ((bank / 16) % 2) then c else c.replaceRetired bank e false
      else c
    | none => c) c

/-- Rackings of banks whose pseudo-channel is fenced at boot: a row retirement has no bank to rack in, nor any of a slice-dead channel, and a bank retirement
writes poisoned blocks (R421). -/
def Chip.settleRacks (c : Chip) : Chip :=
  let gone (j : RackJob) : Bool := c.fenced (j.bank / 32) ((j.bank / 16) % 2)
  let c := c.dropRacks (fun j => (j.kind == .row && gone j) || c.sliceDead (j.bank / 32))
  (below 16).foldl (fun c d =>
    if (c.die d).queue.any gone then
      c.onDie d (fun x => { x with queue := x.queue.map (fun j => if gone j then { j with poison := true } else j) })
    else c) c

/-- The minimum service set (R546): a data pseudo-channel counts whose banks are served, from its own core die or through a reserve. -/
def Chip.minimumSet (c : Chip) : Bool :=
  !c.boot.xbrFail && (below 32).any (fun n => (c.port n).linkUp && !(c.port n).bistFail) &&
  (below 2048).any c.served

/-- The rest of boot step 10 (R547, R548). -/
def Chip.bootStep10 (c : Chip) : Chip :=
  if !(c.inStep 10 && c.addr.fixed) then c
  else
    let c := c.replaceReloaded.settleRacks
    let c := (below 128).foldl (fun c i => if c.fenced (i / 2) (i % 2) then (c.substitute (i / 2) (i % 2) 1 false).1 else c) c
    let c := if c.bwr.bypass then c else { c with bwr := { c.bwr with deliver := c.deliverable } }
    if c.minimumSet then { c with boot := { c.boot with step := 11 } }
    else { c with boot := { c.boot with st := .noService, cause := 7 } }

/-- Boot step 11: READY (R530). A stack in test mode sends no READY (R550). -/
def Chip.makeReady (c : Chip) : Chip :=
  if !(c.inStep 11 && c.live && !c.boot.testMode) then c
  else { c with
    boot := { c.boot with st := .ready }
    ports := c.ports.map (fun (n, p) => (n, if p.state == .activeWait then { p with state := .active, sbSent := [readyMsg] } else p)) }

/-! ### Test mode (R549, R550) -/

/-- A write of 1 to BST_TEST_MODE.ENTER. -/
def Chip.enterTestMode (c : Chip) : Chip :=
  if c.live && c.boot.testLock.v == 0 && !(below 32).any (fun n => (c.port n).state == .active) then
    { c with boot := { c.boot with testMode := true } }
  else c

/-! ### The end of a shutdown's grace, and rails (R515-R518, R694) -/

/-- Whether the grace is over: nothing is in progress, or 60 us have passed. -/
def Chip.graceOver (c : Chip) : Bool := c.thm.shut == .grace && (!(c.pulsing || c.recording) || c.thm.shutStart + 1500 ≤ c.keep)

/-- The grace ends and the internal rails are released. -/
def State.shutdownGraceEnd (s : State) : State :=
  if !s.chip.graceOver then s
  else
    (s.onChip Chip.cutInfo).mainReset.onChip (fun c => { c with
      boot := { c.boot with st := .rearmWait }
      thm := { c.thm with shut := .released } })

/-- What the decanter holds is lost (R219). -/
def Slice.lose (s : Slice) : Slice := { s with lines := [], evbs := [], granWait := [], out := [] }

/-- A rail leaves its range without the PWRGD notice (R694). -/
def State.railLost (s : State) : State :=
  if !s.chip.boot.pwrgd then s
  else (s.cutShort.loseMemory).onChip (fun c => { c with slices := c.slices.map (fun (i, x) => (i, x.lose)) })

/-- VPROG or VDD_KEEP enters or leaves its range (R689). -/
def Chip.vprogLevel (c : Chip) (vprogOk keepOk : Bool) : Chip := { c with fus := { c.fus with vprogOk := vprogOk && keepOk } }

end Sys2Proof.Machine
end

