-- ==== Sys2Proof/Machine/Frames.lean ====
section
/-! DEFINITION. The register frames (R662-R668, R679-R686): which frame an address names, which register an offset acts on, and what
a read of each register shows. -/

namespace Sys2Proof.Machine

/-! ### The frame map (R679, R685) -/

/-- The number of a frame: its base divided by 0x1000. -/
def frameNo : Frame → Nat
  | .id => 0 | .mgt => 1 | .clk => 2 | .rst => 3 | .fus => 4 | .nvm => 5 | .flt => 6 | .err => 7 | .thm => 8 | .bst => 9
  | .xbr => 0x80 | .bwr => 0x81
  | .hpa n => 0x100 + n.val | .chc k => 0x200 + k.val | .dct c => 0x300 + c.val | .prs p => 0x380 + p.val

/-- The frame at a number; none for an empty slot (R662). -/
def frameAt (n : Nat) : Option Frame :=
  match n with
  | 0 => some .id | 1 => some .mgt | 2 => some .clk | 3 => some .rst | 4 => some .fus | 5 => some .nvm | 6 => some .flt
  | 7 => some .err | 8 => some .thm | 9 => some .bst | 0x80 => some .xbr | 0x81 => some .bwr
  | n =>
    if h : 0x100 ≤ n ∧ n - 0x100 < 32 then some (.hpa ⟨n - 0x100, h.2⟩)
    else if h : 0x200 ≤ n ∧ n - 0x200 < 72 then some (.chc ⟨n - 0x200, h.2⟩)
    else if h : 0x300 ≤ n ∧ n - 0x300 < 64 then some (.dct ⟨n - 0x300, h.2⟩)
    else if h : 0x380 ≤ n ∧ n - 0x380 < 16 then some (.prs ⟨n - 0x380, h.2⟩)
    else none

/-- TYPE of a frame. -/
def frameType : Frame → Nat
  | .id => 0x01 | .mgt => 0x02 | .clk => 0x03 | .rst => 0x04 | .fus => 0x05 | .nvm => 0x06 | .flt => 0x07 | .err => 0x08
  | .thm => 0x09 | .bst => 0x0A | .xbr => 0x10 | .bwr => 0x11 | .hpa _ => 0x20 | .chc _ => 0x30 | .dct _ => 0x40 | .prs _ => 0x48

/-- DECODE_MASK of a frame. -/
def decodeMask : Frame → Nat
  | .id | .mgt | .nvm | .bst => 0x01C
  | .clk => 0x004 | .rst => 0x00C | .fus | .err => 0x03C | .flt | .chc _ => 0x1FC | .thm | .bwr | .hpa _ => 0x0FC
  | .xbr => 0x2FC | .dct _ | .prs _ => 0x07C

/-- Whether writes to a frame are posted (R670). -/
def isPosted : Frame → Bool
  | .id | .mgt | .clk | .rst | .fus | .nvm | .flt | .err | .thm | .bst => true
  | .xbr | .bwr | .hpa _ | .chc _ | .dct _ | .prs _ => false

/-- INSTANCE of a frame. -/
def frameInst : Frame → Nat
  | .hpa n => n.val | .chc k => k.val | .dct c => c.val | .prs p => p.val
  | .id | .mgt | .clk | .rst | .fus | .nvm | .flt | .err | .thm | .bst | .xbr | .bwr => 0

/-- The update group of a frame, if it is in one (R685). -/
def groupOf : Frame → Option Nat
  | .hpa n => some (n.val / 16)
  | .chc k => some (2 + k.val / 8)
  | .dct c => some (2 + c.val / 8)
  | .prs _ => some 11 | .bwr => some 12 | .thm => some 13 | .nvm => some 14
  | .id | .mgt | .clk | .rst | .fus | .flt | .err | .bst | .xbr => none

/-- FRAME_ID (R683). -/
def frameId (f : Frame) : Nat :=
  fld 24 8 (frameType f) + flag 21 (isPosted f) + flag 20 (groupOf f).isSome + fld 16 4 ((groupOf f).getD 0) + fld 8 8 (frameInst f) + 1

/-! ### Slots (R663) -/

/-- A slot in a run of registers. -/
def inRun (lo hi o : Nat) : Bool := lo ≤ o && o ≤ hi

/-- Whether an offset is a defined slot of its frame, the common registers of R664 and R683 among them. -/
def isSlot (f : Frame) (o : Nat) : Bool :=
  o % 4 == 0 && (inRun 0x3F4 0x3FC o ||
    match f with
    | .id | .mgt | .nvm | .bst => inRun 0x00 0x18 o
    | .clk => inRun 0x00 0x04 o
    | .rst => inRun 0x00 0x08 o
    | .fus => inRun 0x00 0x24 o
    | .flt => inRun 0x00 0x38 o || inRun 0x40 0xFC o || o == 0x100
    | .err => inRun 0x00 0x08 o || inRun 0x10 0x34 o
    | .thm => inRun 0x00 0x24 o || inRun 0x40 0x84 o || inRun 0x90 0xCC o || inRun 0xD0 0xD8 o
    | .xbr => inRun 0x100 0x108 o || inRun 0x200 0x230 o || inRun 0x240 0x248 o
    | .bwr => inRun 0x00 0x18 o || inRun 0x40 0xDC o
    | .hpa _ => inRun 0x00 0x24 o || inRun 0x40 0x74 o || inRun 0x80 0xA8 o
    | .chc _ => inRun 0x00 0x18 o || inRun 0x20 0x48 o || inRun 0x80 0xC4 o || inRun 0x100 0x130 o
    | .dct _ => inRun 0x00 0x14 o || inRun 0x20 0x78 o
    | .prs _ => inRun 0x00 0x14 o || inRun 0x20 0x38 o || inRun 0x40 0x4C o)

/-- The slot that an offset acts on, if any. -/
def resolve (f : Frame) (o : Nat) : Option Nat :=
  let o' := o % 0x400
  if isSlot f o' then some o'
  else
    let m := o' &&& decodeMask f
    if isSlot f m then some m else none

/-- The frame and the slot that an address of the management space acts on (R662, R663). -/
def target (addr : Nat) : Option (Frame × Nat) :=
  match frameAt (addr / 0x1000 % 0x1000) with
  | some f => (resolve f (addr % 0x1000)).map (fun o => (f, o))
  | none => none

/-! ### Reads -/

/-- The bits `i` below `n` that satisfy `p`. -/
def maskOf (n : Nat) (p : Nat → Bool) : Nat := sumBelow n (fun i => flag i (p i))

/-- Word `k` of a set of blocks: bit `i` stands for member 32k + i. -/
def wordOf (p : Nat → Bool) (k : Nat) : Nat := maskOf 32 (fun i => p (32 * k + i))

/-- Low and high word of a count. -/
def loWord (n : Nat) : Nat := n % 2 ^ 32
def hiWord (n : Nat) : Nat := n / 2 ^ 32

/-- How many numbers below `n` satisfy `p`. -/
def countBelow (n : Nat) (p : Nat → Bool) : Nat := ((below n).filter p).length

/-- STATE of a link. -/
def LinkState.code : LinkState → Nat
  | .reset => 0 | .sbInit => 1 | .mbTrain => 2 | .adapterInit => 3 | .activeWait => 4 | .active => 5 | .down => 6 | .retrain => 7

/-- PORT_LINK_STATUS. -/
def Port.linkStatus (p : Port) : Nat :=
  flag 31 p.mgmtPort + flag 30 p.strapEn + flag 29 p.fuseDis + flag 24 p.cvt +
  fld 20 4 (if p.state == .down then p.reason else 0) +
  fld 6 2 (if p.state == .adapterInit || p.linkUp then p.rate else 0) + flag 5 p.sbUp + p.state.code

/-- PORT_STREAM_STATE of stream `k`. -/
def Port.streamState (p : Port) (k : Nat) : Nat :=
  flag 31 (p.stream k).broken + flag 30 (p.reqs.any (fun r => r.op == .fence && r.streamN == k)) + flag 29 (p.stream k).relPend +
  fld 16 11 (p.outstanding k) + (p.stream k).exp.toNat

/-- PORT_STREAM_SUMMARY. -/
def Port.streamSummary (p : Port) : Nat :=
  fld 16 12 ((p.streams.filter (fun (e : Nat × Stream) => e.2.broken)).length) +
  fld 0 12 (((p.reqs.filter (fun r => isMember r.op)).map Req.streamN).eraseDups.length)

/-- Contexts that a port's jobs hold (PORT_JOB_COUNT.ACTIVE). -/
def Chip.portJobs (c : Chip) (n : Nat) : Nat :=
  sumBelow 16 (fun p => (List.filter (fun (e : Nat × JobCtx) => e.2.port == n) (c.press p).ctxs).length)

/-- A credit pool's register. -/
def credWord (init : Nat) (held : Int) : Nat := fld 16 12 init + heldShown held

/-- A register of HPA n (R81, R139, R182). -/
def Chip.readHpa (c : Chip) (n o : Nat) : Nat :=
  let p := c.port n
  match o with
  | 0x000 => fld 0 6 p.cfg.shadow + flag 6 p.system
  | 0x004 => fld 8 4 p.replayLim + fld 4 2 p.rateCap + flag 1 p.disable
  | 0x008 => p.linkStatus
  | 0x00C => repairWord p.repTx
  | 0x010 => repairWord p.repRx
  | 0x014 => (p.copies.map (·.1)).getD p.cntCrc
  | 0x018 => (p.copies.map (·.2.1)).getD p.cntReplay
  | 0x01C => (p.copies.map (·.2.2.1)).getD p.linkCounts
  | 0x020 => (p.copies.map (·.2.2.2)).getD p.cntDiscard
  | 0x040 => credWord 0x400 p.heldReq
  | 0x044 => credWord 0x600 p.heldRsp
  | 0x048 => credWord 0x040 p.heldMgt
  | 0x04C => fld 16 11 p.peak + fld 0 11 p.tagsOut
  | 0x050 => fld 16 4 p.jobWait.length + fld 0 11 (c.portJobs n)
  | 0x054 => p.waitJob.us
  | 0x058 => p.waitRsp.us
  | 0x05C => p.cntBadop
  | 0x060 => p.cntDenied
  | 0x064 => p.cntUnmapped
  | 0x068 => p.cntCredViol
  | 0x06C => p.rejHdr0
  | 0x070 => fld 8 8 p.rejDetail + fld 0 5 p.rejStatus
  | 0x080 => p.streamSel
  | 0x084 => p.streamState p.streamSel
  | 0x088 => p.streamSummary
  | 0x08C => p.cntSeqGap
  | 0x090 => p.waitOrder.us
  | 0x094 => p.cntSplit
  | 0x098 => p.e2eCheck
  | 0x09C => p.e2eFail
  | 0x0A0 => p.e2eOutCnt
  | 0x0A4 => fld 16 16 p.strikes + fld 0 2 p.e2eRun
  | _ => 0

/-- MODE of a slice. -/
def SliceMode.code : SliceMode → Nat
  | .normal => 0 | .draining => 1 | .bypassTest => 2 | .bypassFailed => 3 | .channelTest => 4

/-- The nine 64-bit counters of a slice, in the order of their offsets. -/
def Slice.cnts (s : Slice) : List Cnt64 :=
  [s.cntRdHit, s.cntRdMiss, s.cntWrHit, s.cntWrMiss, s.cntPrompt, s.cntAlu, s.cntWbSect, s.cntRefHit, s.cntEvict]

/-- DCT_LINE_TAG of slice `k`. -/
def Slice.lineTag (s : Slice) (k : Nat) : Nat :=
  match s.lines.look s.lineSel with
  | some l => 2 ^ 31 + flag 30 (s.hot l) + fld 27 3 l.age + fld 23 4 l.hits + fld 22 1 l.p + fld 18 4 l.b +
      flag 17 (s.rowLocked (l.rowLoc k)) + fld 0 16 l.r
  | none => 0

/-- A register of DCT c (R257). -/
def Chip.readDct (c : Chip) (k o : Nat) : Nat :=
  let s := c.slice k
  match o with
  | 0x000 => s.cfg.shadow
  | 0x004 => fld 16 6 s.cq.length + fld 12 3 s.evbs.length + fld 8 3 s.walks.length + s.mode.code
  | 0x008 => s.lineSel
  | 0x00C => s.lineTag k
  | 0x010 => (s.lines.look s.lineSel).elim 0 (fun l => fld 16 16 l.dirty + fld 0 16 l.valid)
  | 0x068 => s.cntPromptFb
  | 0x06C => s.cntSramCe
  | 0x070 => s.cntSramUe
  | 0x074 => s.cntDiscard
  | 0x078 => s.waitCq.us
  | o =>
    if inRun 0x020 0x064 o then
      let n := s.cnts.getD ((o - 0x020) / 8) {}
      if o % 8 = 0 then loWord n.count else n.latch
    else 0

/-- A register of BWR (R306). A stack whose BWR failed shows BWR_CAP as 0 (R542). -/
def Chip.readBwr (c : Chip) (o : Nat) : Nat :=
  let b := c.bwr
  match o with
  | 0x000 => b.cfg.shadow
  | 0x004 => fld 24 8 (maskOf 8 c.overBudget) + flag 2 c.rackActive + flag 1 b.inForce + flag 0 b.degraded
  | 0x008 => if b.bypass then 0 else fld 16 13 b.sum + fld 0 13 b.deliver
  | 0x00C => b.factor
  | 0x010 => b.thr.shadow
  | 0x014 => b.cntAged
  | o =>
    if inRun 0x040 0x0BC o then
      let x := c.cls ((o - 0x040) / 16)
      match o % 16 with
      | 0 => fld 16 16 (if b.inForce then min 0xFFFE x.budget else 0xFFFF) + fld 0 13 x.guar
      | 4 => min max16 x.counter
      | 8 => loWord x.bytes
      | _ => x.latch
    else if inRun 0x0C0 0x0DC o then (c.cls ((o - 0x0C0) / 4)).demote
    else 0

/-- Unserved data banks (R209). -/
def Chip.unserved (c : Chip) : Nat := countBelow 2048 (fun b => !c.served b)
/-- Remap entries that are free and usable, valid, and unusable. -/
def Chip.remapFree (c : Chip) : Nat := countBelow 256 (fun e => (c.remapE e).free)
def Chip.remapUsed (c : Chip) : Nat := countBelow 256 (fun e => (c.remapE e).valid)
def Chip.remapUnusable (c : Chip) : Nat := countBelow 256 (fun e => (c.remapE e).cause == 4)

/-- The map that ADDR_MAP_CFG.MODE shows: the fused default before step 10, then the map in force. -/
def Chip.mapShown (c : Chip) : Nat := if c.addr.fixed then c.addr.mode else c.fusedMap

/-- A register of XBR (R212, R308, R487). -/
def Chip.readXbr (c : Chip) (o : Nat) : Nat :=
  let a := c.addr
  let w := c.window a.winSel
  match o with
  | 0x100 => c.xbr.arbSel
  | 0x104 => if c.xbr.arbSel < 113 then (c.xbr.stall.get {} c.xbr.arbSel).us else 0
  | 0x200 => flag 8 a.waiting + fld 4 2 a.req + c.mapShown
  | 0x204 => fld 16 12 c.unserved + (if 10 ≤ c.boot.step then fld 0 9 c.remapFree else 0)
  | 0x208 => a.winSel
  | 0x20C => w.base
  | 0x210 => w.limit
  | 0x214 => fld 1 2 w.policy + flag 0 w.en
  | 0x218 => natBits w.perm 0 32
  | 0x21C => natBits w.perm 32 32
  | 0x220 => natBits w.perm 64 32
  | 0x224 => natBits w.perm 96 32
  | 0x228 => a.remapSel
  | 0x22C =>
    let r := c.remapE a.remapSel
    flag 31 r.valid + fld 28 3 r.cause + flag 16 r.racking + (if r.valid then fld 0 11 r.bank else 0)
  | 0x230 => fld 16 9 c.remapUnusable + fld 0 9 c.remapUsed
  | 0x240 => a.rowmapSel
  | 0x244 =>
    let r := c.rowmapE a.rowmapSel
    flag 31 r.valid + flag 30 r.racking + flag 29 r.unusable + fld 0 16 r.row
  | 0x248 =>
    fld 16 16 ((List.filter (fun (e : Nat × RowMap) => e.2.unusable) a.rowmap).length) +
    fld 0 16 ((List.filter (fun (e : Nat × RowMap) => e.2.valid) a.rowmap).length)
  | _ => 0

/-- MODE of a press. -/
def PressMode.code : PressMode → Nat
  | .normal => 0 | .quiescing => 1 | .underTest => 2 | .failed => 3

/-- JSTATE of a job in a context. -/
def JobCtx.jstate (j : JobCtx) : Nat := if j.ended then 5 else if !j.released then 2 else if j.cancel then 4 else 3

/-- KIND of a job. -/
def JobKind.code : JobKind → Nat
  | .fill => 0 | .copy => 1 | .rangeCrc => 2

/-- A register of PRS p (R346, R488). -/
def Chip.readPrs (c : Chip) (p o : Nat) : Nat :=
  let x := c.press p
  let d := c.die p
  match o with
  | 0x000 => x.cfg.shadow
  | 0x004 =>
    fld 27 3 x.mode.code + flag 26 (d.cur.isSome || !d.queue.isEmpty) + flag 25 (d.scrubOn && !c.scrubWaits p) + fld 16 8 x.rdbufFree +
    fld 8 7 ((List.filter (fun (e : Nat × JobCtx) => e.2.jstate == 3 || e.2.jstate == 4) x.ctxs).length) + fld 0 7 x.ctxs.length
  | 0x008 => x.ctxSel
  | 0x00C =>
    match x.ctxs.look x.ctxSel with
    | some j => 2 ^ 31 + flag 30 j.cancel + fld 27 3 j.jstate + fld 25 2 j.kind.code + fld 22 3 j.cls + fld 17 5 j.port + fld 0 10 j.tag
    | none => 0
  | 0x010 => (x.ctxs.look x.ctxSel).elim 0 (fun j => fld 0 31 (j.done / 64))
  | 0x020 => loWord x.cntChunk.count
  | 0x024 => x.cntChunk.latch
  | 0x028 => x.cntJobEnd
  | 0x02C => x.cntJobAbort
  | 0x030 => x.cntLostblk
  | 0x034 => x.waitRdbuf.us
  | 0x038 => x.waitTest.us
  | 0x040 => x.scrubCfg.shadow
  | 0x044 => fld 24 8 d.passes + flag 23 (c.scrubWaits p) + fld 0 16 (min 49151 d.scrubRow)
  | 0x048 =>
    match d.cur with
    | some j => 2 ^ 31 + flag 30 (j.kind != .row) + fld 16 11 j.bank + fld 0 16 j.row
    | none => 0
  | 0x04C => fld 0 7 d.pending
  | _ => 0

/-- STATE of a pseudo-channel. -/
def PcState.code : PcState → Nat
  | .untrained => 0 | .training => 1 | .normal => 2 | .retrainHold => 3 | .rescue => 4 | .fenced => 5

/-- A pseudo-channel's half of CHC_REF_STATUS, CHC_CA_STATUS, CHC_Q_STATUS, CHC_PC_STATE and CHC_CAL_STATUS. -/
def Pc.refHalf (p : Pc) : Nat := flag 9 p.paying + flag 8 p.inRef + fld 6 2 p.band + fld 0 6 p.owed
def Pc.caHalf (p : Pc) : Nat := flag 3 p.replaying + fld 0 3 p.fails
def Pc.qHalf (p : Pc) : Nat := flag 14 p.wmode + fld 8 6 p.wq.length + fld 0 6 p.rq.length
def Pc.stateHalf (p : Pc) : Nat := flag 12 p.rate4 + fld 8 2 p.erased.length + p.state.code
def Pc.calHalf (p : Pc) : Nat := fld 12 4 p.outcome + flag 11 (p.changes.any (fun x => !x.set.isEmpty)) + fld 0 8 p.dens

/-- Both halves of a register, pseudo-channel 1 in the upper 16 bits. -/
def Chc.halves (h : Chc) (f : Pc → Nat) : Nat := f (h.pc 1) * 2 ^ 16 + f (h.pc 0)

/-- CHC_TRK_ENTRY. -/
def Chc.trkEntry (h : Chc) : Nat :=
  match (h.pc (natBits h.trkSel 4 1)).track.look (natBits h.trkSel 0 4) with
  | some t => 2 ^ 31 + fld 20 4 t.count + fld 16 4 t.bank + fld 0 16 t.row
  | none => 0

/-- A register of CHC k (R392, R438, R485). -/
def Chip.readChc (c : Chip) (k o : Nat) : Nat :=
  let h := c.chc k
  match o with
  | 0x000 => h.schedCfg.shadow
  | 0x004 => h.refCfg.shadow
  | 0x008 => h.rdCfg.shadow
  | 0x00C => h.halves Pc.refHalf
  | 0x010 => flag 8 ((h.pc 0).state == .retrainHold || (h.pc 1).state == .retrainHold) + fld 4 4 (h.pc 1).caHalf + (h.pc 0).caHalf
  | 0x014 => h.halves Pc.qHalf
  | 0x020 => loWord h.cntAct.count
  | 0x024 => h.cntAct.latch
  | 0x028 => h.cntRef
  | 0x02C => h.cntRefDebt
  | 0x030 => h.cntNr1
  | 0x034 => h.cntNr2
  | 0x038 => h.cntAlert
  | 0x03C => h.cntReplayFail
  | 0x040 => h.cntRetrain
  | 0x044 => h.cntFwd
  | 0x048 => h.waitQ.us
  | 0x080 => h.trnCtl
  | 0x084 => h.patLo
  | 0x088 => h.patHi
  | 0x08C => flag 31 h.trnBusy + flag 30 h.trnDone + natBits h.trnFail 32 6
  | 0x090 => loWord h.trnFail
  | 0x094 => h.trnSel
  | 0x098 => h.trnCnts.get 0 h.trnSel
  | 0x09C => h.halves Pc.stateHalf
  | 0x0A0 => h.calSel
  | 0x0A4 => h.calVal
  | 0x0A8 => (h.pc 0).laneMap
  | 0x0AC => (h.pc 1).laneMap
  | 0x0B0 => h.calCfg.shadow
  | 0x0B4 => h.halves Pc.calHalf
  | 0x0B8 => h.cntCalAcc
  | 0x0BC => h.cntCalRef
  | 0x0C0 => h.cntLane
  | 0x100 => h.eccCfg.shadow
  | 0x104 => fld 8 6 (h.pc 1).vectors + fld 2 6 (h.pc 0).vectors + flag 1 (h.pc 1).chkFail + flag 0 (h.pc 0).chkFail
  | 0x108 => (h.pc 0).eccLast
  | 0x10C => (h.pc 1).eccLast
  | 0x110 => h.trkSel
  | 0x114 => h.trkEntry
  | 0x118 => h.cntCorr
  | 0x11C => h.cntChkonly
  | 0x120 => h.cntRewrite
  | 0x124 => h.cntPoisoned
  | 0x128 => h.cntMisdir
  | 0x12C => h.cntUndec
  | _ => 0

/-- A register of ERR (R484, R489). -/
def Ring.readErr (r : Ring) (o : Nat) : Nat :=
  match o with
  | 0x00 => fld 16 10 r.wr + fld 0 11 r.unread
  | 0x04 => r.rd
  | 0x08 => r.sel
  | 0x30 => r.ovwr
  | o => if inRun 0x10 0x2C o then (r.recs.get [] r.sel).getD ((o - 0x10) / 4) 0 else 0

/-- THM_SHUT_INFO. -/
def ShutInfo.word (i : ShutInfo) : Nat := flag 31 i.valid + fld 29 2 i.cut + fld 19 8 i.cutOp + fld 11 6 i.sensor + fld 0 11 i.temp

/-- THM_DIE[d]. -/
def Chip.thmDie (c : Chip) (d : Nat) : Nat :=
  let z := c.zone d
  flag 31 z.blind + flag 30 (natBit c.dieRole d) + fld 24 2 (c.effStep d) + fld 22 2 z.step + fld 20 2 z.band + flag 19 z.warn +
  flag 18 z.fast + tempBits z.temp

/-- THM_BZONE[z]: port groups 0-7, slice pairs 8-15. -/
def Chip.thmBzone (c : Chip) (i : Nat) : Nat :=
  let n := if i < 8 then 26 + i else 10 + i
  let z := c.zone n
  fld 22 2 (if i < 8 then (if z.pacing || (below 4).any (fun j => c.paces (4 * i + j)) then 3 else 0) else z.step) +
  flag 19 z.warn + flag 18 z.fast + tempBits z.temp

/-- THM_STATUS. -/
def Chip.thmStatus (c : Chip) : Nat :=
  fld 24 6 (countBelow 52 (fun i => (c.sensor i).broken)) + flag 23 ((below 32).any c.paces) +
  flag 22 ((below 26).any (fun z => 2 ≤ (c.zone z).step)) + flag 21 ((below 34).any (fun z => (c.zone z).warn)) +
  flag 20 ((below 18).any (fun z => (c.zone z).blind)) + tempBits c.stackMax

/-- THM_SENSOR: a broken sensor shows its substitute value (R499). -/
def Chip.thmSensor (c : Chip) : Nat :=
  if 52 ≤ c.thm.sel then 0
  else
    let s := c.sensor c.thm.sel
    flag 31 s.broken + flag 30 (c.zone (sensorZone c.thm.sel)).fast + fld 16 14 s.raw + tempBits (s.value c.thm.lim)

/-- A register of THM (R519). -/
def Chip.readThm (c : Chip) (o : Nat) : Nat :=
  let t := c.thm
  match o with
  | 0x00 => t.cfg.shadow
  | 0x04 => fld 24 8 t.lim.rearm + fld 16 8 t.lim.shut + fld 8 8 t.lim.throt + fld 0 8 t.lim.warn
  | 0x08 => fld 0 24 t.fused
  | 0x0C => t.lock.v
  | 0x10 => c.thmStatus
  | 0x14 => maskOf 32 (fun i => (c.sensor i).broken)
  | 0x18 => maskOf 20 (fun i => (c.sensor (32 + i)).broken)
  | 0x1C => t.info.word
  | 0x20 => t.sel
  | 0x24 => c.thmSensor
  | 0xD0 => t.cntThrot
  | 0xD4 => t.cntWarn
  | o => if inRun 0x40 0x84 o then c.thmDie ((o - 0x40) / 4) else if inRun 0x90 0xCC o then c.thmBzone ((o - 0x90) / 4) else 0

/-- Bit `b` of FLT_STATUS (R566), which stands still in the fault state (R583). -/
def Chip.statusBit (c : Chip) (b : Nat) : Bool := if c.flt.fault then c.flt.frozen.contains b else c.lineHigh b

/-- FLT_BLANK: windows open, the block of the latest, and the microseconds until the last one closes. -/
def Chip.fltBlank (c : Chip) : Nat :=
  let f := c.flt
  let last := f.windows.foldl (fun m w => max m w.closes) 0
  fld 24 8 f.windows.length + fld 16 8 f.lastWin + fld 0 16 (if f.windows.isEmpty then 0 else min max16 (ceilDiv (last - (if f.fault then f.frozenAt else c.keep)) 25))

/-- A register of FLT (R596). -/
def Chip.readFlt (c : Chip) (o : Nat) : Nat :=
  let f := c.flt
  let k := o / 4 % 8
  match o with
  | 0x000 => flag 1 f.ibiUc + flag 0 f.ibiCe
  | 0x004 => f.firstWord
  | 0x008 => f.firstDetail
  | 0x00C => match f.first with | some x => if x.done then loWord x.time else 0 | none => 0
  | 0x010 => f.firstLatch
  | 0x018 => f.blkSel
  | 0x01C =>
    match f.recs.look f.blkSel with
    | some r => 2 ^ 31 + fld 29 2 r.ev.cls + fld 16 8 r.ev.code + fld 0 16 r.ev.detail
    | none => 0
  | 0x020 => (f.recs.look f.blkSel).elim 0 (·.multi)
  | 0x024 => c.fltBlank
  | 0x028 => f.cntCe
  | 0x02C => f.cntUc
  | 0x030 => f.cntConseq
  | 0x034 => f.cntAckRef
  | 0x040 => wordOf c.statusBit 0
  | o =>
    if inRun 0x044 0x05C o then natBits f.statusLatch (32 * k) 32
    else if inRun 0x060 0x07C o then wordOf f.recs.has k
    else if inRun 0x0A0 0x0BC o then wordOf f.alsoList.contains k
    else if inRun 0x0C0 0x0DC o then wordOf f.conseq.contains k
    else if inRun 0x0E0 0x0FC o then wordOf c.ignored k
    else 0

/-- A register of FUS (R637). -/
def Fus.readFus (f : Fus) (o : Nat) : Nat :=
  match o with
  | 0x00 => f.cfg
  | 0x04 => flag 0 f.en
  | 0x08 => f.progLock.v
  | 0x0C => flag 31 f.cmd.isSome + flag 30 f.vprogOk + fld 16 8 f.locked + fld 0 16 f.state
  | 0x14 => fld 24 8 f.marginal + fld 0 10 f.margCnt
  | 0x18 => fld 24 8 f.amendReg + fld 0 5 f.amendCnt
  | 0x1C => f.cntPulse
  | 0x20 => f.cntFail
  | _ => 0

/-- A register of NVM (R638). -/
def Nvm.readNvm (n : Nvm) (o : Nat) : Nat :=
  match o with
  | 0x00 => n.cfg.shadow
  | 0x04 => flag 31 n.failed + flag 30 n.cur.isSome + fld 23 7 n.journalQ.length + fld 0 8 n.reloc.length
  | 0x08 => fld 16 16 n.patchGen + fld 0 16 n.calGen
  | 0x0C => n.cntWrite
  | 0x10 => n.cntBad
  | 0x14 => n.cntDrop
  | _ => 0

/-- A register of RST (R559). -/
def Chip.readRst (c : Chip) (o : Nat) : Nat :=
  match o with
  | 0x0 => c.bootStatus
  | 0x4 => c.bootDetail
  | 0x8 => c.rstCause
  | _ => 0

/-- PHASE of BST_FIELD: 3 while the zeroising and the save go on, 4 while tests run, 5 while the restore runs, 6 while shadows
are reloaded and checked. -/
def Chip.bstField (c : Chip) : Nat :=
  match c.boot.field with
  | some t => 2 ^ 31 + fld 28 3 t.phase + fld 16 9 t.block + fld 0 16 c.fieldHint
  | none => 0

/-- A register of BST (R560). -/
def Chip.readBst (c : Chip) (o : Nat) : Nat :=
  let b := c.boot
  match o with
  | 0x00 => b.sel
  | 0x04 => let r := b.results.get {} b.sel; fld 29 3 r.result + flag 28 r.field + fld 0 24 r.patterns
  | 0x08 => c.bstField
  | 0x0C => flag 1 b.testMode
  | 0x10 => b.testLock.v
  | 0x14 => fld 16 16 b.cntRuns + fld 0 16 b.cntFails
  | _ => 0

/-- A register of CLK (R42). -/
def Chip.readClk (c : Chip) (o : Nat) : Nat :=
  match o with
  | 0x0 => flag 2 c.boot.refclkOk + flag 1 c.boot.pllB + flag 0 c.boot.pllA
  | 0x4 => maskOf 32 (fun n => (c.port n).fwdOk)
  | _ => 0

/-- A register of ID (R684). -/
def Chip.readId (c : Chip) (o : Nat) : Nat :=
  match o with
  | 0x00 => c.fus.eff.get 0 0
  | 0x04 => c.fus.eff.get 0 1
  | 0x08 => c.fus.eff.get 0 2
  | 0x0C => c.fus.eff.get 0 3
  | 0x10 => 0x00010000
  | 0x14 => c.boot.patchVersion
  | 0x18 => 0x00C40001
  | _ => 0

/-- Whether a shadow of a group waits for its update (R674). -/
def Chip.groupDirty (c : Chip) (g : Nat) : Bool :=
  let chc (k : Nat) : Bool :=
    let h := c.chc k
    h.schedCfg.dirty || h.refCfg.dirty || h.rdCfg.dirty || h.calCfg.dirty || h.eccCfg.dirty
  match g with
  | 0 => (below 16).any (fun n => (c.port n).cfg.dirty)
  | 1 => (below 16).any (fun n => (c.port (16 + n)).cfg.dirty)
  | 10 => (upFrom 64 8).any chc
  | 11 => (below 16).any (fun p => (c.press p).cfg.dirty || (c.press p).scrubCfg.dirty)
  | 12 => c.bwr.cfg.dirty || c.bwr.thr.dirty
  | 13 => c.thm.cfg.dirty
  | 14 => c.nvm.cfg.dirty
  | 15 => false
  | g => (upFrom (8 * (g - 2)) 8).any (fun k => chc k || (c.slice k).cfg.dirty)

/-- Commands that stand in Ilael's queue but for its own orders. -/
def Mgt.queued (m : Mgt) : Nat := (m.queue.filter (fun k => k.path != 4)).length

/-- A register of MGT (R677). -/
def Chip.readMgt (c : Chip) (o : Nat) : Nat :=
  let m := c.mgt
  match o with
  | 0x04 => m.updAuto
  | 0x08 => maskOf 16 c.groupDirty
  | 0x0C => m.lock.v
  | 0x10 => if m.lock.v = 1 then 0 else m.trimOfs
  | 0x14 => fld 16 16 m.fails + flag 1 m.holdoff + flag 0 c.fus.provisioned
  | 0x18 => fld 16 8 (m.long.elim 0 (·.cmd)) + fld 0 5 m.queued
  | _ => 0

/-- The frame of a test block, if it has one. -/
def frameTested (f : Frame) (block : Nat) : Bool :=
  match f with
  | .dct c => block == 112 + c.val
  | .chc k => block == 176 + k.val
  | .prs p => block == 248 + p.val
  | .id | .mgt | .clk | .rst | .fus | .nvm | .flt | .err | .thm | .bst | .xbr | .bwr | .hpa _ => false

/-- Whether a frame's block has its state in the save RAM or its scan chains in a test (R668): from the save to the end of the
restore. -/
def Chip.frameHidden (c : Chip) (f : Frame) : Bool :=
  match c.boot.field with
  | some t => 3 ≤ t.phase && t.phase ≤ 5 && 1 ≤ t.step && frameTested f t.block
  | none => false

/-- What a register shows, at the slot that R663 gives. -/
def Chip.regValue (c : Chip) (f : Frame) (o : Nat) : Nat :=
  if o = 0x3F4 then frameId f
  else if o = 0x3F8 then flag 0 (c.mgt.posted.has (frameNo f))
  else if o = 0x3FC then c.mgt.drops.get 0 (frameNo f)
  else if c.frameHidden f then 0
  else match f with
    | .id => c.readId o
    | .mgt => c.readMgt o
    | .clk => c.readClk o
    | .rst => c.readRst o
    | .fus => c.fus.readFus o
    | .nvm => c.nvm.readNvm o
    | .flt => c.readFlt o
    | .err => c.ring.readErr o
    | .thm => c.readThm o
    | .bst => c.readBst o
    | .xbr => c.readXbr o
    | .bwr => c.readBwr o
    | .hpa n => c.readHpa n.val o
    | .chc k => c.readChc k.val o
    | .dct k => c.readDct k.val o
    | .prs p => c.readPrs p.val o

/-! ### RLL registers (R17, R667) -/

/-- A count latches its high word. -/
def Cnt64.latchHigh (n : Cnt64) : Cnt64 := { n with latch := hiWord n.count }

/-- Latch counter `i` of a slice. -/
def Slice.latchCnt (s : Slice) (i : Nat) : Slice :=
  match i with
  | 0 => { s with cntRdHit := s.cntRdHit.latchHigh }
  | 1 => { s with cntRdMiss := s.cntRdMiss.latchHigh }
  | 2 => { s with cntWrHit := s.cntWrHit.latchHigh }
  | 3 => { s with cntWrMiss := s.cntWrMiss.latchHigh }
  | 4 => { s with cntPrompt := s.cntPrompt.latchHigh }
  | 5 => { s with cntAlu := s.cntAlu.latchHigh }
  | 6 => { s with cntWbSect := s.cntWbSect.latchHigh }
  | 7 => { s with cntRefHit := s.cntRefHit.latchHigh }
  | 8 => { s with cntEvict := s.cntEvict.latchHigh }
  | _ => s

/-- What a read of a register changes: a low word latches what goes with it (R596, R667). -/
def Chip.readLatch (c : Chip) (f : Frame) (o : Nat) : Chip :=
  if c.frameHidden f then c
  else match f with
    | .dct k => if inRun 0x020 0x060 o && o % 8 == 0 then c.onSlice k.val (·.latchCnt ((o - 0x020) / 8)) else c
    | .chc k => if o = 0x020 then c.onChc k.val (fun h => { h with cntAct := h.cntAct.latchHigh }) else c
    | .prs p => if o = 0x020 then c.onPress p.val (fun x => { x with cntChunk := x.cntChunk.latchHigh }) else c
    | .bwr =>
      if inRun 0x048 0x0B8 o && o % 16 == 8 then
        { c with bwr := { c.bwr with cls := c.bwr.cls.upd {} ((o - 0x040) / 16) (fun x => { x with latch := hiWord x.bytes }) } }
      else c
    | .flt =>
      if o = 0x00C then
        { c with flt := { c.flt with firstLatch := match c.flt.first with | some x => if x.done then natBits x.time 32 16 else 0 | none => 0 } }
      else if o = 0x040 then
        { c with flt := { c.flt with statusLatch := sumBelow 8 (fun k => wordOf c.statusBit k * 2 ^ (32 * k)) } }
      else c
    | .id | .mgt | .clk | .rst | .fus | .nvm | .err | .thm | .bst | .xbr | .hpa _ => c

/-- One word is read at an address: its value, and the state after it. -/
def Chip.regRead (c : Chip) (addr : Nat) : Nat × Chip :=
  match target addr with
  | some (f, o) => (c.regValue f o, c.readLatch f o)
  | none => (0, c)

/-- A read of an RLL low word by an offset of its frame (R663). -/
def Chip.rllRead (c : Chip) (f : Frame) (off : Nat) : Chip :=
  if !c.live then c
  else match resolve f off with
    | some o => c.readLatch f o
    | none => c

end Sys2Proof.Machine
end

