-- ==== Sys2Proof/Machine/Regs.lean ====
section
/-! DEFINITION. Writes of registers (R669-R676, R682): shadows and their updates, locks, clears, posted writes, and the effect of a write
at every slot. -/

namespace Sys2Proof.Machine

/-! ### Updates of shadows (R669-R674) -/

/-- CFG_UPDATE of a press. -/
def Chip.updatePress (c : Chip) (p : Nat) : Chip :=
  if c.scanned (248 + p) then c.deferUpdate else c.onPress p Press.applyShadows

/-- Port `n` applies PORT_CFG (R82). -/
def Chip.applyPort (c : Chip) (n : Nat) : Chip :=
  if (c.port n).cfg.dirty then c.onPort n (fun p => { p with cfg := p.cfg.apply }) else c

/-- CFG_UPDATE of group `g` (R671, R685). -/
def Chip.applyGroup (c : Chip) (g : Nat) : Chip :=
  match g with
  | 0 => (below 16).foldl Chip.applyPort c
  | 1 => (upFrom 16 16).foldl Chip.applyPort c
  | 10 => (upFrom 64 8).foldl Chip.updateChannel c
  | 11 => (below 16).foldl Chip.updatePress c
  | 12 => { c with bwr := { c.bwr with cfg := c.bwr.cfg.apply, thr := c.bwr.thr.apply } }
  | 13 => c.applyThm
  | 14 => { c with nvm := { c.nvm with cfg := c.nvm.cfg.apply } }
  | 15 => c
  | g => if g < 10 then (upFrom (8 * (g - 2)) 8).foldl Chip.updateChannel c else c

/-- A CFG_UPDATE of the groups of a mask (R671). -/
def Chip.cfgUpdate (c : Chip) (mask : Nat) : Chip :=
  if !c.live then c else (below 16).foldl (fun c g => if natBit mask g then c.applyGroup g else c) c

/-- Ports whose link is not active apply at once under AUTO_APPLY (R672). -/
def Chip.settlePorts (c : Chip) : Chip :=
  (below 32).foldl (fun c n => if c.auto (n / 16) && (c.port n).state != .active then c.applyPort n else c) c

/-- A flit boundary of port `n`'s receive stream passes (R672). -/
def Chip.flitBoundary (c : Chip) (n : Nat) : Chip :=
  if c.live && c.auto (n / 16) && (c.port n).linkUp then c.applyPort n else c

/-- Whether a shadow of channel `k` waits. -/
def Chip.channelDirty (c : Chip) (k : Nat) : Bool :=
  let h := c.chc k
  h.schedCfg.dirty || h.refCfg.dirty || h.rdCfg.dirty || h.calCfg.dirty || h.eccCfg.dirty || (k < 64 && (c.slice k).cfg.dirty)

/-- Channels whose pseudo-channels are both fenced apply at once under AUTO_APPLY (R258, R394). -/
def Chip.settleChannels (c : Chip) : Chip :=
  (below 72).foldl (fun c k =>
    if c.auto (chcGroup k) && c.fenced k 0 && c.fenced k 1 && c.channelDirty k then c.updateChannel k else c) c

/-! ### Locks (R17, R676) -/

/-- A write to a WL field: the first since reset holds. -/
def Wl.write (w : Wl) (v : Nat) : Wl := if w.done then w else { v := v, done := true }

/-- The registers that hold a WL field. -/
def isWl (f : Frame) (o : Nat) : Bool :=
  match f with
  | .mgt | .thm => o == 0x0C
  | .fus => o == 0x08
  | .bst => o == 0x10
  | .xbr => o == 0x200
  | .id | .clk | .rst | .nvm | .flt | .err | .bwr | .hpa _ | .chc _ | .dct _ | .prs _ => false

/-- The registers that a P1 REG_WRITE may not write (R654, R682). -/
def p1Refused (f : Frame) (o : Nat) : Bool :=
  isWl f o ||
  match f with
  | .clk | .rst | .mgt | .fus | .nvm | .thm | .bst => true
  | .hpa _ => o == 0
  | .id | .flt | .err | .xbr | .bwr | .chc _ | .dct _ | .prs _ => false

/-! ### Clears -/

/-- PORT_ADM_CLR (R140). -/
def Port.clearAdm (p : Port) : Port :=
  { p with
    peak := p.tagsOut, waitJob := {}, waitRsp := {}, cntBadop := 0, cntDenied := 0, cntUnmapped := 0, cntCredViol := 0
    rejHdr0 := 0, rejDetail := 0, rejStatus := 0 }

/-- PORT_ORD_CLR (R184): RUN is not changed. -/
def Port.clearOrd (p : Port) : Port :=
  { p with cntSeqGap := 0, waitOrder := {}, cntSplit := 0, e2eCheck := 0, e2eFail := 0, e2eOutCnt := 0, strikes := 0 }

/-- DCT_CLR (R260). -/
def Slice.clear (s : Slice) : Slice :=
  { s with
    cntRdHit := {}, cntRdMiss := {}, cntWrHit := {}, cntWrMiss := {}, cntPrompt := {}, cntAlu := {}, cntWbSect := {}, cntRefHit := {}
    cntEvict := {}, cntPromptFb := 0, cntSramCe := 0, cntSramUe := 0, cntDiscard := 0, waitCq := {} }

/-- BWR_CLR (R306). -/
def Bwr.clear (b : Bwr) : Bwr :=
  { b with cntAged := 0, cls := b.cls.map (fun (k, x) => (k, { x with bytes := 0, latch := 0, demote := 0 })) }

/-- PRS_CLR (R346). -/
def Press.clear (p : Press) : Press :=
  { p with cntChunk := {}, cntJobEnd := 0, cntJobAbort := 0, cntLostblk := 0, waitRdbuf := {}, waitTest := {} }

/-- CHC_CLR (R393). -/
def Chc.clear (h : Chc) : Chc :=
  { h with
    cntAct := {}, cntRef := 0, cntRefDebt := 0, cntNr1 := 0, cntNr2 := 0, cntAlert := 0, cntReplayFail := 0, cntRetrain := 0
    cntFwd := 0, waitQ := {} }

/-- CHC_TRN_CLR (R439). -/
def Chc.clearTrn (h : Chc) : Chc := { h with cntCalAcc := 0, cntCalRef := 0, cntLane := 0 }

/-- CHC_ECC_CLR (R485). -/
def Chc.clearEcc (h : Chc) : Chc :=
  { h with cntCorr := 0, cntChkonly := 0, cntRewrite := 0, cntPoisoned := 0, cntMisdir := 0, cntUndec := 0 }

/-- A write of 1 to a clear or pulse field: `f` acts while registers are served and the block is not in a test (R668). -/
def Chip.pulse (c : Chip) (fr : Frame) (f : Chip → Chip) : Chip := if c.live && !c.frameHidden fr then f c else c

/-- PORT_CNT_CLR.CLR of port `n`. -/
def Chip.portCntClr (c : Chip) (n : PortIx) : Chip := c.pulse (.hpa n) (·.onPort n.val Port.writeCntClr)
/-- PORT_ADM_CLR.CLR of port `n`. -/
def Chip.portAdmClr (c : Chip) (n : PortIx) : Chip := c.pulse (.hpa n) (·.onPort n.val Port.clearAdm)
/-- PORT_ORD_CLR.CLR of port `n`. -/
def Chip.portOrdClr (c : Chip) (n : PortIx) : Chip := c.pulse (.hpa n) (·.onPort n.val Port.clearOrd)
/-- DCT_CLR.CLR. -/
def Chip.dctClr (c : Chip) (k : SliceIx) : Chip := c.pulse (.dct k) (·.onSlice k.val Slice.clear)
/-- BWR_CLR.CLR. -/
def Chip.bwrClr (c : Chip) : Chip := c.pulse .bwr (fun c => { c with bwr := c.bwr.clear })
/-- XBR_ARB_CLR.CLR (R308). -/
def Chip.xbrArbClr (c : Chip) : Chip := c.pulse .xbr (fun c => { c with xbr := { c.xbr with stall := [] } })
/-- PRS_CLR.CLR. -/
def Chip.prsClr (c : Chip) (p : PressIx) : Chip := c.pulse (.prs p) (·.onPress p.val Press.clear)
/-- CHC_CLR.CLR. -/
def Chip.chcClr (c : Chip) (k : ChcIx) : Chip := c.pulse (.chc k) (·.onChc k.val Chc.clear)
/-- CHC_TRN_CLR.CLR. -/
def Chip.chcTrnClr (c : Chip) (k : ChcIx) : Chip := c.pulse (.chc k) (·.onChc k.val Chc.clearTrn)
/-- CHC_ECC_CLR.CLR. -/
def Chip.chcEccClr (c : Chip) (k : ChcIx) : Chip := c.pulse (.chc k) (·.onChc k.val Chc.clearEcc)
/-- ERR_CLR.CLR (R489). -/
def Chip.errClr (c : Chip) : Chip := c.pulse .err (fun c => { c with ring := { c.ring with ovwr := 0 } })
/-- THM_CLR.CLR (R519). -/
def Chip.thmClr (c : Chip) : Chip := c.pulse .thm (fun c => { c with thm := { c.thm with cntThrot := 0, cntWarn := 0 } })
/-- BST_CLR.CLR (R560). -/
def Chip.bstClr (c : Chip) : Chip := c.pulse .bst (fun c => { c with boot := { c.boot with cntRuns := 0, cntFails := 0 } })
/-- FUS_CLR.CLR (R637). -/
def Chip.fusClr (c : Chip) : Chip := c.pulse .fus (fun c => { c with fus := { c.fus with cntPulse := 0, cntFail := 0 } })
/-- NVM_CLR.CLR (R638). -/
def Chip.nvmClr (c : Chip) : Chip := c.pulse .nvm (fun c => { c with nvm := { c.nvm with cntWrite := 0, cntBad := 0, cntDrop := 0 } })
/-- FLT_FIRST_CLR.CLR. -/
def Chip.fltFirstClr (c : Chip) : Chip := c.pulse .flt (fun c => { c with flt := c.flt.clearFirst })
/-- FLT_CONSEQ_CLR.CLR. -/
def Chip.fltConseqClr (c : Chip) : Chip := c.pulse .flt (fun c => { c with flt := c.flt.clearConseq })
/-- FLT_CLR.CLR. -/
def Chip.fltClr (c : Chip) : Chip := c.pulse .flt (fun c => { c with flt := c.flt.clearCounts })
/-- A write of FUS_LOCK_SET. -/
def Chip.fusLockSet (c : Chip) (v : Nat) : Chip := c.pulse .fus (fun c => { c with fus := c.fus.setLocks v })

/-- A write of ERR_RING_RDPTR moves it forward by at most UNREAD (R483). -/
def Ring.release (r : Ring) (v : Nat) : Ring :=
  let d := (natBits v 0 10 + 1024 - r.rd) % 1024
  if d ≤ r.unread then { r with rd := natBits v 0 10, unread := r.unread - d }
  else r

/-- A write of ERR_RING_RDPTR. -/
def Chip.ringRdptr (c : Chip) (v : Nat) : Chip := c.pulse .err (fun c => { c with ring := c.ring.release v })

/-! ### Writes at a slot -/

/-- A write of PORT_CFG: SYSTEM takes effect at once, the other fields land in the shadow (R82). -/
def Port.writeCfg (p : Port) (v : Nat) : Port := { p with system := natBit v 6, cfg := p.cfg.write (natBits v 0 6) }

/-- A write of PORT_LINK_CTL: its fields, then DISABLE, then RETRAIN (R67, R68). -/
def Chip.writeLinkCtl (c : Chip) (n v : Nat) : Chip :=
  let c := c.onPort n (fun p => { p with replayLim := natBits v 8 4, rateCap := natBits v 4 2 })
  let c := c.portDisable n (natBit v 1)
  if natBit v 0 then c.portRetrain n else c

/-- `f` where bit 0 of the value written is 1. -/
def Chip.ifBit0 (c : Chip) (v : Nat) (f : Chip → Chip) : Chip := if natBit v 0 then f c else c

/-- A write at a slot of HPA n. -/
def Chip.writeHpa (c : Chip) (n : PortIx) (o v : Nat) : Chip :=
  match o with
  | 0x000 => (c.onPort n.val (·.writeCfg v)).settlePorts
  | 0x004 => c.writeLinkCtl n.val v
  | 0x024 => c.ifBit0 v (·.portCntClr n)
  | 0x074 => c.ifBit0 v (·.portAdmClr n)
  | 0x080 => c.onPort n.val (fun p => { p with streamSel := natBits v 0 11 })
  | 0x0A8 => c.ifBit0 v (·.portOrdClr n)
  | _ => c

/-- A write at a slot of DCT c. -/
def Chip.writeDct (c : Chip) (k : SliceIx) (o v : Nat) : Chip :=
  match o with
  | 0x000 => (c.onSlice k.val (fun s => { s with cfg := s.cfg.write (fld 8 4 (natBits v 8 4) + fld 4 2 (natBits v 4 2) + flag 0 (natBit v 0)) })).settleChannels
  | 0x008 => c.onSlice k.val (fun s => { s with lineSel := natBits v 0 11 })
  | 0x014 => c.ifBit0 v (·.dctClr k)
  | _ => c

/-- A write at a slot of BWR. -/
def Chip.writeBwr (c : Chip) (o v : Nat) : Chip :=
  match o with
  | 0x000 => { c with bwr := { c.bwr with cfg := c.bwr.cfg.write (natBits v 0 13) } }
  | 0x010 => { c with bwr := { c.bwr with
      thr := c.bwr.thr.write (fld 24 5 (natBits v 24 5) + fld 16 5 (natBits v 16 5) + fld 8 5 (natBits v 8 5) + natBits v 0 5) } }
  | 0x018 => c.ifBit0 v Chip.bwrClr
  | _ => c

/-- A write at a slot of XBR. -/
def Chip.writeXbr (c : Chip) (o v : Nat) : Chip :=
  match o with
  | 0x100 => { c with xbr := { c.xbr with arbSel := natBits v 0 7 } }
  | 0x108 => c.ifBit0 v Chip.xbrArbClr
  | 0x200 => c.mapReqWrite v
  | 0x208 => { c with addr := { c.addr with winSel := natBits v 0 6 } }
  | 0x228 => { c with addr := { c.addr with remapSel := natBits v 0 8 } }
  | 0x240 => { c with addr := { c.addr with rowmapSel := natBits v 0 15 } }
  | _ => c

/-- A write at a slot of PRS p. -/
def Chip.writePrs (c : Chip) (p : PressIx) (o v : Nat) : Chip :=
  match o with
  | 0x000 => c.onPress p.val (fun x => { x with cfg := x.cfg.write (natBits v 0 7) })
  | 0x008 => c.onPress p.val (fun x => { x with ctxSel := natBits v 0 6 })
  | 0x014 => c.ifBit0 v (·.prsClr p)
  | 0x040 => c.onPress p.val (fun x => { x with scrubCfg := x.scrubCfg.write (natBits v 0 8) })
  | _ => c

/-- A write at a slot of CHC k. -/
def Chip.writeChc (c : Chip) (k : ChcIx) (o v : Nat) : Chip :=
  let h (f : Chc → Chc) : Chip := c.onChc k.val f
  match o with
  | 0x000 => (h (fun x => { x with schedCfg := x.schedCfg.write (natBits v 0 8) })).settleChannels
  | 0x004 => (h (fun x => { x with refCfg := x.refCfg.write (natBits v 0 5) })).settleChannels
  | 0x008 => (h (fun x => { x with rdCfg := x.rdCfg.write (natBits v 0 5) })).settleChannels
  | 0x018 => c.ifBit0 v (·.chcClr k)
  | 0x080 => c.writeTrnCtl k.val v
  | 0x084 => h (fun x => { x with patLo := v % 2 ^ 32 })
  | 0x088 => h (fun x => { x with patHi := v % 2 ^ 32 })
  | 0x094 => h (fun x => { x with trnSel := natBits v 0 6 })
  | 0x0A0 => h (fun x => { x with calSel := fld 8 5 (natBits v 8 5) + natBits v 0 6 })
  | 0x0A4 => c.writeCalVal k.val v
  | 0x0A8 => c.writeLaneMap k.val 0 v
  | 0x0AC => c.writeLaneMap k.val 1 v
  | 0x0B0 =>
    let w := flag 31 (natBit v 31) + flag 24 (natBit v 24) + fld 16 4 (natBits v 16 4) + fld 8 5 (natBits v 8 5) + natBits v 0 8
    (h (fun x => { x with calCfg := x.calCfg.write w })).settleChannels
  | 0x0C4 => c.ifBit0 v (·.chcTrnClr k)
  | 0x100 => (h (fun x => { x with eccCfg := x.eccCfg.write (natBits v 0 5) })).settleChannels
  | 0x110 => h (fun x => { x with trkSel := natBits v 0 5 })
  | 0x130 => c.ifBit0 v (·.chcEccClr k)
  | _ => c

/-- A write at a slot of MGT. A write of MGT_UPD_AUTO opens boundaries that stand open already (R672). -/
def Chip.writeMgt (c : Chip) (o v : Nat) : Chip :=
  match o with
  | 0x00 => c.cfgUpdate (natBits v 0 16)
  | 0x04 => ({ c with mgt := { c.mgt with updAuto := natBits v 0 16 } }.settlePorts).settleChannels
  | 0x0C => { c with mgt := { c.mgt with lock := c.mgt.lock.write (natBits v 0 1) } }
  | 0x10 => if c.mgt.lock.v = 1 then c else { c with mgt := { c.mgt with trimOfs := natBits v 0 16 } }
  | _ => c

/-- A write at a slot of FUS (R608, R610). -/
def Chip.writeFus (c : Chip) (o v : Nat) : Chip :=
  match o with
  | 0x00 => { c with fus := { c.fus with cfg := fld 8 6 (natBits v 8 6) + flag 0 (natBit v 0) } }
  | 0x04 => if c.fus.progLock.v = 1 then c else { c with fus := { c.fus with progEn := natBit v 0 } }
  | 0x08 => { c with fus := { c.fus with progLock := c.fus.progLock.write (natBits v 0 1) } }
  | 0x10 => c.fusLockSet v
  | 0x24 => c.ifBit0 v Chip.fusClr
  | _ => c

/-- A write at a slot of NVM. -/
def Chip.writeNvm (c : Chip) (o v : Nat) : Chip :=
  match o with
  | 0x00 => { c with nvm := { c.nvm with cfg := c.nvm.cfg.write (natBits v 0 8) } }
  | 0x18 => c.ifBit0 v Chip.nvmClr
  | _ => c

/-- A write at a slot of FLT. -/
def Chip.writeFlt (c : Chip) (o v : Nat) : Chip :=
  match o with
  | 0x000 => { c with flt := { c.flt with ibiUc := natBit v 1, ibiCe := natBit v 0 } }
  | 0x014 => c.ifBit0 v Chip.fltFirstClr
  | 0x018 => { c with flt := { c.flt with blkSel := natBits v 0 8 } }
  | 0x038 => c.ifBit0 v Chip.fltClr
  | 0x100 => c.ifBit0 v Chip.fltConseqClr
  | o => if inRun 0x080 0x09C o then c.fltAck ((o - 0x080) / 4) v else c

/-- A write at a slot of ERR. -/
def Chip.writeErr (c : Chip) (o v : Nat) : Chip :=
  match o with
  | 0x04 => c.ringRdptr v
  | 0x08 => { c with ring := { c.ring with sel := natBits v 0 10 } }
  | 0x34 => c.ifBit0 v Chip.errClr
  | _ => c

/-- A write at a slot of THM. -/
def Chip.writeThm (c : Chip) (o v : Nat) : Chip :=
  match o with
  | 0x00 =>
    let w := fld 24 4 (natBits v 24 4) + fld 16 6 (natBits v 16 6) + natBits v 0 16
    { c with thm := { c.thm with cfg := c.thm.cfg.write w, zones := c.thm.zones.map (fun (i, z) => (i, { z with cfgNew := false })) } }
  | 0x0C => { c with thm := { c.thm with lock := c.thm.lock.write (natBits v 0 1) } }
  | 0x20 => { c with thm := { c.thm with sel := natBits v 0 6 } }
  | 0xD8 => c.ifBit0 v Chip.thmClr
  | _ => c

/-- A write at a slot of BST. -/
def Chip.writeBst (c : Chip) (o v : Nat) : Chip :=
  match o with
  | 0x00 => { c with boot := { c.boot with sel := natBits v 0 9 } }
  | 0x0C => c.ifBit0 v Chip.enterTestMode
  | 0x10 => { c with boot := { c.boot with testLock := c.boot.testLock.write (natBits v 0 1) } }
  | 0x18 => c.ifBit0 v Chip.bstClr
  | _ => c

/-- The effect of a write at a slot, by the slot's access code and the behaviour its chapter gives it. -/
def Chip.regWrite (c : Chip) (f : Frame) (o v : Nat) : Chip :=
  if !c.live || c.frameHidden f then c
  else match f with
    | .id | .clk | .rst => c
    | .mgt => c.writeMgt o v
    | .fus => c.writeFus o v
    | .nvm => c.writeNvm o v
    | .flt => c.writeFlt o v
    | .err => c.writeErr o v
    | .thm => c.writeThm o v
    | .bst => c.writeBst o v
    | .xbr => c.writeXbr o v
    | .bwr => c.writeBwr o v
    | .hpa n => c.writeHpa n o v
    | .chc k => c.writeChc k o v
    | .dct k => c.writeDct k o v
    | .prs p => c.writePrs p o v

/-- A write reaches an offset of a frame (R663). -/
def Chip.writeOff (c : Chip) (f : Frame) (off v : Nat) : Chip :=
  match resolve f off with
  | some o => c.regWrite f o v
  | none => c

/-- A write to a register that holds a WL field; a write elsewhere is none of this command's. -/
def Chip.wlWrite (c : Chip) (f : Frame) (off v : Nat) : Chip :=
  match resolve f off with
  | some o => if isWl f o then c.regWrite f o v else c
  | none => c

/-! ### Posted writes (R670) -/

/-- A write arrives at a slot: at a posted frame it is held, or discarded while one is held; elsewhere it acts. The flag tells a
discarded write. -/
def Chip.sendWriteReg (c : Chip) (f : Frame) (o v : Nat) : Chip × Bool :=
  if isPosted f then
    if c.mgt.posted.has (frameNo f) then
      ({ c with mgt := { c.mgt with drops := c.mgt.drops.upd 0 (frameNo f) bump32 } }, true)
    else ({ c with mgt := { c.mgt with posted := c.mgt.posted.put (frameNo f) ⟨o, v⟩ } }, false)
  else (c.regWrite f o v, false)

/-- A write comes to a frame and takes effect by `g`: at a posted frame it is discarded and counted while one is held (R670). -/
def Chip.atFrame (c : Chip) (f : Frame) (g : Chip → Chip) : Chip :=
  if c.live && isPosted f && c.mgt.posted.has (frameNo f) then
    { c with mgt := { c.mgt with drops := c.mgt.drops.upd 0 (frameNo f) bump32 } }
  else g c

/-- A posted frame applies the write it holds. -/
def Chip.postedApply (c : Chip) (f : Frame) : Chip :=
  if !c.live then c
  else match c.mgt.posted.look (frameNo f) with
    | some w => { c with mgt := { c.mgt with posted := c.mgt.posted.del (frameNo f) } }.regWrite f w.off w.v
    | none => c

/-! ### What stands open after any event -/

/-- The applications that a change of link state or a fence has made due. -/
def Chip.settleRegs (c : Chip) : Chip := c.settlePorts.settleChannels

end Sys2Proof.Machine
end

