-- ==== Sys2Proof/Machine/Mgmt.lean ====
section
/-! DEFINITION. The management paths (R640-R661): carriers, command packets and their checks, privilege, the register state machine,
Ilael's queue, replies, the block reset of MGT, and the SAFE responder. -/

namespace Sys2Proof.Machine

/-! ### The command packet (R642, R643) -/

/-- CMD, PLEN, CMD_ID and CRED of a packet. Bytes that a packet lacks read 0. -/
def MgtPkt.cmd (m : MgtPkt) : Nat := (byteAt m.bytes 0).toNat
def MgtPkt.plen (m : MgtPkt) : Nat := leNat (byteSlice m.bytes 2 2)
def MgtPkt.cmdId (m : MgtPkt) : Nat := leNat (byteSlice m.bytes 4 4)
def MgtPkt.cred (m : MgtPkt) : Nat := leNat (byteSlice m.bytes 16 16)

/-- The parameters: PLEN bytes from the end of the header. -/
def MgtPkt.params (m : MgtPkt) : List Byte := (m.bytes.drop 32).take m.plen

/-- `len` bytes of the parameters from an offset, as a number. Parameters shorter than a command uses read 0 beyond their end. -/
def MgtPkt.par (m : MgtPkt) (off len : Nat) : Nat := leNat (byteSlice m.params off len)

/-- A parameter of R658: its bytes and the values it may take. -/
structure ParField where
  off  : Nat
  len  : Nat
  lo   : Nat
  hi   : Nat
  step : Nat := 1
  deriving DecidableEq, Repr

/-- The parameters of a command (R658); none for a reserved CMD. -/
def paramFields (cmd : Nat) : Option (List ParField) :=
  match cmd with
  | 0x01 => some [⟨0, 4, 0, 0xFFFFFC, 4⟩, ⟨4, 2, 1, 124, 1⟩]
  | 0x02 => some [⟨0, 4, 0, 0xFFFFFC, 4⟩, ⟨4, 4, 0, max32, 1⟩]
  | 0x10 | 0x11 => some [⟨0, 2, 0, 71, 1⟩, ⟨2, 1, 1, 3, 1⟩]
  | 0x03 | 0x12 | 0x3B => some []
  | 0x18 | 0x1A => some [⟨0, 2, 0, max16, 1⟩]
  | 0x19 => some [⟨0, 2, 0, max16, 1⟩, ⟨4, 4, 0, 65535, 1⟩]
  | 0x20 => some [⟨0, 2, 0, 2047, 1⟩, ⟨4, 4, 0, 49151, 1⟩]
  | 0x21 => some [⟨0, 2, 0, 2047, 1⟩]
  | 0x22 => some [⟨0, 1, 0, 9, 1⟩, ⟨4, 4, 0, max32, 1⟩]
  | 0x28 => some [⟨0, 2, 0, 511, 1⟩, ⟨2, 1, 0, 1, 1⟩, ⟨4, 4, 0, max32, 1⟩]
  | 0x29 => some [⟨0, 1, 0, 7, 1⟩]
  | 0x2A => some [⟨0, 2, 0, 511, 1⟩, ⟨2, 2, 1, 62, 1⟩]
  | 0x30 => some [⟨0, 1, 0, 255, 1⟩, ⟨4, 4, 0, max32, 1⟩]
  | 0x31 => some [⟨0, 1, 0, 255, 1⟩, ⟨4, 4, 0, max32, 1⟩, ⟨8, 48, 0, 2 ^ 384 - 1, 1⟩]
  | 0x38 => some [⟨0, 4, 0, max32, 1⟩]
  | 0x39 => some ((below 8).map (fun k => ⟨2 * k, 2, 0, 8191, 1⟩))
  | 0x3A => some [⟨0, 1, 0, 63, 1⟩, ⟨1, 1, 0, 7, 1⟩, ⟨4, 4, 0, 2 ^ 21 - 1, 1⟩, ⟨8, 4, 0, 2 ^ 21 - 1, 1⟩, ⟨16, 16, 0, 2 ^ 128 - 1, 1⟩]
  | _ => none

/-- Whether CMD is reserved. -/
def reservedCode (cmd : Nat) : Bool := (paramFields cmd).isNone

/-- The commands that the register state machine interprets (R641). -/
def isHwCmd (cmd : Nat) : Bool := cmd == 0x01 || cmd == 0x02 || cmd == 0x03

/-- The commands marked P1 in R658. -/
def isP1Cmd (cmd : Nat) : Bool := [0x01, 0x02, 0x03, 0x11, 0x20, 0x21, 0x22, 0x2A, 0x30, 0x3B].contains cmd

/-- Whether a header breaks R643. -/
def MgtPkt.badHeader (m : MgtPkt) : Bool :=
  m.bytes.length < 32 || byteAt m.bytes 1 != 0 || leNat (byteSlice m.bytes 8 8) != 0 || 480 < m.plen || m.bytes.length < 32 + m.plen

/-- Whether a parameter's value lies outside what R658 allows. -/
def ParField.bad (f : ParField) (m : MgtPkt) : Bool :=
  let v := m.par f.off f.len
  v < f.lo || f.hi < v || v % f.step != 0

/-- Parameters that bear on each other: the mask of REINFORCE, the run of FUSE_READ, the area codes of R621, and the slot of an
NVM_WRITE. -/
def MgtPkt.badTogether (m : MgtPkt) : List Nat :=
  match m.cmd with
  | 0x28 => if m.par 2 1 == 1 && m.par 4 4 != 0 then [4] else []
  | 0x2A => if 512 < m.par 0 2 + m.par 2 2 then [2] else []
  | 0x30 => if m.par 0 1 ≤ 9 || m.par 0 1 == 15 then [] else [0]
  | 0x31 => if (m.par 0 1 == 8 && 5466 ≤ m.par 4 4) || (m.par 0 1 == 9 && 1024 ≤ m.par 4 4) then [4] else []
  | _ => []

/-- The offsets of the bad parameters of a packet: values out of range, and bytes beyond those its command uses that are not 0. -/
def MgtPkt.badOffsets (m : MgtPkt) (fs : List ParField) : List Nat :=
  (fs.filter (·.bad m)).map (·.off) ++ m.badTogether ++
  ((numbered 0 m.params).filter (fun (x : Nat × Byte) => x.2 != 0 && !fs.any (fun f => f.off ≤ x.1 && x.1 < f.off + f.len))).map (·.1)

/-- The fault of form of a packet (R656): its reply code, and ARG where the manual gives one. -/
def MgtPkt.formFault (m : MgtPkt) : Option (Nat × Option Nat) :=
  match paramFields m.cmd with
  | none => some (1, some 0)
  | some fs =>
    if m.badHeader then some (2, none)
    else match m.badOffsets fs with
      | [] => none
      | o :: os => some (2, some (os.foldl min o))

/-! ### Replies (R642-R650, R656) -/

/-- A reply packet. -/
def replyBytes (m : MgtPkt) (rc arg : Nat) (data : List Byte) : List Byte :=
  leBytes 4 (fld 0 8 m.cmd + fld 8 8 rc + fld 16 16 data.length) ++ leBytes 4 m.cmdId ++ leBytes 4 arg ++ padBytes 4 [] ++
  padBytes (16 * ceilDiv data.length 16) data

/-- The JTAG register after an access has ended: DONE, and the word that a read brought. -/
def jtagDone (reg : Nat) (data : List Byte) : Nat :=
  let keep := reg / 2 ^ 32 * 2 ^ 32 ||| 2 ^ 62
  keep + (if data.isEmpty then reg % 2 ^ 32 else leNat (data.take 4))

/-- A reply as consecutive messages of the sideband, from index `i` on (R645). -/
def replyMsgs (i : Nat) : List Byte → Nat → List SbMsg
  | _, 0 => []
  | bs, f + 1 =>
    if bs.length ≤ 8 then [⟨i + 128, leNat (padBytes 8 bs)⟩] else ⟨i, leNat (bs.take 8)⟩ :: replyMsgs (i + 1) (bs.drop 8) f

/-- The messages of a reply. -/
def sbMsgs (bs : List Byte) : List SbMsg := replyMsgs 0 bs (ceilDiv bs.length 8)

/-- The reply to a packet goes out on its path. Path 5 stands for a command that a block reset has answered already. -/
def Chip.reply (c : Chip) (m : MgtPkt) (rc arg : Nat) (data : List Byte) : Chip :=
  let bs := replyBytes m rc arg data
  match m.path with
  | 0 => c.sendPkt .mgt epMgt m.port (.mgmtRsp m.port m.tag (if rc = 7 then .overcommit else .ok) 0 bs)
  | 1 => { c with mgt := { c.mgt with sbOut := sbMsgs bs, sbBusy := false } }
  | 2 =>
    let i := c.mgt.i3c
    { c with mgt := { c.mgt with
        i3c := { i with busy := false, reply := some bs, ibi1 := if i.ibi1.isNone then some (m.cmd, rc) else i.ibi1 } } }
  | 3 => { c with mgt := { c.mgt with jtagBusy := false, jtagReg := jtagDone c.mgt.jtagReg data } }
  | 4 => { c with mgt := { c.mgt with ilaelOut := bs } }
  | _ => c

/-- A command refused under R652 or R653: DENIED with detail MGT, without a reply packet (R644). -/
def Chip.deny (c : Chip) (m : MgtPkt) : Chip := c.sendPkt .mgt epMgt m.port (.mgmtRsp m.port m.tag .denied 6 [])

/-- REFUSED with a reason of R657. -/
def Chip.refuse (c : Chip) (m : MgtPkt) (reason : Nat) : Chip := c.reply m 6 reason []

/-- The long command ends with its reply (R655). One that ends within the block reset of MGT was taken before it: the end of the reset
answers it with the commands of Ilael's queue (R595). -/
def Chip.endLong (c : Chip) (rc arg : Nat) : Chip :=
  match c.mgt.long with
  | some l =>
    if c.mgt.inReset then { c with mgt := { c.mgt with long := none, queue := l.pkt :: c.mgt.queue } }
    else { c with mgt := { c.mgt with long := none } }.reply l.pkt rc arg []
  | none => c

/-- A long command starts. -/
def Chip.startLong (c : Chip) (m : MgtPkt) (j : LongJob) : Chip := { c with mgt := { c.mgt with long := some ⟨m.cmd, m, j⟩ } }

/-! ### Taking packets (R127, R535, R594, R595, R641, R655, R659) -/

/-- A claim of P0 waits while the shadows are zeroised or reloading (R535). -/
def Chip.claimWaits (c : Chip) (m : MgtPkt) : Bool := m.path == 0 && m.level == 0 && c.fus.zeroised

/-- A level condition of block `blk` that is exactly `e` ends (R564). -/
def Chip.dropEvent (c : Chip) (blk : Nat) (e : Event) : Chip :=
  let r := c.flt.evs.get {} blk
  if r.levels.contains e then
    let r := r.release e
    { c with flt := { c.flt with
        evs := c.flt.evs.put blk r
        high := if r.line then c.flt.high else c.flt.high.filter (· != blk) } }
  else c

/-- The detail of SBI_MGT_TIMEOUT: 0 I3C, 1 sideband. -/
def sbiDetail (path : Nat) : Nat := if path = 2 then 0 else 1

/-- What taking a packet gives back: the MGT units of its request in-band; on the sideband and I3C the end of a timeout. -/
def Chip.tookPkt (c : Chip) (k : MgtPkt) : Chip :=
  match k.path with
  | 0 =>
    match (c.port k.port).req? k.tag with
    | some r =>
      if r.stale then c
      else c.onPort k.port (fun p => { p with pendMgt := p.pendMgt + mgtReqCost r.hdr }.grantIfDue)
    | none => c
  | p => c.dropEvent 7 ⟨1, 0x2D, sbiDetail p⟩

/-- In-band commands in Ilael's queue. -/
def Mgt.inband (m : Mgt) : Nat := (m.queue.filter (fun k => k.path == 0)).length

/-- A waiting packet is taken, if its interpreter can take it now. -/
def Chip.takeOne (c : Chip) (k : MgtPkt) : Option Chip :=
  if c.claimWaits k then none
  else if isHwCmd k.cmd then some ({ c with mgt := { c.mgt with rsm := c.mgt.rsm ++ [k] } }.tookPkt k)
  else if c.mgt.inReset || (k.path == 0 && 16 ≤ c.mgt.inband) then none
  else some ({ c with mgt := { c.mgt with queue := c.mgt.queue ++ [k] } }.tookPkt k)

/-- Take what can be taken of a list of waiting packets: the state, and those that stay. -/
def Chip.takeAll (c : Chip) (ks : List MgtPkt) : Chip × List MgtPkt :=
  ks.foldl (fun (x : Chip × List MgtPkt) k =>
    match x.1.takeOne k with
    | some c => (c, x.2)
    | none => (x.1, x.2 ++ [k])) (c, [])

/-- MGT takes the packets that wait in its input buffer and at the SBI. -/
def Chip.mgtTake (c : Chip) : Chip :=
  if !c.live || (c.mgt.buf.isEmpty && c.mgt.sbWait.isEmpty) then c
  else
    let (c, b) := c.takeAll c.mgt.buf
    let (c, w) := c.takeAll c.mgt.sbWait
    { c with mgt := { c.mgt with buf := b, sbWait := w } }

/-! ### Which packet a row takes -/

/-- Whether a row's path is that of a packet. -/
def viaIs (via : Via) (m : MgtPkt) : Bool :=
  match via with
  | .inband p => m.path == 0 && m.port == p.val
  | .sideband => m.path == 1
  | .i3c => m.path == 2
  | .jtag => m.path == 3
  | .ilael ps => m.path == 4 && m.params == ps

/-- Remove the first element that satisfies `p`: it, and the others. -/
def takeFirst {α : Type} (p : α → Bool) : List α → Option (α × List α)
  | [] => none
  | x :: t => if p x then some (x, t) else (takeFirst p t).map (fun y => (y.1, x :: y.2))

/-- The packet that the register state machine serves next: round-robin over the paths, in order on each (R641). -/
def Chip.hwNext (c : Chip) : Option (MgtPkt × List MgtPkt) :=
  let ks := c.mgt.rsm.filter (fun k => !c.claimWaits k)
  match roundRobin 5 c.mgt.rsmLast (ks.map (·.path)) with
  | some p => takeFirst (fun k => k.path == p && !c.claimWaits k) c.mgt.rsm
  | none => none

/-- An order of Ilael's own comes to its interpreter behind what waits there, unless it waits there already (R641, R655). -/
def Chip.orderOwn (c : Chip) (via : Via) (code : Nat) : Chip :=
  match via with
  | .ilael ps =>
    let here (k : MgtPkt) : Bool := k.cmd == code && viaIs via k
    if isHwCmd code then
      if c.mgt.rsm.any here then c else { c with mgt := { c.mgt with rsm := c.mgt.rsm ++ [ownPacket code ps] } }
    else if c.mgt.inReset || c.mgt.queue.any here then c
    else { c with mgt := { c.mgt with queue := c.mgt.queue ++ [ownPacket code ps] } }
  | .inband _ | .sideband | .i3c | .jtag => c

/-- The packet of a command that the state machine interprets: the one whose turn it is. -/
def Chip.takeHw (c : Chip) (via : Via) (cmd : Nat) : Option (MgtPkt × Chip) :=
  match c.hwNext with
  | some (m, rest) =>
    if m.cmd == cmd && viaIs via m then some (m, { c with mgt := { c.mgt with rsm := rest, rsmLast := m.path } }) else none
  | none => none

/-- The packet of a command that Ilael interprets: the first of its queue that waits for nothing (R655). -/
def Chip.takeIlael (c : Chip) (via : Via) (which : Nat → Bool) : Option (MgtPkt × Chip) :=
  if c.mgt.inReset then none
  else
    match takeFirst (fun k => !c.claimWaits k) c.mgt.queue with
    | some (m, rest) =>
      if which m.cmd && viaIs via m then some (m, { c with mgt := { c.mgt with queue := rest } }) else none
    | none => none

/-- The packet that a command's row takes, an order of Ilael's own coming to its interpreter first. -/
def Chip.take (c : Chip) (via : Via) (code : Nat) (which : Nat → Bool) : Option (MgtPkt × Chip) :=
  let c := c.orderOwn via code
  if isHwCmd code then c.takeHw via code else c.takeIlael via which

/-! ### Privilege (R652-R654) -/

/-- The outcome of the privilege check. -/
inductive Grant where
  | granted (level : Nat)
  | refused (compared : Bool)   -- whether a comparison refused a claim of P0
  deriving DecidableEq, Repr

/-- The level at which a command runs. -/
def Chip.privilege (c : Chip) (m : MgtPkt) : Grant :=
  if m.path != 0 then .granted 0
  else if m.level == 0 then
    if c.mgt.holdoff then .refused false
    else if c.fus.cred != 0 && m.cred == c.fus.cred then .granted 0
    else .refused true
  else
    let keep := m.cmd == 0x02 && (match target (m.par 0 4) with | some (f, o) => p1Refused f o | none => false)
    if isP1Cmd m.cmd && !keep then .granted 1 else .refused false

/-- A claim refused by comparison: it is counted, and the hold-off begins (R653). -/
def Chip.claimFails (c : Chip) : Chip := { c with mgt := { c.mgt with fails := min max16 (c.mgt.fails + 1), holdoff := true } }

/-- 100 ms after it began the hold-off ends (R653). -/
def Chip.holdoffEnd (c : Chip) : Chip := { c with mgt := { c.mgt with holdoff := false } }

/-! ### Running a command -/

/-- Whether Ilael serves a command now: from READY on, CAPACITY from the end of boot step 10 (R528). -/
def Chip.ilaelReady (c : Chip) (cmd : Nat) : Bool :=
  c.boot.st == .ready || (cmd == 0x3B && (11 ≤ c.boot.step || c.boot.st == .noService))

/-- The checks of R656 in their order, then the command itself. -/
def Chip.checked (c : Chip) (m : MgtPkt) (body : Chip → MgtPkt → Nat → Chip) : Chip :=
  match m.formFault with
  | some (rc, some a) => c.reply m rc a []
  | some (rc, none) => let (n, c) := c.drawFree; c.reply m rc (Config.openArg n % 2 ^ 32) []
  | none =>
    match c.privilege m with
    | .refused cmp => (if cmp then c.claimFails else c).deny m
    | .granted level =>
      if isHwCmd m.cmd || c.ilaelReady m.cmd then body c m level else c.reply m 3 c.bootStatus []

/-- A long command: refused BUSY while another runs (R655). -/
def longCmd (body : Chip → MgtPkt → Chip) (c : Chip) (m : MgtPkt) (_ : Nat) : Chip :=
  if c.mgt.long.isSome then c.refuse m 1 else body c m

/-- An immediate command whose level has no bearing on it. -/
def immCmd (body : Chip → MgtPkt → Chip) (c : Chip) (m : MgtPkt) (_ : Nat) : Chip := body c m

/-- Whether the SAFE responder serves: in SAFE and in the fault state (R539, R541). -/
def Chip.responds (c : Chip) : Bool := c.boot.pwrgd && (c.boot.st == .safe || (c.on && c.flt.fault))

/-- The words of a REG_READ of BOOT_STATUS and BOOT_DETAIL alone. -/
def Chip.bootWords (c : Chip) (m : MgtPkt) : Option (List Byte) :=
  let addrs := (below (m.par 4 2)).map (fun i => m.par 0 4 + 4 * i)
  if m.cmd == 0x01 && m.formFault.isNone && addrs.all (fun a => target a == some (.rst, 0) || target a == some (.rst, 4)) then
    some (addrs.flatMap (fun a => leBytes 4 (match target a with | some (_, o) => c.readRst o | none => 0)))
  else none

/-- The SAFE responder answers a packet on the management port's sideband, while PLL A is locked (R539). -/
def Chip.safeAnswer (c : Chip) (via : Via) (which : Nat → Bool) : Chip :=
  match c.mgt.sbWait with
  | m :: rest =>
    if c.boot.pllA && viaIs via m && which m.cmd then
      let c := { c with mgt := { c.mgt with sbWait := rest } }
      match c.bootWords m with
      | some data => c.reply m 0 0 data
      | none => c.reply m 4 c.bootStatus []
    else c
  | [] => c

/-- A command row: the packet of its path is taken, checked and run, or the responder answers it. -/
def Chip.command (c : Chip) (via : Via) (code : Nat) (which : Nat → Bool) (body : Chip → MgtPkt → Nat → Chip) : Chip :=
  if c.responds then c.safeAnswer via which
  else if !c.live then c
  else match c.take via code which with
    | some (m, c) => c.checked m body
    | none => c.orderOwn via code

/-- The row of one CMD. -/
def Chip.commandOf (c : Chip) (via : Via) (cmd : Nat) (body : Chip → MgtPkt → Nat → Chip) : Chip := c.command via cmd (· == cmd) body

/-! ### The sideband (R61, R645, R646) -/

/-- Whether a vendor-defined message on port `n` is a segment of a management packet (R61, R537). -/
def Chip.sbPath (c : Chip) (n : Nat) : Bool :=
  n == c.boot.mgmtSel && (c.port n).enabled && (c.port n).sbUp && !c.boot.sbiFail && (c.live || c.responds && c.boot.pllA)

/-- A protocol error on a management path. -/
def Chip.busErr (c : Chip) (path : Nat) : Chip := if c.on then c.raise 7 ⟨1, 0x2C, path⟩ else c

/-- One segment of a packet. -/
def Chip.segment (c : Chip) (n index : Nat) (last : Bool) (data : BitVec 64) : Chip :=
  if !c.sbPath n then c
  else
    let m := c.mgt
    if index != m.sbNext || (index == 0 && m.sbBusy) then
      { c with mgt := { m with sbNext := 0, sbBytes := [] } }.busErr 1
    else
      let bs := m.sbBytes ++ leBytes 8 data.toNat
      if last then
        { c with mgt := { m with sbNext := 0, sbBytes := [], sbBusy := true, sbWait := m.sbWait ++ [{ path := 1, bytes := bs }] } }
      else { c with mgt := { m with sbNext := index + 1, sbBytes := bs } }

/-- A packet has waited 1 us at the SBI (R594). -/
def Chip.sbiTimeout (c : Chip) (i3c : Bool) : Chip :=
  let path := if i3c then 2 else 1
  if c.live && c.mgt.sbWait.any (fun k => k.path == path) then c.raiseLevel 7 ⟨1, 0x2D, sbiDetail path⟩ else c

/-! ### I3C (R647-R649) -/

/-- Whether the I3C target answers: from the end of boot step 5, outside SAFE and the fault state, with SBI working. -/
def Chip.i3cOn (c : Chip) : Bool := c.live && 6 ≤ c.boot.step && !c.boot.sbiFail

/-- Change the I3C target. -/
def Chip.onI3c (c : Chip) (f : I3c → I3c) : Chip := { c with mgt := { c.mgt with i3c := f c.mgt.i3c } }

/-- A private write: acknowledged when no command is outstanding and no reply unread (R648). -/
def Chip.i3cWrite (c : Chip) (bytes : List Byte) : Chip :=
  if !c.i3cOn then c
  else
    let i := c.mgt.i3c
    if i.addr.isSome && !i.busy && i.reply.isNone then
      { c with mgt := { c.mgt with i3c := { i with acked := true, busy := true }, sbWait := c.mgt.sbWait ++ [{ path := 2, bytes := bytes }] } }
    else c.onI3c (fun i => { i with acked := false })

/-- A private read: acknowledged once the reply is ready; the reply is read once a read has carried all its bytes (R648). -/
def Chip.i3cRead (c : Chip) (count : Nat) : Chip :=
  if !c.i3cOn then c
  else
    match c.mgt.i3c.addr, c.mgt.i3c.reply with
    | some _, some bs =>
      c.onI3c (fun i => { i with acked := true, out := bs.take count, reply := if bs.length ≤ count then none else some bs })
    | _, _ => c.onI3c (fun i => { i with acked := false })

/-- Bytes of a number, most significant first: the order of the I3C standard, log entry 17. -/
def beBytes (n v : Nat) : List Byte := (leBytes n v).reverse

/-- The provisional ID (R647). -/
def Chip.provId (c : Chip) : Nat := fld 33 15 Config.mipiManufacturer + 2 ^ 32 + fld 0 32 (c.fus.eff.get 0 1)

/-- A common command code. -/
def Chip.i3cCcc (c : Chip) (x : I3cCcc) : Chip :=
  if !c.i3cOn then c
  else
    let has := c.mgt.i3c.addr.isSome
    let give (c : Chip) (bs : List Byte) : Chip := c.onI3c (fun i => { i with acked := has, out := if has then bs else i.out })
    match x with
    | .entdaa a =>
      if has then c.onI3c (fun i => { i with acked := false })
      else
        let pid := c.provId
        c.onI3c (fun i => { i with acked := true, addr := some a.toNat, hotJoin := false, out := beBytes 6 pid ++ [0x06, 0x00] })
    | .rstdaa => c.onI3c (fun i => { i with acked := true, addr := none })
    | .setnewda a => c.onI3c (fun i => { i with acked := has, addr := if has then some a.toNat else none })
    | .enec ibi hj => c.onI3c (fun i => { i with acked := true, ibiEn := i.ibiEn || ibi, hjOff := i.hjOff && !hj })
    | .disec ibi hj => c.onI3c (fun i => { i with acked := true, ibiEn := i.ibiEn && !ibi, hjOff := i.hjOff || hj })
    | .getpid => give c (beBytes 6 c.provId)
    | .getbcr => give c [0x06]
    | .getdcr => give c [0x00]
    | .getstatus => let (n, c) := c.drawFree; give c (beBytes 2 (Config.i3cStatus n))
    | .getmwl => give c (beBytes 2 512)
    | .getmrl => give c (beBytes 2 512 ++ [3])
    | .setmwl _ | .setmrl _ => c.onI3c (fun i => { i with acked := has })
    | .other => c.onI3c (fun i => { i with acked := false })

/-- The target requests its most urgent pending interrupt (R649). -/
def I3c.request (i : I3c) : I3c :=
  match i.ibi3, i.ibi2, i.ibi1 with
  | some (a, b), _, _ => { i with ibi3 := none, lastIbi := some (3, a, b) }
  | none, some (a, b), _ => { i with ibi2 := none, lastIbi := some (2, a, b) }
  | none, none, some (a, b) => { i with ibi1 := none, lastIbi := some (1, a, b) }
  | none, none, none => i

/-- An in-band interrupt is requested, given an address and ENEC. -/
def Chip.i3cIbi (c : Chip) : Chip :=
  if c.i3cOn && c.mgt.i3c.addr.isSome && c.mgt.i3c.ibiEn then c.onI3c I3c.request else c

/-- A target without an address raises Hot-Join at the end of boot step 5, if DISEC has not disabled it (R649). -/
def Chip.hotJoin (c : Chip) : Chip :=
  if c.i3cOn && c.mgt.i3c.addr.isNone && !c.mgt.i3c.hjOff then c.onI3c (fun i => { i with hotJoin := true }) else c

/-! ### JTAG (R539, R650) -/

/-- Update-DR of REGACC: one access goes to the register state machine. An update while an access is outstanding is a protocol error. -/
def Chip.regacc (c : Chip) (v : BitVec 64) : Chip :=
  if !c.live then c
  else if c.mgt.jtagBusy then c.busErr 2
  else
    let w := v.toNat
    let addr := fld 2 22 (natBits w 34 22)
    let wr := natBit w 63
    let params := if wr then leBytes 4 addr ++ leBytes 4 (natBits w 0 32) else leBytes 4 addr ++ leBytes 2 1
    let pkt := { ownPacket (if wr then 2 else 1) params with path := 3 }
    { c with mgt := { c.mgt with
        jtagBusy := true, rsm := c.mgt.rsm ++ [pkt]
        jtagReg := fld 63 1 (natBits w 63 1) + fld 34 22 (natBits w 34 22) + natBits w 0 32 } }

/-- BOOTSTAT is captured: BOOT_DETAIL over BOOT_STATUS. -/
def Chip.bootstatCapture (c : Chip) : Chip :=
  if c.boot.pwrgd && c.thm.shut != .released then
    { c with mgt := { c.mgt with bootstat := c.bootDetail * 2 ^ 32 + c.bootStatus } }
  else c

/-! ### The block reset of MGT (R595) -/

/-- Ilael has not restarted the watchdog. -/
def Chip.mgtWdog (c : Chip) : Chip := if c.live && !c.mgt.inReset then (c.life (lifeIx 0 5)).raise 2 ⟨2, 0x08, 0⟩ else c

/-- Change the packet of the long command to one that has been answered: what the command does goes on to its end. -/
def LongCmd.answered (l : LongCmd) : LongCmd := { l with pkt := { l.pkt with path := 5 } }

/-- The block reset ends and Ilael restarts: every command it had taken and not answered is answered INTERRUPTED. -/
def Chip.mgtResetEnd (c : Chip) : Chip :=
  if !(c.live && c.mgt.inReset) then c
  else
    let ks := c.mgt.queue
    let now := c.keep
    let c := { c with mgt := { c.mgt with inReset := false, queue := [] }, flt := { c.flt with resetEnd := some now } }
    let c := ks.foldl (fun c k => c.reply k 5 0 []) c
    match c.mgt.long with
    | some l => { c with mgt := { c.mgt with long := some l.answered } }.reply l.pkt 5 0 []
    | none => c

end Sys2Proof.Machine
end

