-- ==== Sys2Proof/Machine/Field.lean ====
section
/-! DEFINITION. In-field tests (R551-R558) and the long commands that go on beside other events (R416, R434, R437, R636): targets,
quiescing, the phases of a test, its end, and what every event sets going. -/

namespace Sys2Proof.Machine

/-! ### Targets (R551, R552) -/

/-- The target of a test-block index. -/
inductive FieldKind where
  | data (k : Nat)
  | reserve (k : Nat)
  | arrays (s : Nat)
  | bypass (s : Nat)
  | press (p : Nat)
  deriving DecidableEq, Repr

/-- The targets of R551 by test-block index (R537). -/
def fieldKind (block : Nat) : Option FieldKind :=
  if block < 48 then none
  else if block < 112 then some (.arrays (block - 48))
  else if block < 176 then some (.bypass (block - 112))
  else if block < 240 then some (.data (block - 176))
  else if block < 248 then some (.reserve (block - 176))
  else if block < 264 then some (.press (block - 248))
  else none

/-- The channel controller whose channel a target tests. -/
def FieldKind.channel : FieldKind → Option Nat
  | .data k | .reserve k | .bypass k => some k
  | .arrays _ | .press _ => none

/-- The phases of BST_FIELD that the steps of a target's row of R551 show. -/
def FieldKind.phases : FieldKind → List Nat
  | .data _ | .reserve _ | .press _ => [3, 3, 4, 4, 5, 6]
  | .bypass _ => [3, 3, 4, 5, 6]
  | .arrays _ => [4]

/-- Whether a target's test is a scan operation, before which the secrets are zeroised (R534). -/
def FieldKind.scans : FieldKind → Bool
  | .arrays _ => false
  | _ => true

/-- Whether a pseudo-channel of a target is in RETRAIN_HOLD, RESCUE or FENCED. -/
def Chip.targetHeld (c : Chip) (f : FieldKind) : Bool :=
  match f.channel with
  | some k => [(c.pc k 0).state, (c.pc k 1).state].any (fun s => s == .retrainHold || s == .rescue || s == .fenced)
  | none => false

/-- Whether a target has failed. -/
def Chip.targetFailed (c : Chip) (f : FieldKind) (block : Nat) : Bool :=
  c.testFailed block ||
  (match f with
    | .data k | .reserve k => (c.chc k).bistFail || (c.chc k).test == .failed
    | .arrays s => (c.slice s).failed
    | .bypass _ => false
    | .press p => (c.press p).mode == .failed)

/-! ### Quiescing (R551, R552, R717) -/

/-- Whether the queues of a channel controller and its retry buffer are empty. -/
def Chc.queuesEmpty (h : Chc) : Bool := h.retry.isEmpty && h.pcEmpty 0 && h.pcEmpty 1

/-- Whether a row stands on a bank that controller `k` serves now. -/
def Chip.standsOn (c : Chip) (k : Nat) (w : RowLoc) : Bool := c.served (bankIndex w) && (c.locate w 0).k == k

/-- Every slice writes back and invalidates its lines of the banks that reserve controller `k` serves. -/
def Chip.cleanReserve (c : Chip) (k : Nat) : Chip :=
  (below 64).foldl (fun c s => if (c.slice s).lines.isEmpty then c else c.cleanLines s (fun l => c.standsOn k (l.rowLoc s))) c

/-- Whether a slice holds anything of a row that satisfies `P`. -/
def Slice.holdsFor (x : Slice) (s : Nat) (P : RowLoc → Bool) : Bool :=
  List.any x.lines (fun (e : Nat × Line) => P (e.2.rowLoc s)) || x.evbs.any (fun e => P ⟨s, e.2.p, e.2.b, e.2.r⟩) || x.worksOn s P

/-- Whether the write-back for a reserve controller is over, with nothing on its way to the banks it serves (R717). -/
def Chip.reserveClean (c : Chip) (k : Nat) : Bool :=
  !(below 64).any (fun s => (c.slice s).holdsFor s (c.standsOn k)) &&
  !c.xbr.pkts.any (fun x => x.vc == .req && (x.body.rowOf).any (c.standsOn k))

/-- A reserve controller goes on towards its edge: from there on the banks it serves are under test. -/
def Chip.reserveEdge (c : Chip) (k : Nat) : Chip :=
  if (c.chc k).test != .quiescing then c
  else
    let c := c.cleanReserve k
    if c.reserveClean k then c.onChc k (fun h => { h with test := .quiesced }) else c

/-- Whether the scrub and racking contexts that press `p` runs stand at row boundaries. -/
def Chip.contextsStand (c : Chip) (p : Nat) : Bool :=
  (below 16).all (fun d =>
    c.pressOfDie d != some p ||
    (let x := c.die d
     x.rowOut.isNone && x.lockWait.isNone && !(below 64).any (fun s => (c.slice s).locks.any (fun y => y.2.2.2 == .rack d))))

/-- Whether the work of a target's row of R551 is complete. -/
def Chip.quiesceWork (c : Chip) : FieldKind → Bool
  | .arrays s => (c.slice s).mode == .bypassTest
  | .data k | .bypass k => (c.slice k).mode == .channelTest && (c.chc k).queuesEmpty
  | .reserve k => (c.chc k).test == .quiesced && (c.chc k).queuesEmpty
  | .press p => (c.press p).chunk.isNone && c.contextsStand p

/-- The test state of a target. -/
def Chip.setTarget (c : Chip) (f : FieldKind) (t : TestState) (m : PressMode) : Chip :=
  match f with
  | .data k | .reserve k | .bypass k => c.onChc k (fun h => { h with test := t })
  | .press p => c.onPress p (fun x => { x with mode := m })
  | .arrays _ => c

/-- QUIESCE takes effect on a target. -/
def Chip.beginQuiesce (c : Chip) (f : FieldKind) (block e : Nat) : Chip :=
  ({ c with boot := { c.boot with field := some { block := block, phase := 1, q := c.keep, e := e } } }).setTarget f .quiescing .quiescing

/-- The long command running is a QUIESCE. -/
def Mgt.quiescing (m : Mgt) : Bool := match m.long with | some ⟨_, _, .quiesce _⟩ => true | _ => false
/-- The long command running is a RUN_BIST. -/
def Mgt.testing (m : Mgt) : Bool := match m.long with | some ⟨_, _, .bist _⟩ => true | _ => false

/-- The target has become quiesced (R552, R660). -/
def Chip.quiesceComplete (c : Chip) : Chip :=
  match c.boot.field with
  | none => c
  | some t =>
    match fieldKind t.block with
    | none => c
    | some f =>
      if c.live && t.phase == 1 && c.quiesceWork f then
        let c := ({ c with boot := { c.boot with field := some { t with phase := 2 } } }).setTarget f .quiesced .quiescing
        if c.mgt.quiescing then c.endLong 0 0 else c
      else c

/-! ### Consequences of a failure (R463, R557) -/

/-- A press fails: each of its jobs ends ABORTED at its last completed boundary. -/
def Chip.pressFails (c : Chip) (p : Nat) : Chip :=
  let c := c.onPress p (fun x => { x with mode := .failed, chunk := none, arrive := [], rdbufFree := 128 })
  let c := List.foldl (fun c (e : Nat × JobCtx) =>
    if e.2.ended then c
    else if e.2.released then c.endAtPress p e.1 .aborted 0
    else c.endUnstarted e.2.port e.2.tag) c (c.press p).ctxs
  (below 32).foldl (fun c n => c.resumeRx n) c

/-- A slice is slice-dead from now on (R544, R557): its pseudo-channels are fenced and not substituted, its blocks are lost, those on reserve
banks too, and no racking of its banks can go on. -/
def Chip.sliceDies (c : Chip) (s : Nat) : Chip :=
  ((c.fenceAll [(s, 0), (s, 1)] 2).discardRows s (fun _ => true)).dropRacks (fun j => j.bank / 32 == s)

/-- What the failure of a target brings about. -/
def Chip.fieldFails (c : Chip) (f : FieldKind) (block : Nat) : Chip :=
  match f with
  | .data k =>
    let c := c.onChc k (fun h => { h with bistFail := true, test := .failed })
    (c.fenceLost [(k, 0), (k, 1)]).raise 6 ⟨2, 0x29, block⟩
  | .reserve k =>
    let c := c.onChc k (fun h => { h with bistFail := true, test := .failed })
    (c.reserveUnusable [(k, 0), (k, 1)]).raise 6 ⟨2, 0x29, block⟩
  | .arrays s => (c.onSlice s (fun x => { x with failed := true, mode := .bypassFailed })).raise 6 ⟨1, 0x2A, block⟩
  | .bypass s => (c.sliceDies s).raise 6 ⟨2, 0x29, block⟩
  | .press p => (c.pressFails p).raise 6 ⟨2, 0x29, block⟩

/-- The checker self-tests of both pseudo-channels of a controller at the end of a test, with their results (R461-R463): those that fail are
fenced at one moment, unless they are already. -/
def Chip.fieldCheckers (c : Chip) (k : Nat) (v0 v1 : CheckerRun) : Chip :=
  let bad := [(0, v0), (1, v1)].filter (fun (p, v) => !v.passes && !c.fenced k p)
  let c := (c.onPc k 0 (·.checked v0)).onPc k 1 (·.checked v1)
  let c := c.fenceLost (bad.map (fun (p, _) => (k, p)))
  bad.foldl (fun c (p, v) =>
    (c.raise (fltChc k) ⟨2, 0x6A, p⟩).ringRec { type := 0x08, cls := 2, source := fltChc k, arg0 := p, arg1 := v.matched.val }) c

/-! ### The phases of a test (R551, R553, R555, R556) -/

/-- Change the field test. -/
def Chip.onField (c : Chip) (f : FieldTest → FieldTest) : Chip := { c with boot := { c.boot with field := c.boot.field.map f } }

/-- A step of a test begins. -/
def Chip.toStep (c : Chip) (f : FieldKind) (step : Nat) : Chip :=
  let now := c.keep
  c.onField (fun t => { t with step := step, phase := f.phases.getD step 6, since := now })

/-- RUN_BIST is accepted: the first step begins. -/
def Chip.startTest (c : Chip) (f : FieldKind) : Chip :=
  let now := c.keep
  let c := { c with
    boot := { c.boot with cntRuns := min max16 (c.boot.cntRuns + 1) }
    fus := if f.scans then c.fus.zeroise true else c.fus }
  let c := c.onField (fun t => { t with step := 0, phase := f.phases.getD 0 4, since := now, abort := false, held := false, upd := false
                                        res := 1, pats := 0 })
  c.setTarget f .underTest .underTest

/-- Whether a testing phase of a target is a memory BIST (R551): the second of a CHC or a press, and that of the slice arrays. -/
def FieldKind.memory (f : FieldKind) (step : Nat) : Bool :=
  match f with
  | .arrays _ => true
  | .bypass _ => false
  | .data _ | .reserve _ | .press _ => step == 3

/-- A testing phase has run: its outcome and its patterns join those of the test (R532, R533). -/
def Chip.testPart (c : Chip) (f : FieldKind) (t : FieldTest) (r : BistRun) : FieldTest :=
  { t with
    res := worse t.res (if f.memory t.step then memoryResult r else c.logicResult (testType t.block) r)
    pats := min 0xFFFFFF (t.pats + r.patterns.toNat) }

/-- The result of a test is recorded. -/
def Chip.fieldResult (c : Chip) (t : FieldTest) (result : Nat) : Chip :=
  { c with boot := { c.boot with
      results := c.boot.results.put t.block { result := result, field := true, patterns := t.pats }
      cntFails := if result == 2 || result == 3 then min max16 (c.boot.cntFails + 1) else c.boot.cntFails } }

/-- RUN_BIST replies. -/
def Chip.endBist (c : Chip) (rc arg : Nat) : Chip := if c.mgt.testing then c.endLong rc arg else c

/-- A test fails: the target is not restored (R557). -/
def Chip.testFails (c : Chip) (f : FieldKind) (t : FieldTest) (result : Nat) : Chip :=
  let c := (c.fieldResult t result).onField (fun t => { t with phase := 2, step := 0 })
  (c.fieldFails f t.block).endBist 8 result

/-- The restore has ended: an update that waited applies (R673). -/
def Chip.restored (c : Chip) (f : FieldKind) (t : FieldTest) : Chip :=
  if !t.upd then c
  else
    let c := c.onField (fun t => { t with upd := false })
    match f with
    | .data k | .reserve k => c.onChc k Chc.applyShadows
    | .bypass k => c.onSlice k Slice.applyShadows
    | .press p => c.onPress p Press.applyShadows
    | .arrays _ => c

/-- A test ends without a failure of its target: PASS, or ABORTED; the target stays quiesced (R555, R556). -/
def Chip.testEnds (c : Chip) (a : FuseArray) (f : FieldKind) (t : FieldTest) (v0 v1 : CheckerRun) : Chip :=
  let c := if f.scans then c.reloadShadows a else c
  let c := (c.fieldResult t (if t.abort then 4 else 1)).onField (fun t => { t with phase := 2, step := 0 })
  let c := c.setTarget f .quiesced .quiescing
  let c := match f with | .data k | .reserve k => c.fieldCheckers k v0 v1 | _ => c
  c.endBist (if t.abort then 9 else 0) 0

/-- Whether a pseudo-channel of a target is held for retraining. -/
def Chip.targetHolds (c : Chip) (f : FieldKind) : Bool :=
  match f.channel with
  | some k => (c.pc k 0).state == .retrainHold || (c.pc k 1).state == .retrainHold
  | none => false

/-- A step of the test in progress ends. -/
def Chip.bistPhaseEnd (c : Chip) (a : FuseArray) (run : BistRun) (v0 v1 : CheckerRun) : Chip :=
  match c.boot.field with
  | none => c
  | some t =>
    match fieldKind t.block with
    | none => c
    | some f =>
      if !(c.live && 3 ≤ t.phase) then c
      else if t.phase = 4 then
        let t := c.testPart f t run
        let c := c.onField (fun x => { x with res := t.res, pats := t.pats })
        if f.phases.getD (t.step + 1) 0 = 4 then c.toStep f (t.step + 1)
        else
          if t.res != 1 then c.testFails f t t.res
          else if f.scans then c.toStep f (t.step + 1)
          else c.testEnds a f t v0 v1
      else if t.phase = 5 then (c.restored f t).toStep f (t.step + 1)
      else if t.phase = 6 then (if c.targetHolds f then c else c.testEnds a f t v0 v1)
      else c.toStep f (t.step + 1)

/-- The refreshes that fell due since OWED was `owed0` become urgent (R556). -/
def Pc.hasten (pc : Pc) (owed0 : Nat) : Pc := { pc with urgent := max pc.urgent (pc.owed - owed0) }

/-- An escalation stops a channel test: the restore follows where a save has begun, and then the hold of R390 (R556). -/
def Chip.fieldAbort (c : Chip) : Chip :=
  match c.boot.field with
  | none => c
  | some t =>
    match fieldKind t.block with
    | none => c
    | some f =>
      if !(t.abort && 3 ≤ t.phase) then c
      else
        let last := f.phases.length - 1
        if t.phase < 5 then c.toStep f (if t.step = 0 then last else last - 1)
        else if t.phase = 6 && !t.held then
          match f.channel with
          | some k =>
            let c := c.onField (fun t => { t with held := true })
            -- the refreshes that fell due since the escalation are urgent in the hold
            let c := (c.onPc k 0 (·.hasten t.owed0.1)).onPc k 1 (·.hasten t.owed0.2)
            match (below 2).find? (fun p => (c.pc k p).fails == 4 && (c.pc k p).state == .normal) with
            | some p => c.beginRetrain k p
            | none => c
          | none => c
        else c

/-- The escalation, and what follows it at once. -/
def Chip.fieldStop (c : Chip) : Chip := c.fieldAbort.fieldAbort

/-- What goes on with a target that quiesces or is tested. -/
def Chip.fieldTick (c : Chip) : Chip :=
  match c.boot.field with
  | none => c
  | some t =>
    match fieldKind t.block with
    | some (.reserve k) => (if t.phase = 1 then c.reserveEdge k else c).fieldStop
    | _ => c.fieldStop

/-- The jobs of press `p` whose cancel was recorded while it was under test end first (R342). -/
def Chip.endCancelled (c : Chip) (p : Nat) : Chip :=
  (((c.press p).runnable.filter (fun e => e.2.cancel)).map (·.1)).foldl (fun c i => c.endAtPress p i .aborted 0) c

/-- RESUME returns a quiesced target to service (R342, R555, R557). -/
def Chip.resumeTarget (c : Chip) (f : FieldKind) : Chip :=
  let c := { c with boot := { c.boot with field := none } }
  let chc (c : Chip) (k : Nat) : Chip := c.onChc k (fun h => { h with test := if h.bistFail then .failed else .normal })
  match f with
  | .data k | .bypass k => (chc c k).onSlice k Slice.backToService
  | .reserve k => chc c k
  | .arrays s => c.onSlice s Slice.backToService
  | .press p => (c.onPress p (fun x => { x with mode := if x.mode == .failed then .failed else .normal })).endCancelled p

/-! ### TRAIN (R416) -/

/-- Whether a mask names pseudo-channel `p`. -/
def names (mask p : Nat) : Bool := natBit mask p

/-- A pseudo-channel named by TRAIN starts its training, at 8 Gb/s with no repair and no erasure (R415). -/
def Pc.startTraining (pc : Pc) (t : Int) : Pc :=
  if pc.state == .normal then { (pc.quiet.startFrom t).setMap 0 with state := .training, rate4 := false, replaying := false, fails := 0 }
  else pc

/-- The drain of a TRAIN is over: the named pseudo-channels train. -/
def Chip.trainStarts (c : Chip) (k mask us : Nat) : Chip :=
  let c := c.onChc k (fun h => { h with test := .quiesced })
  let t := c.dieTemp8 k
  let c := (below 2).foldl (fun c p => if names mask p then c.onPc k p (·.startTraining t) else c) c
  { c with mgt := { c.mgt with long := c.mgt.long.map (fun l => { l with job := .train k mask us true }) } }

/-- TRAIN ends: its target is back in service, and it replies. -/
def Chip.trainEnds (c : Chip) (k mask : Nat) : Chip :=
  let c := c.onChc k (fun h => { h with test := if h.bistFail then .failed else .normal })
  let c := if k < 64 && (c.slice k).mode == .channelTest then c.onSlice k Slice.backToService else c
  let p0 := c.pc k 0
  let p1 := c.pc k 1
  let ok := (below 2).all (fun p => !names mask p || (c.pc k p).state == .normal)
  c.endLong (if ok then 0 else 8) (fld 0 3 p0.state.code + fld 4 3 p1.state.code + flag 8 p0.rate4 + flag 9 p1.rate4)

/-- What goes on with a TRAIN. -/
def Chip.trainTick (c : Chip) (k mask us : Nat) (q : Bool) : Chip :=
  if q then
    if (below 2).any (fun p => names mask p && (c.pc k p).state == .training) then c else c.trainEnds k mask
  else
    let c := if k < 64 then c else c.reserveEdge k
    let drained := if k < 64 then (c.slice k).mode == .channelTest else (c.chc k).test == .quiesced
    if drained && (c.chc k).queuesEmpty && !(below 2).any (fun p => (c.pc k p).state == .retrainHold) then c.trainStarts k mask us else c

/-! ### CALIBRATE, CAL_STORE and NVM_WRITE (R434, R437, R636) -/

/-- Whether CALIBRATE waits no longer for a pseudo-channel: its pass has ended and the values it changed are in force. -/
def Pc.calibrated (pc : Pc) : Bool := pc.cal.isNone && pc.changes.all (·.set.isEmpty)

/-- What goes on with a CALIBRATE. -/
def Chip.calibrateTick (c : Chip) (k mask : Nat) : Chip :=
  if (below 2).all (fun p => !names mask p || (c.pc k p).calibrated) then
    c.endLong 0 (fld 0 4 (c.pc k 0).outcome + fld 4 4 (c.pc k 1).outcome)
  else c

/-- Whether NVM still holds a record of a kind. -/
def Nvm.holds (n : Nvm) (w : NvmFor) : Bool := n.userQ.any (·.what == w) || (match n.cur with | some x => x.req.what == w | none => false)

/-- A command of the cellar book ends FAILED; its ARG is a free value. -/
def Chip.failOpen (c : Chip) : Chip := let (n, c) := c.drawFree; c.endLong 8 (Config.openArg n % 2 ^ 32)

/-- What goes on with a CAL_STORE. -/
def Chip.calStoreTick (c : Chip) (gen : Nat) : Chip :=
  if c.nvm.holds .calStore then c
  else if c.nvm.calGen == gen && !c.nvm.failed then c.endLong 0 (gen % 65536)
  else if c.nvm.failed then c.failOpen
  else c

/-- What goes on with an NVM_WRITE: it ends with its record, or where NVM has failed. One that a shutdown drops does not complete (R517). -/
def Chip.nvmWriteTick (c : Chip) (done : Bool) : Chip :=
  if done then c.endLong 0 0
  else
  if c.nvm.failed then c.failOpen else c

/-- What goes on with the long command running. -/
def Chip.longTick (c : Chip) : Chip :=
  match c.mgt.long with
  | some ⟨_, _, .train k mask us q⟩ => c.trainTick k mask us q
  | some ⟨_, _, .calibrate k mask⟩ => c.calibrateTick k mask
  | some ⟨_, _, .calStore gen _⟩ => c.calStoreTick gen
  | some ⟨_, _, .nvmWrite done⟩ => c.nvmWriteTick done
  | _ => c

/-! ### What every event sets going -/

/-- What goes on with the lines of slices that drain and of pseudo-channels in step 2 of a rescue (R233, R239, R240), with calibration passes
that may run no longer (R425), and with compare runs whose pseudo-channel has left their states (R407). -/
def Chip.cleanTick (c : Chip) : Chip :=
  let c := (c.slices.map (·.1)).foldl (fun c s => if (c.slice s).mode == .draining then c.cleanLines s (fun _ => true) else c) c
  (c.chcs.map (·.1)).foldl (fun c k => (((((c.rescueTick k 0).rescueTick k 1).calTick k 0).calTick k 1)).runTick k) c

/-- The state after an event: MGT takes the packets that it can take, applications that have become due are made, slices that write back go
on, the field test and the long command go on, and boot step 9 ends when its last port has. -/
def Chip.settle (c : Chip) : Chip := if c.live then c.mgtTake.settleRegs.cleanTick.fieldTick.longTick.endStep9If else c

end Sys2Proof.Machine
end

