-- ==== Sys2Proof/Machine/MgmtCmds.lean ====
section
/-! DEFINITION. What each management command does once it is granted (R656-R661): its refusals in their order, its effect, and its
reply. -/

namespace Sys2Proof.Machine

/-! ### Registers (R664-R670) -/

/-- Read the words of a REG_READ in ascending order: the bytes, the state after, and whether a frame was under test (R667, R668). -/
def Chip.readWords (c : Chip) (addr n : Nat) : List Byte × Chip × Bool :=
  (below n).foldl (fun (x : List Byte × Chip × Bool) i =>
    let a := (addr + 4 * i) % 2 ^ 24
    let (v, c) := x.2.1.regRead a
    let hid := match target a with | some (f, _) => x.2.1.frameHidden f | none => false
    (x.1 ++ leBytes 4 v, c, x.2.2 || hid)) ([], c, false)

/-- REG_READ. -/
def Chip.doRegRead (c : Chip) (m : MgtPkt) : Chip :=
  let (bs, c, hid) := c.readWords (m.par 0 4) (m.par 4 2)
  c.reply m 0 (flagNat hid) bs

/-- REG_WRITE: the write acts or is posted; ARG tells a discarded write and a frame under test (R668, R670). -/
def Chip.doRegWrite (c : Chip) (m : MgtPkt) : Chip :=
  match target (m.par 0 4) with
  | some (f, o) =>
    let hid := c.frameHidden f
    let (c, dropped) := c.sendWriteReg f o (m.par 4 4)
    c.reply m 0 (flagNat dropped + 2 * flagNat hid) []
  | none => c.reply m 0 0 []

/-- GET_INFO. -/
def Chip.doGetInfo (c : Chip) (m : MgtPkt) (level : Nat) : Chip :=
  c.reply m 0 0 (leBytes 4 (c.readId 0x00) ++ leBytes 4 (c.readId 0x04) ++ leBytes 4 (c.readId 0x08) ++ leBytes 4 (c.readId 0x0C) ++
    leBytes 4 c.bootStatus ++ leBytes 4 (c.readId 0x10) ++ leBytes 4 c.boot.patchVersion ++
    leBytes 1 level ++ leBytes 1 m.path ++ leBytes 1 (if m.path = 0 then m.port else 0) ++ leBytes 1 0)

/-! ### Training and calibration (R416, R434, R437, R624) -/

/-- TRAIN. -/
def Chip.doTrain (c : Chip) (m : MgtPkt) : Chip :=
  let k := m.par 0 2
  let mask := m.par 2 1
  let h := c.chc k
  let held := (below 2).any (fun p => names mask p && (let s := (h.pc p).state; s == .retrainHold || s == .rescue || s == .fenced))
  let fielded := match c.boot.field with | some t => t.block == 176 + k || t.block == 112 + k && k < 64 | none => false
  if held || fielded || h.test == .quiescing || h.test == .quiesced || h.test == .underTest then c.refuse m 0x0B
  else if h.bistFail || h.test == .failed || c.testFailed (176 + k) then c.refuse m 0x0C
  else (c.onChc k (fun h => { h with test := .quiescing })).startLong m (.train k mask c.keep false)

/-- A pass that CALIBRATE runs; one that may not run ends CAL_SKIPPED at once, and one that runs already serves. -/
def Chip.calibrateOne (c : Chip) (k p : Nat) : Chip :=
  if (c.pc k p).cal.isSome then c
  else if c.calMayRun k p then c.startPass k p true
  else c.endCal k p { startUs := c.us, byCmd := true } calSkipped

/-- CALIBRATE. -/
def Chip.doCalibrate (c : Chip) (m : MgtPkt) : Chip :=
  let k := m.par 0 2
  let mask := m.par 2 1
  ((below 2).foldl (fun c p => if names mask p then c.calibrateOne k p else c) c).startLong m (.calibrate k mask)

/-- Whether a CAL_STORE now would begin within 1 s of the end of the previous one (R624). -/
def Chip.calTooSoon (c : Chip) : Bool := match c.nvm.calEnd with | some t => c.keep < t + 25000000 | none => false

/-- CAL_STORE. -/
def Chip.doCalStore (c : Chip) (m : MgtPkt) : Chip :=
  if !c.nvmOpen then c.refuse m 0x11
  else if c.calTooSoon then c.refuse m 1
  else
    let gen := (c.nvm.calGen + 1) % 2 ^ 32
    { c with nvm := Nvm.kick { c.nvm with userQ := c.nvm.userQ ++ c.calStoreReqs gen } }.startLong m (.calStore gen 0)

/-! ### In-field tests (R552, R553, R555) -/

/-- QUIESCE. -/
def Chip.doQuiesce (c : Chip) (m : MgtPkt) : Chip :=
  let block := m.par 0 2
  match fieldKind block with
  | none => c.refuse m 0x12
  | some f =>
    if c.targetHeld f then c.refuse m 0x0B
    else if c.targetFailed f block then c.refuse m 0x0C
    else if c.boot.field.isSome then c.refuse m 1
    else (c.beginQuiesce f block (m.par 4 4)).startLong m (.quiesce block)

/-- Whether a test block is the quiesced target. -/
def Chip.isQuiesced (c : Chip) (block : Nat) : Bool := match c.boot.field with | some t => t.block == block && t.phase == 2 | none => false

/-- RUN_BIST. A target that has failed is no longer quiesced. -/
def Chip.doRunBist (c : Chip) (zeroiseOk : Bool) (m : MgtPkt) : Chip :=
  let block := m.par 0 2
  match fieldKind block with
  | none => c.refuse m 0x12
  | some f =>
    if !c.isQuiesced block || c.targetFailed f block then c.refuse m 0x0A
    else if c.boot.saveRamFail then c.refuse m 0x0D
    else if f.scans && !zeroiseOk then { c with fus := c.fus.zeroise false }.refuse m 0x0E
    else (c.startTest f).startLong m (.bist block)

/-- RESUME. -/
def Chip.doResume (c : Chip) (m : MgtPkt) : Chip :=
  let block := m.par 0 2
  match fieldKind block with
  | none => c.refuse m 0x12
  | some f => if c.isQuiesced block then (c.resumeTarget f).reply m 0 0 [] else c.refuse m 0x0A

/-! ### Retirement (R208, R460, R468-R474) -/

/-- A retirement is refused. Ilael records the refusal of its own orders (R460), and every refusal for NVM_FAILED (R474). -/
def Chip.refuseRetire (c : Chip) (m : MgtPkt) (row : Bool) (bank r reason : Nat) : Chip :=
  (if m.path = 4 || reason = 0x11 then c.refusedRec row bank r reason else c).refuse m reason

/-- Whether a bank is unserved or holds a valid remap entry. -/
def Chip.notRetirable (c : Chip) (bank : Nat) : Bool := !c.served bank || (c.entryOf bank).isSome

/-- The lowest free usable row entry of a bank (R469). -/
def Chip.freeRow (c : Chip) (bank : Nat) : Option Nat :=
  ((below 16).map (fun i => 16 * bank + i)).find? (fun e => let r := c.rowmapE e; !r.valid && !r.unusable && !r.racking)

/-- A row retirement is accepted with entry `e` (R468-R472). -/
def Chip.acceptRow (c : Chip) (bank row e : Nat) : Chip :=
  let prev := c.prevEntry bank row
  let c := c.setRowmap e { valid := true, racking := true, row := row }
  let c := c.queueRack { kind := .row, bank := bank, row := row, entry := e, prev := prev }
  let c := c.logRetire (rowItem e) (logItem 1 row) (.started true e)
  c.ringRec { type := 0x03, cls := 0, source := 2, bank := bank, row := row, arg0 := 0, arg1 := e }

/-- RETIRE_ROW. -/
def Chip.doRetireRow (c : Chip) (m : MgtPkt) : Chip :=
  let bank := m.par 0 2
  let row := m.par 4 4
  if !c.nvmOpen then c.refuseRetire m true bank row 0x11
  else if c.notRetirable bank then c.refuseRetire m true bank row 8
  else if 64 ≤ (c.die (bank / 128)).pending then c.refuseRetire m true bank row 1
  else
    match c.freeRow bank with
    | some e => (c.acceptRow bank row e).reply m 0 e []
    | none =>
      let c := c.refuseRetire m true bank row 9
      -- a row without a spare makes Ilael retire its bank (R460)
      if m.path = 4 then c.selfOrder 0x21 (leBytes 2 bank) else c

/-- A bank retirement is accepted with entry `e` (R471, R472). -/
def Chip.acceptBank (c : Chip) (bank e : Nat) : Chip :=
  let c := c.setRemap e { valid := true, cause := 3, racking := true, bank := bank }
  let c := c.queueRack { kind := .bank, bank := bank, row := 0, entry := e }
  let c := c.logRetire (bankItem e) (logItem 1 bank) (.started false e)
  c.ringRec { type := 0x03, cls := 0, source := 2, bank := bank, arg0 := 1, arg1 := e }

/-- RETIRE_BANK. -/
def Chip.doRetireBank (c : Chip) (m : MgtPkt) : Chip :=
  let bank := m.par 0 2
  if !c.nvmOpen then c.refuseRetire m false bank 0 0x11
  else if c.notRetirable bank then c.refuseRetire m false bank 0 8
  else if 64 ≤ (c.die (bank / 128)).pending then c.refuseRetire m false bank 0 1
  else
    match c.packEntry with
    | some e => (c.acceptBank bank e).reply m 0 e []
    | none => c.refuseRetire m false bank 0 9

/-! ### The cellar book (R620, R624, R635, R636) -/

/-- The reply data of READ_LOG and NVM_READ: the head, the log or area, the first slot, and the payloads, none for an invalid slot. -/
def slotReply (head log first : Nat) (ps : List (Option (List Byte))) : List Byte :=
  leBytes 4 head ++ leBytes 2 ps.length ++ leBytes 2 log ++ leBytes 4 first ++
  leBytes 2 (maskOf 10 (fun i => ps.getD i (some []) == none)) ++ leBytes 2 0 ++ ps.flatMap (fun p => padBytes 48 (p.getD []))

/-- Read `n` slots of an area from the book. -/
def Chip.readSlots (c : Chip) (b : Book) (area first n : Nat) : List (Option (List Byte)) × Chip :=
  (upFrom first n).foldl (fun (x : List (Option (List Byte)) × Chip) s =>
    let (p, c) := x.2.bookRead b area s
    (x.1 ++ [p], c)) ([], c)

/-- The slots that a read from `start` in an area of `n` slots returns. -/
def readCount (start n : Nat) : Nat := min 10 (n - start)

/-- The counter range of a LOG: its first slot in COUNTERS and its slots (R626). -/
def logRange (log : Nat) : Nat × Nat :=
  match log with | 0 => (0, 1) | 1 => (1, 26) | 2 => (27, 5) | 3 => (32, 3072) | _ => (3104, 24)

/-- The area of a LOG that is no range of counters (R635). -/
def logArea (log : Nat) : Nat := log - 3

/-- The head of a journal; 0 for another area. -/
def Nvm.headOf (n : Nvm) (area : Nat) : Nat := if isJournal area then n.heads.get 0 area else 0

/-- READ_LOG: counters come from NVM's image, the rest from the book. -/
def Chip.doReadLog (c : Chip) (b : Book) (m : MgtPkt) : Chip :=
  let log := m.par 0 1
  let start := m.par 4 4
  if !c.nvmOpen then c.refuse m 0x11
  else if log < 5 then
    let (lo, n) := logRange log
    let ps := (upFrom start (readCount start n)).map (fun s => some (imagePayload c.nvm.counters (lo + s)))
    c.reply m 0 0 (slotReply 0 log start ps)
  else
    let a := logArea log
    let head := c.nvm.headOf a
    let (ps, c) := c.readSlots b a start (readCount start (areaPlace a).2)
    c.reply m 0 0 (slotReply head log start ps)

/-- NVM_READ: every area comes from the book. -/
def Chip.doNvmRead (c : Chip) (b : Book) (m : MgtPkt) : Chip :=
  let a := m.par 0 1
  let start := m.par 4 4
  if !c.nvmOpen then c.refuse m 0x11
  else
    let head := c.nvm.headOf a
    let (ps, c) := c.readSlots b a start (readCount start (areaPlace a).2)
    c.reply m 0 0 (slotReply head a start ps)

/-- Whether a slot was written by NVM_WRITE within the last second (R624). -/
def Chip.slotRecent (c : Chip) (area slot : Nat) : Bool :=
  c.nvm.recent.any (fun (a, s, t) => a == area && s == slot && c.keep < t + 25000000)

/-- NVM_WRITE. -/
def Chip.doNvmWrite (c : Chip) (m : MgtPkt) : Chip :=
  let a := m.par 0 1
  let slot := m.par 4 4
  if !c.nvmOpen then c.refuse m 0x11
  else if a != 8 && a != 9 then c.refuse m 0x10
  else if c.slotRecent a slot then c.refuse m 1
  else
    let gen := if a = 8 then (c.nvm.patchGen + 1) % 2 ^ 32 else 0
    let req : NvmReq := { area := a, slot := some slot, body := byteSlice m.params 8 48, gen := gen, what := .patchWrite }
    { c with nvm := Nvm.kick { c.nvm with userQ := c.nvm.userQ ++ [req] } }.startLong m (.nvmWrite false)

/-! ### The fuse array (R610-R615) -/

/-- The reasons of R611 that hold whatever word is named: orders 1 and 2. -/
def Chip.fuseIdle (c : Chip) : Option Nat := if c.fus.cmd.isSome then some 1 else if !c.fus.en then some 2 else none

/-- The reasons of orders 5 and 6 of R611. -/
def Chip.fusePower (c : Chip) : Option Nat :=
  if !c.fus.pump && !c.fus.vprogOk then some 5 else if c.thm.shut != .none then some 6 else none

/-- The first reason for which FUSE_PROGRAM is refused (R611, R613). -/
def Chip.programRefused (c : Chip) (w : Nat) (reinforce : Bool) : Option Nat :=
  match c.fuseIdle with
  | some r => some r
  | none =>
    if !reinforce && w % 64 == 62 then some 3
    else if !reinforce && natBit c.fus.locked (w / 64) then some 4
    else c.fusePower

/-- Start a fuse command; with no bit to pulse it ends at once. -/
def Chip.startFuse (c : Chip) (m : MgtPkt) (x : FuseCmd) : Chip :=
  if x.bits.isEmpty then c.reply m 0 0 [] else { c with fus := { c.fus with cmd := some x } }.startLong m .fuse

/-- What FUSE_PROGRAM starts on a word that reads `x` (R611, R613). -/
def programCmd (w : Nat) (x : FuseWord) (reinforce : Bool) (mask : Nat) : FuseCmd :=
  if reinforce then { word := w, bits := weakBits x, reinforce := true, blind := weakBits x } else { word := w, bits := programBits x mask }

/-- FUSE_PROGRAM. -/
def Chip.doFuseProgram (c : Chip) (a : FuseArray) (m : MgtPkt) : Chip :=
  let w := m.par 0 2
  let reinforce := m.par 2 1 == 1
  match c.programRefused w reinforce with
  | some r => c.refuse m r
  | none =>
    c.startFuse m (programCmd w (Tab.get {} a w) reinforce (m.par 4 4))

/-- The first reason for which FUSE_SEAL is refused (R614). -/
def Chip.sealRefused (c : Chip) (a : FuseArray) (r : Nat) : Option Nat :=
  match c.fuseIdle with
  | some x => some x
  | none =>
    if natBit c.fus.locked r || a.sealed r then some 4
    else match c.fusePower with
      | some x => some x
      | none => if a.checks r (fun i => a.norm (64 * r + i)) then none else some 7

/-- FUSE_SEAL. -/
def Chip.doFuseSeal (c : Chip) (a : FuseArray) (m : MgtPkt) : Chip :=
  let r := m.par 0 1
  match c.sealRefused a r with
  | some x => c.refuse m x
  | none => c.startFuse m { word := 64 * r + 62, bits := [0], sealing := true }

/-- FUSE_READ (R615). The word it reads last stands in the read buffer. -/
def Chip.doFuseRead (c : Chip) (a : FuseArray) (m : MgtPkt) : Chip :=
  { c with fus := { c.fus with rdBuf := a.norm (m.par 0 2 + m.par 2 2 - 1) } }.reply m 0 0 ((upFrom (m.par 0 2) (m.par 2 2)).flatMap (fun w => let (v, x) := a.readOut w; leBytes 4 v ++ leBytes 4 x))

/-- The long command running is a fuse command. -/
def Mgt.fusing (m : Mgt) : Bool := match m.long with | some ⟨_, _, .fuse⟩ => true | _ => false

/-- A fuse command ends, with its reply. -/
def Chip.endFuse (c : Chip) (rc arg : Nat) : Chip :=
  let c := { c with fus := { c.fus with cmd := none } }
  if c.mgt.fusing then c.endLong rc arg else c

/-- What follows a pulse of the command in progress, its word now reading `w` (R612, R614, R616). -/
def Chip.afterPulse (c : Chip) (m : FuseCmd) (w : FuseWord) : Chip :=
  let c := { c with fus := { c.fus with cntPulse := bump32 c.fus.cntPulse, rdBuf := w.strict } }
  if c.thm.shut == .grace then
    -- the pulse finishes and the command does not (R616, R517)
    { c with fus := { c.fus with cmd := none }
             thm := { c.thm with info := { c.thm.info with cut := 1, cutOp := if m.sealing then 0x29 else 0x28 } } }
  else
    match m.next w with
    | .goesOn m' => { c with fus := { c.fus with cmd := some m' } }
    | .bitFails b =>
      let c := { c with fus := { c.fus with cntFail := bump32 c.fus.cntFail } }
      (c.raise 3 ⟨1, 0x12, 32 * m.word + b⟩).endFuse 8 (32 * m.word + b)
    | .ends m' =>
      if m.sealing then
        let r := m.word / 64
        -- the region is SEALED_GOOD, and its lock is set (R614, R639)
        { c with fus := { c.fus with locked := c.fus.locked ||| 2 ^ r, state := c.fus.state ||| 4 ^ r } }.endFuse 0 0
      else c.endFuse 0 m'.pulsed

/-- A programming pulse ends; `normal` and `strict` tell what its fuse then reads. While EN is 0 the command does not act, and no pulse goes
on (R610; DEDUCED, log entry 56). -/
def State.fusePulseEnd (s : State) (normal strict : Bool) : State :=
  match s.chip.fus.cmd with
  | none => s
  | some m =>
    match m.bit with
    | none => s
    | some b =>
      if !(s.chip.on && s.chip.fus.en) then s
      else
        let a := s.fuses.pulse m.word (m.phase % 2) b normal strict
        { s with fuses := a, chip := (s.chip.afterPulse m (Tab.get {} a m.word)).settle }

/-! ### Limits, guarantees, windows and capacity (R203, R210, R286, R287, R502) -/

/-- SET_THERMAL. -/
def Chip.doSetThermal (c : Chip) (m : MgtPkt) : Chip :=
  let l : Limits := ⟨m.par 0 1, m.par 1 1, m.par 2 1, m.par 3 1⟩
  if c.thm.lock.v == 1 then c.refuse m 4
  else if !limitsOk l c.thm.fused then c.refuse m 0x0F
  else { c with thm := { c.thm with lim := l } }.reply m 0 0 []

/-- COMMIT_GUARANTEES. With the regulator failed nothing can be committed (R542). -/
def Chip.doCommit (c : Chip) (m : MgtPkt) : Chip :=
  let gs := (below 8).map (fun k => m.par (2 * k) 2)
  let sum := gs.foldl (· + ·) 0
  let cap := if c.bwr.bypass then 0 else c.bwr.deliver
  let data := leBytes 2 cap ++ leBytes 2 sum ++ padBytes 4 []
  if cap < sum || c.bwr.bypass then c.reply m 7 0 data
  else { c with bwr := { c.bwr with pendSet := some gs } }.reply m 0 0 data

/-- SET_WINDOW. -/
def Chip.doSetWindow (c : Chip) (m : MgtPkt) : Chip :=
  let w : Window := ⟨natBit (m.par 1 1) 0, m.par 4 4, m.par 8 4, natBits (m.par 1 1) 1 2, m.par 16 16⟩
  { c with addr := { c.addr with wins := c.addr.wins.put (m.par 0 1) w } }.reply m 0 0 []

/-- The capacity report (R210). -/
def Chip.capacityReport (c : Chip) : List Byte :=
  let n := c.unserved
  leBytes 8 (103079215104 - 50331648 * n) ++ leBytes 1 c.addr.mode ++ padBytes 7 [] ++ leBytes 2 n ++ leBytes 2 c.remapUsed ++
  leBytes 2 c.remapFree ++ leBytes 2 c.remapUnusable ++ padBytes 24 [] ++
  (below 256).flatMap (fun i => leBytes 1 (maskOf 8 (fun j => !c.served (8 * i + j))))

/-- CAPACITY. -/
def Chip.doCapacity (c : Chip) (m : MgtPkt) : Chip := c.reply m 0 0 c.capacityReport

end Sys2Proof.Machine
end

