-- ==== Sys2Proof/Machine/CmdBoot.lean ====
section
/-! DEFINITION. The meanings of the commands of reset and boot (R41, R42, R521-R548, R693, R721): each acts where its event can happen, and changes nothing
otherwise. -/

namespace Sys2Proof.Machine

/-- PWRGD_RISE (R525). -/
def execPwrgdRise (s : State) : Host.Outcome State Fault Refusal := .next (s.onChip (fun c => c.pwrgdRise))

/-- PWRGD_FALL (R521). -/
def execPwrgdFall (s : State) : Host.Outcome State Fault Refusal := .next (s.pwrgdFall)

/-- RESET_N_FALL (R522). -/
def execResetNFall (lowNs : Nat) (s : State) : Host.Outcome State Fault Refusal := .next (s.resetNFall lowNs)

/-- RESET_N_RISE (R41). -/
def execResetNRise (straps : BitVec 10) (stable : Bool) (s : State) : Host.Outcome State Fault Refusal :=
  .next (s.onChip (fun c => c.resetNRise straps stable))

/-- KEEPER_SETTLE_END (R525). -/
def execKeeperSettleEnd (s : State) : Host.Outcome State Fault Refusal := .next (s.onChip (fun c => c.keeperSettleEnd))

/-- PLL_LOCK (R525). -/
def execPllLock (s : State) : Host.Outcome State Fault Refusal := .next (s.onChip (fun c => c.pllLock s.fuses))

/-- PLL_LOCK_TIMEOUT (R531). -/
def execPllLockTimeout (a : Bool) (b : Bool) (s : State) : Host.Outcome State Fault Refusal :=
  .next (s.onChip (fun c => c.pllLockTimeout a b))

/-- PLL_LOCK_LOSS (R42). -/
def execPllLockLoss (b : Bool) (s : State) : Host.Outcome State Fault Refusal := .next (s.onChip (fun c => c.pllLockLoss b))

/-- REFCLK_LOST (R42). -/
def execRefclkLost (s : State) : Host.Outcome State Fault Refusal := .next (s.onChip (fun c => c.refclkLost))

/-- SHADOW_RELOAD (R535). -/
def execShadowReload (s : State) : Host.Outcome State Fault Refusal := .next (s.onChip (fun c => (c.shadowReload s.fuses).settle))

/-- BOOT_LBIST_END (R537). -/
def execBootLbistEnd (block : Fin 264) (run : BistRun) (v0 : CheckerRun) (v1 : CheckerRun) (ok : Bool) (s : State) : Host.Outcome State Fault Refusal :=
  .next (s.onChip (fun c => c.bootLbistEnd s.fuses s.book block.val run v0 v1 ok))

/-- PC_TRAINING_END (R408). -/
def execPcTrainingEnd (k : ChcIx) (p : PcIx) (at8 : TrainAttempt) (at4 : TrainAttempt) (s : State) : Host.Outcome State Fault Refusal :=
  .next (s.onChip (fun c => (c.pcTrainingEnd s.book k.val p.val at8 at4).settle))

/-- LINK_TRAIN_DEADLINE (R66). -/
def execLinkTrainDeadline (s : State) : Host.Outcome State Fault Refusal := .next (s.onChip (fun c => c.linkTrainDeadline))

/-- MAP_WAIT_TIMEOUT (R193). -/
def execMapWaitTimeout (s : State) : Host.Outcome State Fault Refusal := .next (s.onChip (fun c => c.mapWaitTimeout))

/-- BOOT_STEP10 (R548). -/
def execBootStep10 (s : State) : Host.Outcome State Fault Refusal := .next (s.onChip (fun c => c.bootStep10))

/-- READY (R530). -/
def execReady (s : State) : Host.Outcome State Fault Refusal := .next (s.onChip (fun c => c.makeReady))

/-- SAFE_SIDEBAND_INIT (R540). -/
def execSafeSidebandInit (s : State) : Host.Outcome State Fault Refusal := .next (s.onChip (fun c => c.safeSidebandInit))

end Sys2Proof.Machine
end

