-- ==== Sys2Proof/Machine/CmdLink.lean ====
section
/-! DEFINITION. The meanings of the commands of the host links (R49-R83). -/

namespace Sys2Proof.Machine

/-- SB_INIT (R67). -/
def execSbInit (n : PortIx) (s : State) : Host.Outcome State Fault Refusal := .next (s.onChip (fun c => (c.sbInit n.val).settle))

/-- LINK_TRAIN_STEP_END (R65). -/
def execLinkTrainStepEnd (n : PortIx) (res : LinkStepRes) (s : State) : Host.Outcome State Fault Refusal :=
  .next (s.onChip (fun c => (c.linkStep n.val res).settle))

/-- INITIAL_CREDIT_GRANT (R78). -/
def execInitialCreditGrant (n : PortIx) (s : State) : Host.Outcome State Fault Refusal := .next (s.onChip (fun c => c.initialGrant n.val))

/-- HOST_RETRAIN_REQUEST (R68). -/
def execHostRetrainRequest (n : PortIx) (s : State) : Host.Outcome State Fault Refusal :=
  .next (s.onChip (fun c => (c.hostRetrain n.val).settle))

/-- REPLAY_LIMIT_RETRAIN (R68). -/
def execReplayLimitRetrain (n : PortIx) (s : State) : Host.Outcome State Fault Refusal :=
  .next (s.onChip (fun c => (c.replayLimit n.val).settle))

/-- HOST_LINK_DISABLE (R72): DOWN with reason 4. -/
def execHostLinkDisable (n : PortIx) (s : State) : Host.Outcome State Fault Refusal :=
  .next (s.onChip (fun c => (c.portFails n.val 4).settle))

/-- ADAPTER_LINK_ERROR (R72): DOWN with reason 9. -/
def execAdapterLinkError (n : PortIx) (s : State) : Host.Outcome State Fault Refusal :=
  .next (s.onChip (fun c => (c.portFails n.val 9).settle))

/-- FWD_CLK_LOST (R73). -/
def execFwdClkLost (n : PortIx) (s : State) : Host.Outcome State Fault Refusal := .next (s.onChip (fun c => (c.fwdClkLost n.val).settle))

/-- POWER_STATE_REQUEST (R51): refused, and the link stays active. -/
def execPowerStateRequest (_n : PortIx) (s : State) : Host.Outcome State Fault Refusal := .next s

/-- SIDEBAND_REG_ACCESS (R52). -/
def execSidebandRegAccess (n : PortIx) (standard : Bool) (addr : Word) (s : State) : Host.Outcome State Fault Refusal :=
  .next (s.onChip (fun c => c.sidebandReg n.val standard addr.toNat))

/-- FLIT_CRC_ERROR (R84). -/
def execFlitCrcError (n : PortIx) (s : State) : Host.Outcome State Fault Refusal := .next (s.onChip (fun c => c.flitCrcError n.val))

/-- PAD (R87): discarded. -/
def execPad (_n : PortIx) (s : State) : Host.Outcome State Fault Refusal := .next s

/-- FLIT_REPLAY (R50). -/
def execFlitReplay (n : PortIx) (again : Bool) (s : State) : Host.Outcome State Fault Refusal :=
  .next (s.onChip (fun c => c.flitReplay n.val again))

/-- FLIT_BOUNDARY (R672). -/
def execFlitBoundary (n : PortIx) (s : State) : Host.Outcome State Fault Refusal := .next (s.onChip (fun c => c.flitBoundary n.val))

end Sys2Proof.Machine
end

