-- ==== Sys2Proof/Machine/CmdReq.lean ====
section
/-! DEFINITION. The meanings of the request commands and of what carries them on (R84-R185, R266-R271). -/

namespace Sys2Proof.Machine

/-- A request arrives at a port; where its link falls with it, what a link-down sets going follows (R129, R179). -/
def Chip.request (c : Chip) (n : Nat) (op : Op) (h : ReqHdr) (payload : List Byte) (trailer : Word) (look : Lookup) : Chip :=
  let c' := c.arrive n op h payload trailer look
  if (c'.port n).state == (c.port n).state then c' else c'.settle

/-- An event of the main domain: it happens only while the domain runs outside the fault state (R584). -/
def Chip.whenLive (c : Chip) (f : Chip → Chip) : Chip := if c.live then f c else c

/-- An event of slice `s` in a stack that runs: nothing more leaves a slice that has found a fatal condition (R582). -/
def Chip.whenSlice (c : Chip) (s : Nat) (f : Chip → Chip) : Chip := if c.live && !c.halted (fltDct s) then f c else c

/-- RESERVED_OP (R716). A word whose bits [5:0] are 0 is a PAD word and is discarded (R87, R100). -/
def execReservedOp (n : PortIx) (code : BitVec 6) (hdr : ReqHdr) (s : State) : Host.Outcome State Fault Refusal :=
  if code = 0 then .next s else .next (s.onChip (fun c => c.request n.val (.reserved code) hdr [] 0 {}))

/-- RD (R100). -/
def execRd (n : PortIx) (hdr : ReqHdr) (look : Lookup) (s : State) : Host.Outcome State Fault Refusal :=
  .next (s.onChip (fun c => c.request n.val .rd hdr [] 0 look))

/-- WR (R45). -/
def execWr (n : PortIx) (hdr : ReqHdr) (payload : List Byte) (trailer : Word) (s : State) : Host.Outcome State Fault Refusal :=
  .next (s.onChip (fun c => c.request n.val .wr hdr payload trailer {}))

/-- WR_MASKED (R103). -/
def execWrMasked (n : PortIx) (hdr : ReqHdr) (payload : List Byte) (trailer : Word) (s : State) : Host.Outcome State Fault Refusal :=
  .next (s.onChip (fun c => c.request n.val .wrMasked hdr payload trailer {}))

/-- ATOM (R311). -/
def execAtom (n : PortIx) (hdr : ReqHdr) (payload : List Byte) (trailer : Word) (s : State) : Host.Outcome State Fault Refusal :=
  .next (s.onChip (fun c => c.request n.val .atom hdr payload trailer {}))

/-- ACCUM (R314). -/
def execAccum (n : PortIx) (hdr : ReqHdr) (payload : List Byte) (trailer : Word) (s : State) : Host.Outcome State Fault Refusal :=
  .next (s.onChip (fun c => c.request n.val .accum hdr payload trailer {}))

/-- FILL (R334). -/
def execFill (n : PortIx) (hdr : ReqHdr) (payload : List Byte) (s : State) : Host.Outcome State Fault Refusal :=
  .next (s.onChip (fun c => c.request n.val .fill hdr payload 0 {}))

/-- COPY (R335). -/
def execCopy (n : PortIx) (hdr : ReqHdr) (payload : List Byte) (s : State) : Host.Outcome State Fault Refusal :=
  .next (s.onChip (fun c => c.request n.val .copy hdr payload 0 {}))

/-- RANGE_CRC (R336). -/
def execRangeCrc (n : PortIx) (hdr : ReqHdr) (payload : List Byte) (s : State) : Host.Outcome State Fault Refusal :=
  .next (s.onChip (fun c => c.request n.val .rangeCrc hdr payload 0 {}))

/-- JOB_STATUS (R110). -/
def execJobStatus (n : PortIx) (hdr : ReqHdr) (payload : List Byte) (s : State) : Host.Outcome State Fault Refusal :=
  .next (s.onChip (fun c => c.request n.val .jobStatus hdr payload 0 {}))

/-- JOB_CANCEL (R111). -/
def execJobCancel (n : PortIx) (hdr : ReqHdr) (payload : List Byte) (s : State) : Host.Outcome State Fault Refusal :=
  .next (s.onChip (fun c => c.request n.val .jobCancel hdr payload 0 {}))

/-- FENCE (R162). -/
def execFence (n : PortIx) (hdr : ReqHdr) (s : State) : Host.Outcome State Fault Refusal :=
  .next (s.onChip (fun c => c.request n.val .fence hdr [] 0 {}))

/-- FLUSH (R246). -/
def execFlush (n : PortIx) (hdr : ReqHdr) (s : State) : Host.Outcome State Fault Refusal :=
  .next (s.onChip (fun c => c.request n.val .flush hdr [] 0 {}))

/-- MGMT_CMD (R644). -/
def execMgmtCmd (n : PortIx) (hdr : ReqHdr) (payload : List Byte) (s : State) : Host.Outcome State Fault Refusal :=
  .next (s.onChip (fun c => c.request n.val .mgmtCmd hdr payload 0 {}))

/-- NOP_CREDIT (R115). -/
def execNopCredit (n : PortIx) (hdr : ReqHdr) (s : State) : Host.Outcome State Fault Refusal :=
  .next (s.onChip (fun c => c.request n.val .nopCredit hdr [] 0 {}))

/-- RSP_SPACE_RESERVE (R130). -/
def execRspSpaceReserve (n : PortIx) (s : State) : Host.Outcome State Fault Refusal := .next (s.onChip (fun c => c.rspReserve n.val))

/-- JOB_CONTEXT_GRANT (R324). -/
def execJobContextGrant (p : PressIx) (s : State) : Host.Outcome State Fault Refusal :=
  .next (s.onChip (fun c => c.jobContextGrant p.val))

/-- ORDERED_RELEASE (R155). -/
def execOrderedRelease (n : PortIx) (tag : Fin 1024) (s : State) : Host.Outcome State Fault Refusal :=
  .next (s.onChip (fun c => c.whenLive (fun c => (c.releaseIfFree n.val tag.val).resumeRx n.val)))

/-- FENCE_COMPLETE (R163). -/
def execFenceComplete (n : PortIx) (tag : Fin 1024) (s : State) : Host.Outcome State Fault Refusal :=
  .next (s.onChip (fun c => c.whenLive (fun c => (c.fenceComplete n.val tag.val).resumeRx n.val)))

/-- REQUEST_COMPLETE (R154). -/
def execRequestComplete (n : PortIx) (tag : Fin 1024) (s : State) : Host.Outcome State Fault Refusal :=
  .next (s.onChip (fun c => c.whenLive (fun c => (c.requestComplete n.val tag.val).resumeRx n.val)))

/-- RESPONSE_HANDOFF (R127). -/
def execResponseHandoff (n : PortIx) (s : State) : Host.Outcome State Fault Refusal := .next (s.onChip (fun c => c.responseHandoff n.val))

/-- CREDIT_GRANT_TIMER (R128). -/
def execCreditGrantTimer (n : PortIx) (s : State) : Host.Outcome State Fault Refusal := .next (s.onChip (fun c => c.creditTimer n.val))

/-- XBR_PACKET_ACCEPT (R271). -/
def execXbrPacketAccept (vc : Vc) (dst : Fin 113) (s : State) : Host.Outcome State Fault Refusal :=
  .next (s.onChip (fun c => (c.packetAccept vc dst.val).settle))

end Sys2Proof.Machine
end

