-- ==== Sys2Proof/Machine/CmdSlice.lean ====
section
/-! DEFINITION. The meanings of the commands of the decanter slices (R215-R260, R293-R298). -/

namespace Sys2Proof.Machine

/-- The owner of a line lock that a command names. -/
def lockOwnerOf : LockRef → LockOwner
  | .press p => .press p.val
  | .rack d => .rack d.val

/-- SLICE_REQUEST (R222). -/
def execSliceRequest (k : SliceIx) (err : SramErr) (s : State) : Host.Outcome State Fault Refusal :=
  .next (s.onChip (fun c => (c.whenSlice k.val (·.sliceRequest k.val err)).settle))

/-- CONFLICT_QUEUE_RETRY (R227). -/
def execConflictQueueRetry (k : SliceIx) (i : Fin 32) (s : State) : Host.Outcome State Fault Refusal :=
  .next (s.onChip (fun c => (c.whenSlice k.val (·.cqRetry k.val i.val)).settle))

/-- EVICTION_BUFFER_FREE (R234). -/
def execEvictionBufferFree (k : SliceIx) (i : Fin 4) (s : State) : Host.Outcome State Fault Refusal :=
  .next (s.onChip (fun c => (c.whenSlice k.val (·.evbFree k.val i.val)).settle))

/-- FILL_RETURN (R226). -/
def execFillReturn (k : SliceIx) (s : State) : Host.Outcome State Fault Refusal :=
  .next (s.onChip (fun c => (c.whenSlice k.val (·.fillReturn k.val)).settle))

/-- LINE_LOCK_GRANT (R296). -/
def execLineLockGrant (k : SliceIx) (s : State) : Host.Outcome State Fault Refusal :=
  .next (s.onChip (fun c => c.whenSlice k.val (·.lineLockGrant k.val)))

/-- LINE_LOCK_RELEASE (R297). -/
def execLineLockRelease (k : SliceIx) (owner : LockRef) (s : State) : Host.Outcome State Fault Refusal :=
  .next (s.onChip (fun c => (c.lockRelease k.val (lockOwnerOf owner)).settle))

/-- FLUSH_WALK_STEP (R247). -/
def execFlushWalkStep (k : SliceIx) (s : State) : Host.Outcome State Fault Refusal := .next (s.onChip (fun c => c.whenSlice k.val (·.walkStep k.val)))

/-- FLUSH_COMPLETE (R248). -/
def execFlushComplete (n : PortIx) (tag : Fin 1024) (s : State) : Host.Outcome State Fault Refusal :=
  .next (s.onChip (fun c => c.flushComplete n.val tag.val))

/-- SLICE_DRAIN (R240). -/
def execSliceDrain (k : SliceIx) (s : State) : Host.Outcome State Fault Refusal := .next (s.onChip (fun c => c.sliceDrain k.val))

/-- SLICE_DRAIN_END (R241). -/
def execSliceDrainEnd (k : SliceIx) (s : State) : Host.Outcome State Fault Refusal :=
  .next (s.onChip (fun c => (c.sliceDrainEnd k.val).settle))

end Sys2Proof.Machine
end

