-- ==== Sys2Proof/Machine/CmdChan.lean ====
section
/-! DEFINITION. The meanings of the commands of the pseudo-channels: queues, refresh, replay, training, calibration, scrub and racking (R350-R480). -/

namespace Sys2Proof.Machine

/-- The oldest command of a pseudo-channel retires; the block of a WR reaches the core die (R385). -/
def State.retireEntry (s : State) (k p : Nat) : State :=
  let (c, mem) := s.chip.retire s.epoch s.mem k p
  { s with mem := mem, chip := c.settle }

/-- PC_FENCE (R238). -/
def execPcFence (k : ChcIx) (p : PcIx) (s : State) : Host.Outcome State Fault Refusal :=
  .next (s.onChip (fun c => (c.pcFence k.val p.val).settle))

/-- COMMAND_ENQUEUE (R363). -/
def execCommandEnqueue (k : ChcIx) (p : PcIx) (s : State) : Host.Outcome State Fault Refusal :=
  .next (s.onChip (fun c => (c.enqueue k.val p.val).settle))

/-- DRAM_COMMAND_ISSUE (R272). -/
def execDramCommandIssue (k : ChcIx) (p : PcIx) (busy : List BankIx) (s : State) : Host.Outcome State Fault Refusal :=
  .next (s.onChip (fun c => c.dramIssue k.val p.val (busy.map (·.val))))

/-- IDLE_CLOSE (R359). -/
def execIdleClose (k : ChcIx) (p : PcIx) (bank : BankIx) (s : State) : Host.Outcome State Fault Refusal :=
  .next (s.onChip (fun c => c.idleClose k.val p.val bank.val))

/-- READ_BURST_RETURN (R364). -/
def execReadBurstReturn (k : ChcIx) (p : PcIx) (noise : List (Fin 36 × BitVec 16)) (s : State) : Host.Outcome State Fault Refusal :=
  .next (s.onChip (fun c => (c.burstReturn k.val p.val noise).settle))

/-- RETRY_ENTRY_RETIRE (R385). -/
def execRetryEntryRetire (k : ChcIx) (p : PcIx) (s : State) : Host.Outcome State Fault Refusal := .next (s.retireEntry k.val p.val)

/-- REFRESH_TICK (R367). -/
def execRefreshTick (s : State) : Host.Outcome State Fault Refusal := .next (s.onChip (fun c => c.refreshTick.settle))

/-- REFAB_OPPORTUNISTIC (R368). -/
def execRefabOpportunistic (k : ChcIx) (p : PcIx) (s : State) : Host.Outcome State Fault Refusal :=
  .next (s.onChip (fun c => (c.refabIdle k.val p.val).settle))

/-- REFAB_ISSUE (R370). -/
def execRefabIssue (k : ChcIx) (p : PcIx) (s : State) : Host.Outcome State Fault Refusal :=
  .next (s.onChip (fun c => (c.withBandEval k.val p.val (·.refabIssue k.val p.val)).settle))

/-- REFRESH_END (R370). -/
def execRefreshEnd (k : ChcIx) (p : PcIx) (s : State) : Host.Outcome State Fault Refusal :=
  .next (s.onChip (fun c => (c.refreshEnd k.val p.val).settle))

/-- BAND_CHANGE (R375). -/
def execBandChange (k : ChcIx) (p : PcIx) (s : State) : Host.Outcome State Fault Refusal :=
  .next (s.onChip (fun c => c.bandChangeEval k.val p.val))

/-- REFRESH_PAYMENT_END (R377). -/
def execRefreshPaymentEnd (k : ChcIx) (p : PcIx) (s : State) : Host.Outcome State Fault Refusal :=
  .next (s.onChip (fun c => (c.withBandEval k.val p.val (·.paymentEnd k.val p.val)).settle))

/-- ALERT_RISE (R387). -/
def execAlertRise (k : ChcIx) (recv : Reception) (s : State) : Host.Outcome State Fault Refusal :=
  .next (s.onChip (fun c => (c.alertRise k.val recv.p.val recv).settle))

/-- REPLAY_END (R388). -/
def execReplayEnd (k : ChcIx) (p : PcIx) (s : State) : Host.Outcome State Fault Refusal :=
  .next (s.onChip (fun c => (c.replayEnd k.val p.val).settle))

/-- RETRAIN_END (R418). -/
def execRetrainEnd (k : ChcIx) (r0 : RetrainAttempt) (r1 : RetrainAttempt) (s : State) : Host.Outcome State Fault Refusal :=
  .next (s.onChip (fun c => (c.retrainEnd k.val r0 r1).settle))

/-- RESCUE_TRAIN_END (R419). -/
def execRescueTrainEnd (k : ChcIx) (p : PcIx) (a : TrainAttempt) (s : State) : Host.Outcome State Fault Refusal :=
  .next (s.onChip (fun c => (c.rescueTrainEnd k.val p.val a).settle))

/-- RESCUE_RACK_DONE (R419). -/
def execRescueRackDone (k : ChcIx) (p : PcIx) (s : State) : Host.Outcome State Fault Refusal :=
  .next (s.onChip (fun c => (c.rescueRackDone k.val p.val).settle))

/-- TRN_START (R407): the write carries START 1 and the parameters in its other fields. -/
def execTrnStart (k : ChcIx) (v : Word) (s : State) : Host.Outcome State Fault Refusal :=
  .next (s.onChip (fun c => c.pulse (.chc k) (·.writeTrnCtl k.val (v.toNat ||| 1))))

/-- TRN_RUN_END (R407). -/
def execTrnRunEnd (k : ChcIx) (recv : List (Fin 38 × Nat × BitVec 16)) (s : State) : Host.Outcome State Fault Refusal :=
  .next (s.onChip (fun c => c.trnRunEnd k.val recv))

/-- CAL_PASS_START (R425). -/
def execCalPassStart (k : ChcIx) (p : PcIx) (s : State) : Host.Outcome State Fault Refusal :=
  .next (s.onChip (fun c => c.calPassStart k.val p.val))

/-- MONITOR_WINDOW_END (R426). -/
def execMonitorWindowEnd (k : ChcIx) (p : PcIx) (wr : Bool) (stats : List (Fin 38 × MonLane)) (s : State) : Host.Outcome State Fault Refusal :=
  .next (s.onChip (fun c => (c.monitorWindow k.val p.val wr stats).settle))

/-- CAL_LOW_TRAFFIC (R427). -/
def execCalLowTraffic (k : ChcIx) (p : PcIx) (s : State) : Host.Outcome State Fault Refusal :=
  .next (s.onChip (fun c => (c.calLowTraffic k.val p.val).settle))

/-- CAL_SKIPPED (R425). -/
def execCalSkipped (k : ChcIx) (p : PcIx) (s : State) : Host.Outcome State Fault Refusal :=
  .next (s.onChip (fun c => (c.calSkip k.val p.val).settle))

/-- SCRUB_ROW (R465). -/
def execScrubRow (d : Fin 16) (s : State) : Host.Outcome State Fault Refusal := .next (s.onChip (fun c => c.scrubRow d.val))

/-- RACK_ROW (R476). -/
def execRackRow (p d : Fin 16) (s : State) : Host.Outcome State Fault Refusal := .next (s.onChip (fun c => c.rackRow p.val d.val))

end Sys2Proof.Machine
end

