-- ==== Sys2Proof/Machine/CmdPress.lean ====
section
/-! DEFINITION. The meanings of the commands of the presses and of the bandwidth classes (R261, R277-R309, R323-R349). -/

namespace Sys2Proof.Machine

/-- CHUNK_BOUNDARY (R329). -/
def execChunkBoundary (p : PressIx) (s : State) : Host.Outcome State Fault Refusal := .next (s.onChip (fun c => c.chunkBoundary p.val))

/-- CHUNK_COMPLETE (R331). -/
def execChunkComplete (p : PressIx) (s : State) : Host.Outcome State Fault Refusal := .next (s.onChip (fun c => c.chunkComplete p.val))

/-- GRANULE_DATA_ARRIVE (R295). -/
def execGranuleDataArrive (p : PressIx) (s : State) : Host.Outcome State Fault Refusal :=
  .next (s.onChip (fun c => c.granuleArrive p.val))

/-- AGE_PROMOTION (R261). -/
def execAgePromotion (what : AgeRef) (s : State) : Host.Outcome State Fault Refusal := .next (s.onChip (fun c => c.agePromote what))

/-- BUDGET_WINDOW_BOUNDARY (R285). -/
def execBudgetWindowBoundary (s : State) : Host.Outcome State Fault Refusal := .next (s.onChip (fun c => c.windowBoundary))

end Sys2Proof.Machine
end

