-- ==== Sys2Proof/Machine/CmdThm.lean ====
section
/-! DEFINITION. The meanings of the commands of thermal management and of the supplies (R491-R520, R689, R694). -/

namespace Sys2Proof.Machine

/-- THM_SAMPLE (R496). -/
def execThmSample (zone : Fin 34) (s : State) : Host.Outcome State Fault Refusal := .next (s.onChip (fun c => c.thmSample zone.val))

/-- THM_EVALUATION (R497). A die that it finds blind in boot step 8 may end that step (R500, R525). -/
def execThmEvaluation (zone : Fin 34) (readings : List Reading) (s : State) : Host.Outcome State Fault Refusal :=
  .next (s.onChip (fun c => ((c.thmEvaluate zone.val readings).endStep8If s.book).settle))

/-- KEEPER_SAMPLE (R527). -/
def execKeeperSample (readings : List Reading) (s : State) : Host.Outcome State Fault Refusal :=
  .next (s.onChip (fun c => c.keeperSample readings))

/-- SHUTDOWN_GRACE_END (R515). -/
def execShutdownGraceEnd (s : State) : Host.Outcome State Fault Refusal := .next (s.shutdownGraceEnd)

/-- REARM_RELEASE (R518). -/
def execRearmRelease (s : State) : Host.Outcome State Fault Refusal := .next (s.onChip (fun c => c.rearmRelease))

/-- VPROG_LEVEL_CHANGE (R689). -/
def execVprogLevelChange (vprogOk : Bool) (keepOk : Bool) (s : State) : Host.Outcome State Fault Refusal :=
  .next (s.onChip (fun c => c.vprogLevel vprogOk keepOk))

/-- RAIL_OUT_OF_RANGE (R694). -/
def execRailOutOfRange (s : State) : Host.Outcome State Fault Refusal := .next (s.railLost)

end Sys2Proof.Machine
end

