-- ==== Sys2Proof/Machine/CmdFlt.lean ====
section
/-! DEFINITION. The meanings of the commands of fault collection (R562-R597). -/

namespace Sys2Proof.Machine

/-- ERROR_LINE_CAPTURE (R565). -/
def execErrorLineCapture (blocks : List (Fin 256)) (hw : List HwErr) (s : State) : Host.Outcome State Fault Refusal :=
  .next (s.onChip (fun c => c.errorCapture (blocks.map (·.val)) hw))

/-- EVENT_FETCH (R568). -/
def execEventFetch (fetch : Fetch) (s : State) : Host.Outcome State Fault Refusal :=
  .next (s.onChip (fun c => c.fetchWithAck fetch.block.val fetch.ack))

/-- BLANKING_WINDOW_CLOSE (R580). -/
def execBlankingWindowClose (s : State) : Host.Outcome State Fault Refusal := .next (s.onChip (fun c => c.windowClose))

/-- ALIVE_TOGGLE (R587). -/
def execAliveToggle (s : State) : Host.Outcome State Fault Refusal := .next (s.onChip (fun c => c.aliveToggle))

/-- MGT_WDOG (R595). -/
def execMgtWdog (s : State) : Host.Outcome State Fault Refusal := .next (s.onChip (fun c => c.mgtWdog))

/-- MGT_RESET_END (R595). -/
def execMgtResetEnd (s : State) : Host.Outcome State Fault Refusal := .next (s.onChip (fun c => c.mgtResetEnd.settle))

/-- SBI_MGT_TIMEOUT (R594). -/
def execSbiMgtTimeout (i3c : Bool) (s : State) : Host.Outcome State Fault Refusal := .next (s.onChip (fun c => c.sbiTimeout i3c))

end Sys2Proof.Machine
end

