-- ==== Sys2Proof/Machine/CmdPath.lean ====
section
/-! DEFINITION. The meanings of the commands of the management paths (R645-R653). -/

namespace Sys2Proof.Machine

/-- SIDEBAND_SEGMENT (R645). -/
def execSidebandSegment (n : PortIx) (index : BitVec 7) (last : Bool) (data : BitVec 64) (s : State) : Host.Outcome State Fault Refusal :=
  .next (s.onChip (fun c => (c.segment n.val index.toNat last data).settle))

/-- I3C_PRIVATE_WRITE (R648). -/
def execI3cPrivateWrite (bytes : List Byte) (s : State) : Host.Outcome State Fault Refusal :=
  .next (s.onChip (fun c => (c.i3cWrite bytes).settle))

/-- I3C_PRIVATE_READ (R648). -/
def execI3cPrivateRead (count : Nat) (s : State) : Host.Outcome State Fault Refusal := .next (s.onChip (fun c => c.i3cRead count))

/-- I3C_CCC (R647). -/
def execI3cCcc (x : I3cCcc) (s : State) : Host.Outcome State Fault Refusal := .next (s.onChip (fun c => c.i3cCcc x))

/-- I3C_IBI_REQUEST (R649). -/
def execI3cIbiRequest (s : State) : Host.Outcome State Fault Refusal := .next (s.onChip (fun c => c.i3cIbi))

/-- HOT_JOIN_REQUEST (R649). -/
def execHotJoinRequest (s : State) : Host.Outcome State Fault Refusal := .next (s.onChip (fun c => c.hotJoin))

/-- REGACC_UPDATE (R650). -/
def execRegaccUpdate (v : BitVec 64) (s : State) : Host.Outcome State Fault Refusal := .next (s.onChip (fun c => c.regacc v))

/-- BOOTSTAT_CAPTURE (R539). -/
def execBootstatCapture (s : State) : Host.Outcome State Fault Refusal := .next (s.onChip (fun c => c.bootstatCapture))

/-- CRED_HOLDOFF_END (R653). -/
def execCredHoldoffEnd (s : State) : Host.Outcome State Fault Refusal := .next (s.onChip (fun c => c.whenLive (·.holdoffEnd)))

end Sys2Proof.Machine
end

