-- ==== Sys2Proof/Machine/CmdMgmt.lean ====
section
/-! DEFINITION. The meanings of the management commands (R656-R661) and of the in-field tests and fuse pulses that go on after them. -/

namespace Sys2Proof.Machine

/-- REG_READ (R667). -/
def execRegRead (via : Via) (s : State) : Host.Outcome State Fault Refusal :=
  .next (s.onChip (fun c => (c.commandOf via 0x01 (immCmd Chip.doRegRead)).settle))

/-- REG_WRITE (R663). -/
def execRegWrite (via : Via) (s : State) : Host.Outcome State Fault Refusal :=
  .next (s.onChip (fun c => (c.commandOf via 0x02 (immCmd Chip.doRegWrite)).settle))

/-- GET_INFO (R658). -/
def execGetInfo (via : Via) (s : State) : Host.Outcome State Fault Refusal :=
  .next (s.onChip (fun c => (c.commandOf via 0x03 Chip.doGetInfo).settle))

/-- TRAIN (R416). -/
def execTrain (via : Via) (s : State) : Host.Outcome State Fault Refusal :=
  .next (s.onChip (fun c => (c.commandOf via 0x10 (longCmd Chip.doTrain)).settle))

/-- CALIBRATE (R434). -/
def execCalibrate (via : Via) (s : State) : Host.Outcome State Fault Refusal :=
  .next (s.onChip (fun c => (c.commandOf via 0x11 (longCmd Chip.doCalibrate)).settle))

/-- CAL_STORE (R437). -/
def execCalStore (via : Via) (s : State) : Host.Outcome State Fault Refusal :=
  .next (s.onChip (fun c => (c.commandOf via 0x12 (longCmd Chip.doCalStore)).settle))

/-- RUN_BIST (R553). -/
def execRunBist (via : Via) (ok : Bool) (s : State) : Host.Outcome State Fault Refusal :=
  .next (s.onChip (fun c => (c.commandOf via 0x18 (longCmd (fun c m => c.doRunBist ok m))).settle))

/-- QUIESCE (R552). -/
def execQuiesce (via : Via) (s : State) : Host.Outcome State Fault Refusal :=
  .next (s.onChip (fun c => (c.commandOf via 0x19 (longCmd Chip.doQuiesce)).settle))

/-- QUIESCE_COMPLETE (R552). -/
def execQuiesceComplete (s : State) : Host.Outcome State Fault Refusal := .next (s.onChip (fun c => c.quiesceComplete))

/-- BIST_PHASE_END (R551). -/
def execBistPhaseEnd (run : BistRun) (v0 : CheckerRun) (v1 : CheckerRun) (s : State) : Host.Outcome State Fault Refusal :=
  .next (s.onChip (fun c => (c.bistPhaseEnd s.fuses run v0 v1).settle))

/-- RESUME (R555). -/
def execResume (via : Via) (s : State) : Host.Outcome State Fault Refusal :=
  .next (s.onChip (fun c => (c.commandOf via 0x1A (immCmd Chip.doResume)).settle))

/-- RETIRE_ROW (R469). -/
def execRetireRow (via : Via) (s : State) : Host.Outcome State Fault Refusal :=
  .next (s.onChip (fun c => (c.commandOf via 0x20 (immCmd Chip.doRetireRow)).settle))

/-- RETIRE_BANK (R471). -/
def execRetireBank (via : Via) (s : State) : Host.Outcome State Fault Refusal :=
  .next (s.onChip (fun c => (c.commandOf via 0x21 (immCmd Chip.doRetireBank)).settle))

/-- READ_LOG (R635). -/
def execReadLog (via : Via) (s : State) : Host.Outcome State Fault Refusal :=
  .next (s.onChip (fun c => (c.commandOf via 0x22 (immCmd (fun c m => c.doReadLog s.book m))).settle))

/-- FUSE_PROGRAM (R611). -/
def execFuseProgram (via : Via) (s : State) : Host.Outcome State Fault Refusal :=
  .next (s.onChip (fun c => (c.commandOf via 0x28 (longCmd (fun c m => c.doFuseProgram s.fuses m))).settle))

/-- FUSE_SEAL (R614). -/
def execFuseSeal (via : Via) (s : State) : Host.Outcome State Fault Refusal :=
  .next (s.onChip (fun c => (c.commandOf via 0x29 (longCmd (fun c m => c.doFuseSeal s.fuses m))).settle))

/-- FUSE_PULSE_END (R612). -/
def execFusePulseEnd (normal : Bool) (strict : Bool) (s : State) : Host.Outcome State Fault Refusal :=
  .next (s.fusePulseEnd normal strict)

/-- FUSE_READ (R615). -/
def execFuseRead (via : Via) (s : State) : Host.Outcome State Fault Refusal :=
  .next (s.onChip (fun c => (c.commandOf via 0x2A (immCmd (fun c m => c.doFuseRead s.fuses m))).settle))

/-- NVM_READ (R636). -/
def execNvmRead (via : Via) (s : State) : Host.Outcome State Fault Refusal :=
  .next (s.onChip (fun c => (c.commandOf via 0x30 (immCmd (fun c m => c.doNvmRead s.book m))).settle))

/-- NVM_WRITE (R636). -/
def execNvmWrite (via : Via) (s : State) : Host.Outcome State Fault Refusal :=
  .next (s.onChip (fun c => (c.commandOf via 0x31 (longCmd Chip.doNvmWrite)).settle))

/-- SET_THERMAL (R502). -/
def execSetThermal (via : Via) (s : State) : Host.Outcome State Fault Refusal :=
  .next (s.onChip (fun c => (c.commandOf via 0x38 (immCmd Chip.doSetThermal)).settle))

/-- COMMIT_GUARANTEES (R286). -/
def execCommitGuarantees (via : Via) (s : State) : Host.Outcome State Fault Refusal :=
  .next (s.onChip (fun c => (c.commandOf via 0x39 (immCmd Chip.doCommit)).settle))

/-- SET_WINDOW (R203). -/
def execSetWindow (via : Via) (s : State) : Host.Outcome State Fault Refusal :=
  .next (s.onChip (fun c => (c.commandOf via 0x3A (immCmd Chip.doSetWindow)).settle))

/-- CAPACITY (R210). -/
def execCapacity (via : Via) (s : State) : Host.Outcome State Fault Refusal :=
  .next (s.onChip (fun c => (c.commandOf via 0x3B (immCmd Chip.doCapacity)).settle))

/-- RESERVED_CMD (R656): answered BAD_CMD by its form. -/
def execReservedCmd (via : Via) (code : Byte) (s : State) : Host.Outcome State Fault Refusal :=
  .next (s.onChip (fun c => (c.command via code.toNat reservedCode (fun c _ _ => c)).settle))

end Sys2Proof.Machine
end

