-- ==== Sys2Proof/Machine/CmdNvm.lean ====
section
/-! DEFINITION. The meanings of the commands of the cellar book (R617-R629). -/

namespace Sys2Proof.Machine

/-- The record write in progress ends. -/
def State.recordWriteEnd (s : State) (readsBack : Bool) : State :=
  let (c, b) := s.chip.recordWriteEnd s.book readsBack
  { s with book := b, chip := c.settle }

/-- NVM_RECORD_WRITE_END (R623). -/
def execNvmRecordWriteEnd (readsBack : Bool) (s : State) : Host.Outcome State Fault Refusal := .next (s.recordWriteEnd readsBack)

/-- LIFE_COUNTER_SECOND (R627). -/
def execLifeCounterSecond (s : State) : Host.Outcome State Fault Refusal := .next (s.onChip (fun c => c.lifeSecond))

/-- ACT_HIST_WINDOW (R628). -/
def execActHistWindow (s : State) : Host.Outcome State Fault Refusal := .next (s.onChip (fun c => c.actWindow))

/-- COUNTER_FLUSH (R629). -/
def execCounterFlush (s : State) : Host.Outcome State Fault Refusal := .next (s.onChip (fun c => c.counterFlush))

end Sys2Proof.Machine
end

