-- ==== Sys2Proof/Machine/CmdReg.lean ====
section
/-! DEFINITION. The meanings of the register commands (R662-R686): clears, pulses, locks, updates, and writes with no behaviour of their own.
A write that comes to a posted frame while it holds one is discarded (R670). -/

namespace Sys2Proof.Machine

/-- POSTED_WRITE_APPLY (R670). -/
def execPostedWriteApply (f : Frame) (s : State) : Host.Outcome State Fault Refusal :=
  .next (s.onChip (fun c => (c.postedApply f).settle))

/-- MGT_UPD_STROBE (R671). -/
def execMgtUpdStrobe (mask : BitVec 16) (s : State) : Host.Outcome State Fault Refusal :=
  .next (s.onChip (fun c => c.atFrame .mgt (·.cfgUpdate mask.toNat)))

/-- RLL_LOW_READ (R17). -/
def execRllLowRead (f : Frame) (off : BitVec 12) (s : State) : Host.Outcome State Fault Refusal :=
  .next (s.onChip (fun c => c.rllRead f off.toNat))

/-- WL_FIELD_WRITE (R676). -/
def execWlFieldWrite (f : Frame) (off : BitVec 12) (v : Word) (s : State) : Host.Outcome State Fault Refusal :=
  .next (s.onChip (fun c => c.atFrame f (·.wlWrite f off.toNat v.toNat)))

/-- ADDR_MAP_REQ_WRITE (R193). -/
def execAddrMapReqWrite (v : Word) (s : State) : Host.Outcome State Fault Refusal := .next (s.onChip (fun c => c.mapReqWrite v.toNat))

/-- PORT_RETRAIN (R68). -/
def execPortRetrain (n : PortIx) (s : State) : Host.Outcome State Fault Refusal :=
  .next (s.onChip (fun c => (c.portRetrain n.val).settle))

/-- PORT_DISABLE_WRITE (R67). -/
def execPortDisableWrite (n : PortIx) (v : Bool) (s : State) : Host.Outcome State Fault Refusal :=
  .next (s.onChip (fun c => (c.portDisable n.val v).settle))

/-- PORT_CNT_CLR (R83). -/
def execPortCntClr (n : PortIx) (s : State) : Host.Outcome State Fault Refusal := .next (s.onChip (fun c => c.portCntClr n))

/-- PORT_ADM_CLR (R140). -/
def execPortAdmClr (n : PortIx) (s : State) : Host.Outcome State Fault Refusal := .next (s.onChip (fun c => c.portAdmClr n))

/-- PORT_ORD_CLR (R184). -/
def execPortOrdClr (n : PortIx) (s : State) : Host.Outcome State Fault Refusal := .next (s.onChip (fun c => c.portOrdClr n))

/-- DCT_CLR (R260). -/
def execDctClr (k : SliceIx) (s : State) : Host.Outcome State Fault Refusal := .next (s.onChip (fun c => c.dctClr k))

/-- BWR_CLR (R306). -/
def execBwrClr (s : State) : Host.Outcome State Fault Refusal := .next (s.onChip (fun c => c.bwrClr))

/-- XBR_ARB_CLR (R308). -/
def execXbrArbClr (s : State) : Host.Outcome State Fault Refusal := .next (s.onChip (fun c => c.xbrArbClr))

/-- PRS_CLR (R346). -/
def execPrsClr (p : PressIx) (s : State) : Host.Outcome State Fault Refusal := .next (s.onChip (fun c => c.prsClr p))

/-- CHC_CLR (R393). -/
def execChcClr (k : ChcIx) (s : State) : Host.Outcome State Fault Refusal := .next (s.onChip (fun c => c.chcClr k))

/-- CHC_TRN_CLR (R439). -/
def execChcTrnClr (k : ChcIx) (s : State) : Host.Outcome State Fault Refusal := .next (s.onChip (fun c => c.chcTrnClr k))

/-- CHC_ECC_CLR (R485). -/
def execChcEccClr (k : ChcIx) (s : State) : Host.Outcome State Fault Refusal := .next (s.onChip (fun c => c.chcEccClr k))

/-- CHC_LANE_MAP_WRITE (R440). -/
def execChcLaneMapWrite (k : ChcIx) (p : PcIx) (v : Word) (s : State) : Host.Outcome State Fault Refusal :=
  .next (s.onChip (fun c => c.pulse (.chc k) (·.writeLaneMap k.val p.val v.toNat)))

/-- CHC_CAL_VAL_WRITE (R440). -/
def execChcCalValWrite (k : ChcIx) (v : Word) (s : State) : Host.Outcome State Fault Refusal :=
  .next (s.onChip (fun c => c.pulse (.chc k) (·.writeCalVal k.val v.toNat)))

/-- ERR_RING_RDPTR_WRITE (R483). -/
def execErrRingRdptrWrite (v : Word) (s : State) : Host.Outcome State Fault Refusal := .next (s.onChip (fun c => c.atFrame .err (·.ringRdptr v.toNat)))

/-- ERR_CLR (R489). -/
def execErrClr (s : State) : Host.Outcome State Fault Refusal := .next (s.onChip (fun c => c.atFrame .err (·.errClr)))

/-- THM_CLR (R519). -/
def execThmClr (s : State) : Host.Outcome State Fault Refusal := .next (s.onChip (fun c => c.atFrame .thm (·.thmClr)))

/-- BST_TEST_MODE_ENTER (R549). -/
def execBstTestModeEnter (s : State) : Host.Outcome State Fault Refusal := .next (s.onChip (fun c => c.atFrame .bst (·.enterTestMode)))

/-- BST_CLR (R560). -/
def execBstClr (s : State) : Host.Outcome State Fault Refusal := .next (s.onChip (fun c => c.atFrame .bst (·.bstClr)))

/-- FUS_LOCK_SET (R608). -/
def execFusLockSet (v : Word) (s : State) : Host.Outcome State Fault Refusal := .next (s.onChip (fun c => c.atFrame .fus (·.fusLockSet v.toNat)))

/-- FUS_CLR (R637). -/
def execFusClr (s : State) : Host.Outcome State Fault Refusal := .next (s.onChip (fun c => c.atFrame .fus (·.fusClr)))

/-- NVM_CLR (R638). -/
def execNvmClr (s : State) : Host.Outcome State Fault Refusal := .next (s.onChip (fun c => c.atFrame .nvm (·.nvmClr)))

/-- FLT_ACK (R569). -/
def execFltAck (k : Fin 8) (v : Word) (s : State) : Host.Outcome State Fault Refusal := .next (s.onChip (fun c => c.atFrame .flt (·.fltAck k.val v.toNat)))

/-- FLT_FIRST_CLR (R576). -/
def execFltFirstClr (s : State) : Host.Outcome State Fault Refusal := .next (s.onChip (fun c => c.atFrame .flt (·.fltFirstClr)))

/-- FLT_CONSEQ_CLR (R596). -/
def execFltConseqClr (s : State) : Host.Outcome State Fault Refusal := .next (s.onChip (fun c => c.atFrame .flt (·.fltConseqClr)))

/-- FLT_CLR (R597). -/
def execFltClr (s : State) : Host.Outcome State Fault Refusal := .next (s.onChip (fun c => c.atFrame .flt (·.fltClr)))

/-- REGISTER_WRITE (R17). -/
def execRegisterWrite (f : Frame) (off : BitVec 12) (v : Word) (s : State) : Host.Outcome State Fault Refusal :=
  .next (s.onChip (fun c => (c.atFrame f (·.writeOff f off.toNat v.toNat)).settle))

end Sys2Proof.Machine
end

