-- ==== Sys2Proof/Machine/Dispatch.lean ====
section
/-! DEFINITION. The effect of every command on everything but the queue: one arm for each row of the table. -/

namespace Sys2Proof.Machine

/-- A command acts. -/
def exec (i : Instr) (s : State) : Host.Outcome State Fault Refusal :=
  match i with
  | .pwrgdRise => Sys2Proof.Machine.execPwrgdRise s
  | .pwrgdFall => Sys2Proof.Machine.execPwrgdFall s
  | .resetNFall lowNs => Sys2Proof.Machine.execResetNFall lowNs s
  | .resetNRise straps stable => Sys2Proof.Machine.execResetNRise straps stable s
  | .keeperSettleEnd => Sys2Proof.Machine.execKeeperSettleEnd s
  | .pllLock => Sys2Proof.Machine.execPllLock s
  | .pllLockTimeout a b => Sys2Proof.Machine.execPllLockTimeout a b s
  | .pllLockLoss b => Sys2Proof.Machine.execPllLockLoss b s
  | .refclkLost => Sys2Proof.Machine.execRefclkLost s
  | .shadowReload => Sys2Proof.Machine.execShadowReload s
  | .bootLbistEnd block run v0 v1 ok => Sys2Proof.Machine.execBootLbistEnd block run v0 v1 ok s
  | .pcTrainingEnd k p at8 at4 => Sys2Proof.Machine.execPcTrainingEnd k p at8 at4 s
  | .linkTrainDeadline => Sys2Proof.Machine.execLinkTrainDeadline s
  | .mapWaitTimeout => Sys2Proof.Machine.execMapWaitTimeout s
  | .bootStep10 => Sys2Proof.Machine.execBootStep10 s
  | .ready => Sys2Proof.Machine.execReady s
  | .safeSidebandInit => Sys2Proof.Machine.execSafeSidebandInit s
  | .sbInit n => Sys2Proof.Machine.execSbInit n s
  | .linkTrainStepEnd n res => Sys2Proof.Machine.execLinkTrainStepEnd n res s
  | .initialCreditGrant n => Sys2Proof.Machine.execInitialCreditGrant n s
  | .hostRetrainRequest n => Sys2Proof.Machine.execHostRetrainRequest n s
  | .replayLimitRetrain n => Sys2Proof.Machine.execReplayLimitRetrain n s
  | .hostLinkDisable n => Sys2Proof.Machine.execHostLinkDisable n s
  | .adapterLinkError n => Sys2Proof.Machine.execAdapterLinkError n s
  | .fwdClkLost n => Sys2Proof.Machine.execFwdClkLost n s
  | .powerStateRequest n => Sys2Proof.Machine.execPowerStateRequest n s
  | .sidebandRegAccess n standard addr => Sys2Proof.Machine.execSidebandRegAccess n standard addr s
  | .flitCrcError n => Sys2Proof.Machine.execFlitCrcError n s
  | .pad n => Sys2Proof.Machine.execPad n s
  | .reservedOp n code hdr => Sys2Proof.Machine.execReservedOp n code hdr s
  | .rd n hdr err => Sys2Proof.Machine.execRd n hdr err s
  | .wr n hdr payload trailer => Sys2Proof.Machine.execWr n hdr payload trailer s
  | .wrMasked n hdr payload trailer => Sys2Proof.Machine.execWrMasked n hdr payload trailer s
  | .atom n hdr payload trailer => Sys2Proof.Machine.execAtom n hdr payload trailer s
  | .accum n hdr payload trailer => Sys2Proof.Machine.execAccum n hdr payload trailer s
  | .fill n hdr payload => Sys2Proof.Machine.execFill n hdr payload s
  | .copy n hdr payload => Sys2Proof.Machine.execCopy n hdr payload s
  | .rangeCrc n hdr payload => Sys2Proof.Machine.execRangeCrc n hdr payload s
  | .jobStatus n hdr payload => Sys2Proof.Machine.execJobStatus n hdr payload s
  | .jobCancel n hdr payload => Sys2Proof.Machine.execJobCancel n hdr payload s
  | .fence n hdr => Sys2Proof.Machine.execFence n hdr s
  | .flush n hdr => Sys2Proof.Machine.execFlush n hdr s
  | .mgmtCmd n hdr payload => Sys2Proof.Machine.execMgmtCmd n hdr payload s
  | .nopCredit n hdr => Sys2Proof.Machine.execNopCredit n hdr s
  | .rspSpaceReserve n => Sys2Proof.Machine.execRspSpaceReserve n s
  | .jobContextGrant p => Sys2Proof.Machine.execJobContextGrant p s
  | .orderedRelease n tag => Sys2Proof.Machine.execOrderedRelease n tag s
  | .fenceComplete n tag => Sys2Proof.Machine.execFenceComplete n tag s
  | .requestComplete n tag => Sys2Proof.Machine.execRequestComplete n tag s
  | .responseHandoff n => Sys2Proof.Machine.execResponseHandoff n s
  | .creditGrantTimer n => Sys2Proof.Machine.execCreditGrantTimer n s
  | .xbrPacketAccept vc dst => Sys2Proof.Machine.execXbrPacketAccept vc dst s
  | .sliceRequest k err => Sys2Proof.Machine.execSliceRequest k err s
  | .conflictQueueRetry k j => Sys2Proof.Machine.execConflictQueueRetry k j s
  | .evictionBufferFree k j => Sys2Proof.Machine.execEvictionBufferFree k j s
  | .fillReturn k => Sys2Proof.Machine.execFillReturn k s
  | .lineLockGrant k => Sys2Proof.Machine.execLineLockGrant k s
  | .lineLockRelease k owner => Sys2Proof.Machine.execLineLockRelease k owner s
  | .flushWalkStep k => Sys2Proof.Machine.execFlushWalkStep k s
  | .flushComplete n tag => Sys2Proof.Machine.execFlushComplete n tag s
  | .sliceDrain k => Sys2Proof.Machine.execSliceDrain k s
  | .sliceDrainEnd k => Sys2Proof.Machine.execSliceDrainEnd k s
  | .pcFence k p => Sys2Proof.Machine.execPcFence k p s
  | .commandEnqueue k p => Sys2Proof.Machine.execCommandEnqueue k p s
  | .dramCommandIssue k p busy => Sys2Proof.Machine.execDramCommandIssue k p busy s
  | .idleClose k p bank => Sys2Proof.Machine.execIdleClose k p bank s
  | .readBurstReturn k p noise => Sys2Proof.Machine.execReadBurstReturn k p noise s
  | .retryEntryRetire k p => Sys2Proof.Machine.execRetryEntryRetire k p s
  | .refreshTick => Sys2Proof.Machine.execRefreshTick s
  | .refabOpportunistic k p => Sys2Proof.Machine.execRefabOpportunistic k p s
  | .refabIssue k p => Sys2Proof.Machine.execRefabIssue k p s
  | .refreshEnd k p => Sys2Proof.Machine.execRefreshEnd k p s
  | .bandChange k p => Sys2Proof.Machine.execBandChange k p s
  | .refreshPaymentEnd k p => Sys2Proof.Machine.execRefreshPaymentEnd k p s
  | .alertRise k recv => Sys2Proof.Machine.execAlertRise k recv s
  | .replayEnd k p => Sys2Proof.Machine.execReplayEnd k p s
  | .retrainEnd k r0 r1 => Sys2Proof.Machine.execRetrainEnd k r0 r1 s
  | .rescueTrainEnd k p a => Sys2Proof.Machine.execRescueTrainEnd k p a s
  | .rescueRackDone k p => Sys2Proof.Machine.execRescueRackDone k p s
  | .trnStart k v => Sys2Proof.Machine.execTrnStart k v s
  | .trnRunEnd k recv => Sys2Proof.Machine.execTrnRunEnd k recv s
  | .calPassStart k p => Sys2Proof.Machine.execCalPassStart k p s
  | .monitorWindowEnd k p wr stats => Sys2Proof.Machine.execMonitorWindowEnd k p wr stats s
  | .calLowTraffic k p => Sys2Proof.Machine.execCalLowTraffic k p s
  | .calSkipped k p => Sys2Proof.Machine.execCalSkipped k p s
  | .scrubRow d => Sys2Proof.Machine.execScrubRow d s
  | .rackRow p d => Sys2Proof.Machine.execRackRow p d s
  | .chunkBoundary p => Sys2Proof.Machine.execChunkBoundary p s
  | .chunkComplete p => Sys2Proof.Machine.execChunkComplete p s
  | .granuleDataArrive p => Sys2Proof.Machine.execGranuleDataArrive p s
  | .agePromotion what => Sys2Proof.Machine.execAgePromotion what s
  | .budgetWindowBoundary => Sys2Proof.Machine.execBudgetWindowBoundary s
  | .thmSample zone => Sys2Proof.Machine.execThmSample zone s
  | .thmEvaluation zone readings => Sys2Proof.Machine.execThmEvaluation zone readings s
  | .keeperSample readings => Sys2Proof.Machine.execKeeperSample readings s
  | .shutdownGraceEnd => Sys2Proof.Machine.execShutdownGraceEnd s
  | .rearmRelease => Sys2Proof.Machine.execRearmRelease s
  | .errorLineCapture blocks hw => Sys2Proof.Machine.execErrorLineCapture blocks hw s
  | .eventFetch fetch => Sys2Proof.Machine.execEventFetch fetch s
  | .blankingWindowClose => Sys2Proof.Machine.execBlankingWindowClose s
  | .aliveToggle => Sys2Proof.Machine.execAliveToggle s
  | .mgtWdog => Sys2Proof.Machine.execMgtWdog s
  | .mgtResetEnd => Sys2Proof.Machine.execMgtResetEnd s
  | .sbiMgtTimeout i3c => Sys2Proof.Machine.execSbiMgtTimeout i3c s
  | .sidebandSegment n index last data => Sys2Proof.Machine.execSidebandSegment n index last data s
  | .i3cPrivateWrite bytes => Sys2Proof.Machine.execI3cPrivateWrite bytes s
  | .i3cPrivateRead count => Sys2Proof.Machine.execI3cPrivateRead count s
  | .i3cCcc x => Sys2Proof.Machine.execI3cCcc x s
  | .i3cIbiRequest => Sys2Proof.Machine.execI3cIbiRequest s
  | .hotJoinRequest => Sys2Proof.Machine.execHotJoinRequest s
  | .regaccUpdate v => Sys2Proof.Machine.execRegaccUpdate v s
  | .bootstatCapture => Sys2Proof.Machine.execBootstatCapture s
  | .regRead via => Sys2Proof.Machine.execRegRead via s
  | .regWrite via => Sys2Proof.Machine.execRegWrite via s
  | .getInfo via => Sys2Proof.Machine.execGetInfo via s
  | .train via => Sys2Proof.Machine.execTrain via s
  | .calibrate via => Sys2Proof.Machine.execCalibrate via s
  | .calStore via => Sys2Proof.Machine.execCalStore via s
  | .runBist via ok => Sys2Proof.Machine.execRunBist via ok s
  | .quiesce via => Sys2Proof.Machine.execQuiesce via s
  | .quiesceComplete => Sys2Proof.Machine.execQuiesceComplete s
  | .bistPhaseEnd run v0 v1 => Sys2Proof.Machine.execBistPhaseEnd run v0 v1 s
  | .resume via => Sys2Proof.Machine.execResume via s
  | .retireRow via => Sys2Proof.Machine.execRetireRow via s
  | .retireBank via => Sys2Proof.Machine.execRetireBank via s
  | .readLog via => Sys2Proof.Machine.execReadLog via s
  | .fuseProgram via => Sys2Proof.Machine.execFuseProgram via s
  | .fuseSeal via => Sys2Proof.Machine.execFuseSeal via s
  | .fusePulseEnd normal strict => Sys2Proof.Machine.execFusePulseEnd normal strict s
  | .fuseRead via => Sys2Proof.Machine.execFuseRead via s
  | .nvmRead via => Sys2Proof.Machine.execNvmRead via s
  | .nvmWrite via => Sys2Proof.Machine.execNvmWrite via s
  | .setThermal via => Sys2Proof.Machine.execSetThermal via s
  | .commitGuarantees via => Sys2Proof.Machine.execCommitGuarantees via s
  | .setWindow via => Sys2Proof.Machine.execSetWindow via s
  | .capacity via => Sys2Proof.Machine.execCapacity via s
  | .reservedCmd via code => Sys2Proof.Machine.execReservedCmd via code s
  | .credHoldoffEnd => Sys2Proof.Machine.execCredHoldoffEnd s
  | .nvmRecordWriteEnd readsBack => Sys2Proof.Machine.execNvmRecordWriteEnd readsBack s
  | .lifeCounterSecond => Sys2Proof.Machine.execLifeCounterSecond s
  | .actHistWindow => Sys2Proof.Machine.execActHistWindow s
  | .counterFlush => Sys2Proof.Machine.execCounterFlush s
  | .postedWriteApply f => Sys2Proof.Machine.execPostedWriteApply f s
  | .mgtUpdStrobe mask => Sys2Proof.Machine.execMgtUpdStrobe mask s
  | .rllLowRead f off => Sys2Proof.Machine.execRllLowRead f off s
  | .wlFieldWrite f off v => Sys2Proof.Machine.execWlFieldWrite f off v s
  | .addrMapReqWrite v => Sys2Proof.Machine.execAddrMapReqWrite v s
  | .portRetrain n => Sys2Proof.Machine.execPortRetrain n s
  | .portDisableWrite n v => Sys2Proof.Machine.execPortDisableWrite n v s
  | .portCntClr n => Sys2Proof.Machine.execPortCntClr n s
  | .portAdmClr n => Sys2Proof.Machine.execPortAdmClr n s
  | .portOrdClr n => Sys2Proof.Machine.execPortOrdClr n s
  | .dctClr k => Sys2Proof.Machine.execDctClr k s
  | .bwrClr => Sys2Proof.Machine.execBwrClr s
  | .xbrArbClr => Sys2Proof.Machine.execXbrArbClr s
  | .prsClr p => Sys2Proof.Machine.execPrsClr p s
  | .chcClr k => Sys2Proof.Machine.execChcClr k s
  | .chcTrnClr k => Sys2Proof.Machine.execChcTrnClr k s
  | .chcEccClr k => Sys2Proof.Machine.execChcEccClr k s
  | .chcLaneMapWrite k p v => Sys2Proof.Machine.execChcLaneMapWrite k p v s
  | .chcCalValWrite k v => Sys2Proof.Machine.execChcCalValWrite k v s
  | .errRingRdptrWrite v => Sys2Proof.Machine.execErrRingRdptrWrite v s
  | .errClr => Sys2Proof.Machine.execErrClr s
  | .thmClr => Sys2Proof.Machine.execThmClr s
  | .bstTestModeEnter => Sys2Proof.Machine.execBstTestModeEnter s
  | .bstClr => Sys2Proof.Machine.execBstClr s
  | .fusLockSet v => Sys2Proof.Machine.execFusLockSet v s
  | .fusClr => Sys2Proof.Machine.execFusClr s
  | .nvmClr => Sys2Proof.Machine.execNvmClr s
  | .fltAck k v => Sys2Proof.Machine.execFltAck k v s
  | .fltFirstClr => Sys2Proof.Machine.execFltFirstClr s
  | .fltConseqClr => Sys2Proof.Machine.execFltConseqClr s
  | .fltClr => Sys2Proof.Machine.execFltClr s
  | .registerWrite f off v => Sys2Proof.Machine.execRegisterWrite f off v s
  | .flitReplay n again => Sys2Proof.Machine.execFlitReplay n again s
  | .flitBoundary n => Sys2Proof.Machine.execFlitBoundary n s
  | .vprogLevelChange vprogOk keepOk => Sys2Proof.Machine.execVprogLevelChange vprogOk keepOk s
  | .railOutOfRange => Sys2Proof.Machine.execRailOutOfRange s

end Sys2Proof.Machine
end

