-- ==== Sys2Proof/WellFormed.lean ====
section
/-! DEFINITION. What a command's operands must keep to be an event of the block: a payload of the length its header gives, results
that name each lane, symbol or block once, no more readings than there are sensors, and parameters within the packet's limit. `exec`
is total and gives other operands a meaning too. -/

namespace Sys2Proof

open Sys2Proof.Machine

/-- Whether no element occurs twice. -/
def distinct {α : Type} [BEq α] : List α → Bool
  | [] => true
  | x :: t => !t.contains x && distinct t

/-- The codes that R100 lists, PAD among them; every other is reserved. -/
def opCodes : List Nat := [0x00, 0x01, 0x02, 0x03, 0x08, 0x09, 0x10, 0x11, 0x12, 0x13, 0x14, 0x18, 0x19, 0x20, 0x3F]

/-- A group names each lane that differs once (R408, R417). -/
def LaneSet.wf (s : LaneSet) : Bool := distinct (s.except.map (·.1))
def NearSet.wf (s : NearSet) : Bool := distinct (s.except.map (·.1))

/-- What a training or a retraining meets names each lane of a group once. -/
def TrainAttempt.wf (a : TrainAttempt) : Bool := a.cmd.wf && a.rd.wf && a.wr.wf
def RetrainAttempt.wf (a : RetrainAttempt) : Bool := a.cmd.wf && a.rd.wf && a.wr.wf

/-- A link step repairs no lane twice in a direction (R71). -/
def LinkStepRes.wf : LinkStepRes → Bool
  | .done tx rx _ => distinct tx && distinct rx
  | .failed => true

/-- A window has 2^20 beats of each lane, of which some disagree, some follow a transition and some are ones (R426). -/
def MonLane.wf (m : MonLane) : Bool := m.d ≤ 2 ^ 20 && m.t ≤ 2 ^ 20 && m.n ≤ 2 ^ 20

/-- An order of Ilael's own has at most the 480 parameter bytes of a packet (R643). -/
def Via.wf : Via → Bool
  | .ilael params => params.length ≤ 480
  | .inband _ | .sideband | .i3c | .jtag => true

/-- Whether the row takes a packet that waits on a path. -/
def Via.queued : Via → Bool
  | .ilael _ => false
  | .inband _ | .sideband | .i3c | .jtag => true

/-- Whether a command is an event that the manual describes. -/
def Instr.wf : Instr → Bool
  | .pwrgdRise => true
  | .pwrgdFall => true
  | .resetNFall _ => true
  | .resetNRise _ _ => true
  | .keeperSettleEnd => true
  | .pllLock => true
  | .pllLockTimeout _ _ => true
  | .pllLockLoss _ => true
  | .refclkLost => true
  | .shadowReload => true
  | .bootLbistEnd _ _ _ _ _ => true
  | .pcTrainingEnd _ _ at8 at4 => at8.wf && at4.wf
  | .linkTrainDeadline => true
  | .mapWaitTimeout => true
  | .bootStep10 => true
  | .ready => true
  | .safeSidebandInit => true
  | .sbInit _ => true
  | .linkTrainStepEnd _ res => res.wf
  | .initialCreditGrant _ => true
  | .hostRetrainRequest _ => true
  | .replayLimitRetrain _ => true
  | .hostLinkDisable _ => true
  | .adapterLinkError _ => true
  | .fwdClkLost _ => true
  | .powerStateRequest _ => true
  | .sidebandRegAccess _ _ _ => true
  | .flitCrcError _ => true
  | .pad _ => true
  | .reservedOp _ code _ => !opCodes.contains code.toNat
  | .rd _ _ _ => true
  | .wr _ hdr payload _ => payload.length == payloadLen .wr hdr
  | .wrMasked _ hdr payload _ => payload.length == payloadLen .wrMasked hdr
  | .atom _ hdr payload _ => payload.length == payloadLen .atom hdr
  | .accum _ hdr payload _ => payload.length == payloadLen .accum hdr
  | .fill _ hdr payload => payload.length == payloadLen .fill hdr
  | .copy _ hdr payload => payload.length == payloadLen .copy hdr
  | .rangeCrc _ hdr payload => payload.length == payloadLen .rangeCrc hdr
  | .jobStatus _ hdr payload => payload.length == payloadLen .jobStatus hdr
  | .jobCancel _ hdr payload => payload.length == payloadLen .jobCancel hdr
  | .fence _ _ => true
  | .flush _ _ => true
  | .mgmtCmd _ hdr payload => payload.length == payloadLen .mgmtCmd hdr
  | .nopCredit _ _ => true
  | .rspSpaceReserve _ => true
  | .jobContextGrant _ => true
  | .orderedRelease _ _ => true
  | .fenceComplete _ _ => true
  | .requestComplete _ _ => true
  | .responseHandoff _ => true
  | .creditGrantTimer _ => true
  | .xbrPacketAccept _ _ => true
  | .sliceRequest _ _ => true
  | .conflictQueueRetry _ _ => true
  | .evictionBufferFree _ _ => true
  | .fillReturn _ => true
  | .lineLockGrant _ => true
  | .lineLockRelease _ _ => true
  | .flushWalkStep _ => true
  | .flushComplete _ _ => true
  | .sliceDrain _ => true
  | .sliceDrainEnd _ => true
  | .pcFence _ _ => true
  | .commandEnqueue _ _ => true
  | .dramCommandIssue _ _ busy => distinct busy
  | .idleClose _ _ _ => true
  | .readBurstReturn _ _ noise => distinct (noise.map (·.1))
  | .retryEntryRetire _ _ => true
  | .refreshTick => true
  | .refabOpportunistic _ _ => true
  | .refabIssue _ _ => true
  | .refreshEnd _ _ => true
  | .bandChange _ _ => true
  | .refreshPaymentEnd _ _ => true
  | .alertRise _ recv => recv.fails
  | .replayEnd _ _ => true
  | .retrainEnd _ r0 r1 => r0.wf && r1.wf
  | .rescueTrainEnd _ _ a => a.wf
  | .rescueRackDone _ _ => true
  | .trnStart _ _ => true
  | .trnRunEnd _ recv => distinct (recv.map (fun x => (x.1, x.2.1)))
  | .calPassStart _ _ => true
  | .monitorWindowEnd _ _ _ stats => distinct (stats.map (·.1)) && stats.all (·.2.wf)
  | .calLowTraffic _ _ => true
  | .calSkipped _ _ => true
  | .scrubRow _ => true
  | .rackRow _ _ => true
  | .chunkBoundary _ => true
  | .chunkComplete _ => true
  | .granuleDataArrive _ => true
  | .agePromotion _ => true
  | .budgetWindowBoundary => true
  | .thmSample _ => true
  | .thmEvaluation zone readings => readings.length ≤ (zoneSensors zone.val).length
  | .keeperSample readings => readings.length ≤ 52
  | .shutdownGraceEnd => true
  | .rearmRelease => true
  | .errorLineCapture blocks _ => distinct blocks
  | .eventFetch _ => true
  | .blankingWindowClose => true
  | .aliveToggle => true
  | .mgtWdog => true
  | .mgtResetEnd => true
  | .sbiMgtTimeout _ => true
  | .sidebandSegment _ _ _ _ => true
  | .i3cPrivateWrite bytes => bytes.length ≤ 512
  | .i3cPrivateRead _ => true
  | .i3cCcc _ => true
  | .i3cIbiRequest => true
  | .hotJoinRequest => true
  | .regaccUpdate _ => true
  | .bootstatCapture => true
  | .regRead via => via.wf
  | .regWrite via => via.wf
  | .getInfo via => via.wf
  | .train via => via.wf
  | .calibrate via => via.wf
  | .calStore via => via.wf
  | .runBist via _ => via.wf
  | .quiesce via => via.wf
  | .quiesceComplete => true
  | .bistPhaseEnd _ _ _ => true
  | .resume via => via.wf
  | .retireRow via => via.wf
  | .retireBank via => via.wf
  | .readLog via => via.wf
  | .fuseProgram via => via.wf
  | .fuseSeal via => via.wf
  | .fusePulseEnd _ _ => true
  | .fuseRead via => via.wf
  | .nvmRead via => via.wf
  | .nvmWrite via => via.wf
  | .setThermal via => via.wf
  | .commitGuarantees via => via.wf
  | .setWindow via => via.wf
  | .capacity via => via.wf
  | .reservedCmd via code => via.wf && (via.queued || reservedCode code.toNat)
  | .credHoldoffEnd => true
  | .nvmRecordWriteEnd _ => true
  | .lifeCounterSecond => true
  | .actHistWindow => true
  | .counterFlush => true
  | .postedWriteApply _ => true
  | .mgtUpdStrobe _ => true
  | .rllLowRead _ off => off.toNat % 4 == 0
  | .wlFieldWrite _ off _ => off.toNat % 4 == 0
  | .addrMapReqWrite _ => true
  | .portRetrain _ => true
  | .portDisableWrite _ _ => true
  | .portCntClr _ => true
  | .portAdmClr _ => true
  | .portOrdClr _ => true
  | .dctClr _ => true
  | .bwrClr => true
  | .xbrArbClr => true
  | .prsClr _ => true
  | .chcClr _ => true
  | .chcTrnClr _ => true
  | .chcEccClr _ => true
  | .chcLaneMapWrite _ _ _ => true
  | .chcCalValWrite _ _ => true
  | .errRingRdptrWrite _ => true
  | .errClr => true
  | .thmClr => true
  | .bstTestModeEnter => true
  | .bstClr => true
  | .fusLockSet _ => true
  | .fusClr => true
  | .nvmClr => true
  | .fltAck _ _ => true
  | .fltFirstClr => true
  | .fltConseqClr => true
  | .fltClr => true
  | .registerWrite _ off _ => off.toNat % 4 == 0
  | .flitReplay _ _ => true
  | .flitBoundary _ => true
  | .vprogLevelChange _ _ => true
  | .railOutOfRange => true

end Sys2Proof
end

