-- ==== Sys2Proof/Safety.lean ====
section
/-! DEFINITION. What the statements about the block are said with: the invariant of the core-die cells, the order of the fuse array,
and the states in which an event sets nothing else going. -/

namespace Sys2Proof.Machine

/-- The cells of the core dies are in their canonical form. -/
def State.MemOk (s : State) : Prop := Memory.wf s.epoch s.mem = true

/-- Each of the two fuses of bit `i` reads 1 in `b` at the normal and at the strict reference wherever it does in `a`. -/
def FuseWord.KeepsBit (a b : FuseWord) (i : Nat) : Prop :=
  (a.n0.testBit i → b.n0.testBit i) ∧ (a.s0.testBit i → b.s0.testBit i) ∧
  (a.n1.testBit i → b.n1.testBit i) ∧ (a.s1.testBit i → b.s1.testBit i)

/-- The events that cut a pulse or a record write short (R517, R616, R694). -/
def cutsShort : Instr → Bool
  | .pwrgdFall | .resetNFall _ | .shutdownGraceEnd | .railOutOfRange => true
  | _ => false

/-- Whether a long command goes on only by events of its own: RUN_BIST, QUIESCE and FUSE do. -/
def LongJob.still : LongJob → Bool
  | .bist _ | .quiesce _ | .fuse => true
  | .train .. | .calibrate .. | .calStore .. | .nvmWrite _ => false

/-- Whether a field test goes on only by events of its own: no escalation has stopped it, and it does not bring a reserve controller
towards its edge. -/
def FieldTest.still (t : FieldTest) : Bool :=
  !t.abort && (match fieldKind t.block with | some (.reserve _) => t.phase != 1 | _ => true)

/-- Whether a pseudo-channel goes on only by events of its own: it is not in step 2 of a rescue, and its calibration pass, if it runs one,
may go on or has stopped. -/
def Pc.still (pc : Pc) (t : TestState) : Bool :=
  !(pc.state == .rescue && pc.rescueStep == 2) && pc.cal.all (fun x => x.stopped || (pc.state == .normal && !pc.replaying && t == .normal))

/-- Whether a channel controller goes on only by events of its own: both its pseudo-channels do, and its compare run, if it has one, may go
on. -/
def Chc.still (h : Chc) : Bool :=
  (h.pc 0).still h.test && (h.pc 1).still h.test && (!h.trnBusy || (h.pc (natBits h.runCtl 4 1)).mayCompare)

/-- Nothing waits that any event at all sets going (what `Chip.settle` looks at, but for the end of boot step 9): no management packet
stands before MGT, a long command or a field test in progress goes on only by events of its own, no shadow of a port or channel
waits for its update, no slice drains, and every channel controller goes on only by events of its own. -/
structure Chip.Calm (c : Chip) : Prop where
  buf    : c.mgt.buf = []
  sbWait : c.mgt.sbWait = []
  long   : ∀ l, c.mgt.long = some l → l.job.still = true
  field  : ∀ t, c.boot.field = some t → t.still = true
  ports  : ∀ n, n < 32 → (c.port n).cfg.dirty = false
  chans  : ∀ k, k < 72 → c.channelDirty k = false
  slices : ∀ s, (c.slice s).mode ≠ .draining
  chcs   : ∀ k, (c.chc k).still = true

/-- The request that a request command brings to a port: opcode, header, payload and trailer as received, and what a prompt lookup
would meet. A word whose opcode bits are 0 is PAD and brings none (R87). -/
def asRequest : Instr → Option (PortIx × Op × ReqHdr × List Byte × Word × Lookup)
  | .reservedOp n code h => if code = 0 then none else some (n, .reserved code, h, [], 0, {})
  | .rd n h look => some (n, .rd, h, [], 0, look)
  | .wr n h pl tr => some (n, .wr, h, pl, tr, {})
  | .wrMasked n h pl tr => some (n, .wrMasked, h, pl, tr, {})
  | .atom n h pl tr => some (n, .atom, h, pl, tr, {})
  | .accum n h pl tr => some (n, .accum, h, pl, tr, {})
  | .fill n h pl => some (n, .fill, h, pl, 0, {})
  | .copy n h pl => some (n, .copy, h, pl, 0, {})
  | .rangeCrc n h pl => some (n, .rangeCrc, h, pl, 0, {})
  | .jobStatus n h pl => some (n, .jobStatus, h, pl, 0, {})
  | .jobCancel n h pl => some (n, .jobCancel, h, pl, 0, {})
  | .fence n h => some (n, .fence, h, [], 0, {})
  | .flush n h => some (n, .flush, h, [], 0, {})
  | .mgmtCmd n h pl => some (n, .mgmtCmd, h, pl, 0, {})
  | .nopCredit n h => some (n, .nopCredit, h, [], 0, {})
  | _ => none

/-- A request as admission takes it: its payload has the length its header gives (R716). -/
def rxOf (op : Op) (h : ReqHdr) (pl : List Byte) (tr : Word) (look : Lookup) : RxReq :=
  ⟨op, h, padBytes (payloadLen op h) pl, tr, look⟩

/-- A port is open for a request of the REQ virtual channel: it transmits and has given its grants, the host holds the request's
REQ units, and nothing waits at admission before it (R124, R129-R134). -/
structure Chip.Open (c : Chip) (n : Nat) (op : Op) (h : ReqHdr) : Prop where
  live  : c.live = true
  send  : (c.port n).canSend = true
  units : (reqCost op h : Int) ≤ (c.port n).heldReq
  free  : (c.port n).stuck = false
  empty : (c.port n).rxq = []

/-- A request passes checks 1 to 8 of admission: its form is good and its TAG free, its end-to-end check is not made or passes, it may
access what it names, its sequence number is the one expected, and the port has RSP space for its response (R131). -/
structure Chip.Admits (c : Chip) (n : Nat) (q : RxReq) : Prop extends c.Open n q.op q.hdr where
  form   : (c.port n).badOp q = none
  e2e    : hasTrailer q.op q.hdr = true → (c.port n).e2eEn = true → e2eGood (c.port n).e2ePoly q = true
  access : c.checkAccess n q = none
  seq    : (c.port n).seqOk q = true
  space  : rspCost q.op q.hdr ≤ (c.port n).rspFree

/-- Port `n` answers a request at admission: the response joins those that wait for hand-off, under the request's TAG and SEQ, and the
request is not among those admitted. -/
def Answered (s t : State) (n : Nat) (op : Op) (h : ReqHdr) (st : Status) (arg : Nat) : Prop :=
  (t.chip.port n).reqs = (s.chip.port n).reqs ∧
  ∃ x : TxRsp, (t.chip.port n).txq = (s.chip.port n).txq ++ [x] ∧ x.op = op ∧ x.hdr = h ∧ x.status = st ∧ x.arg = arg ∧
    x.data = [] ∧ x.e2e = false

/-- Of the units that requests pass through, and of the cells, fuses and records, nothing but port `n` differs. -/
def OnlyPort (s t : State) (n : Nat) : Prop :=
  (∀ m, m ≠ n → t.chip.port m = s.chip.port m) ∧ t.chip.slices = s.chip.slices ∧ t.chip.presses = s.chip.presses ∧
  t.chip.chcs = s.chip.chcs ∧ t.chip.xbr = s.chip.xbr ∧ t.chip.mgt = s.chip.mgt ∧ t.mem = s.mem ∧ t.fuses = s.fuses ∧ t.book = s.book

/-- No earlier request of a stream holds one: no FENCE of the stream is incomplete, and with ORDERED set no ORDERED request of it
(R155, R164). -/
def NotHeld (p : Port) (h : ReqHdr) : Prop :=
  ∀ q ∈ p.reqs, isMember q.op = true → q.streamN = h.stream.toNat → q.op ≠ .fence ∧ (h.ordered = true → q.hdr.ordered = false)

/-- A slice may serve an operation now: its bank is served, its row does not wait, and nothing holds the operation (R222, R227). -/
structure Chip.Serves (c : Chip) (o : OpSrc) : Prop where
  bank : c.served (bankIndex o.row) = true
  row  : c.rowWaits o.row = false
  free : (c.slice o.row.c).mustWait o = none

/-- A slice holds a row in its line `i`. -/
def Slice.Resident (s : Slice) (w : RowLoc) (i : Nat) (l : Line) : Prop := s.lineOf w = some (i, l) ∧ s.lines.look i = some l

/-- The path and the CMD of a management command's row. -/
def asCommand : Instr → Option (Via × Nat)
  | .regRead v => some (v, 0x01)
  | .regWrite v => some (v, 0x02)
  | .getInfo v => some (v, 0x03)
  | .train v => some (v, 0x10)
  | .calibrate v => some (v, 0x11)
  | .calStore v => some (v, 0x12)
  | .runBist v _ => some (v, 0x18)
  | .quiesce v => some (v, 0x19)
  | .resume v => some (v, 0x1A)
  | .retireRow v => some (v, 0x20)
  | .retireBank v => some (v, 0x21)
  | .readLog v => some (v, 0x22)
  | .fuseProgram v => some (v, 0x28)
  | .fuseSeal v => some (v, 0x29)
  | .fuseRead v => some (v, 0x2A)
  | .nvmRead v => some (v, 0x30)
  | .nvmWrite v => some (v, 0x31)
  | .setThermal v => some (v, 0x38)
  | .commitGuarantees v => some (v, 0x39)
  | .setWindow v => some (v, 0x3A)
  | .capacity v => some (v, 0x3B)
  | _ => none

/-- The commands of R655 that run long: one at a time. -/
def isLongCmd (cmd : Nat) : Bool := [0x10, 0x11, 0x12, 0x18, 0x19, 0x28, 0x29, 0x31].contains cmd

/-- In a block that serves, the interpreter of a CMD takes packet `m` from the path of a row, which leaves the block `c'` (R641, R655). -/
structure Chip.Takes (c : Chip) (via : Via) (cmd : Nat) (m : MgtPkt) (c' : Chip) : Prop where
  live : c.live = true
  take : c.take via cmd (· == cmd) = some (m, c')

/-- A packet taken passes the checks of R656: its form is good, it is granted at level `l`, and its interpreter is ready. -/
structure Chip.Grants (c : Chip) (via : Via) (cmd : Nat) (m : MgtPkt) (c' : Chip) (l : Nat) : Prop extends c.Takes via cmd m c' where
  form  : m.formFault = none
  grant : c.privilege m = .granted l
  ready : (isHwCmd cmd || c.ilaelReady cmd) = true

/-- From `c` to `t` the reply to packet `m` goes out on its path (R642-R650). -/
def Replied (c t : Chip) (m : MgtPkt) (rc arg : Nat) (data : List Byte) : Prop :=
  let bs := replyBytes m rc arg data
  (m.path = 0 → t.xbr.pkts = c.xbr.pkts ++
    [⟨.mgt, epMgt, m.port, .mgmtRsp m.port m.tag (if rc = 7 then .overcommit else .ok) 0 bs⟩]) ∧
  (m.path = 1 → t.mgt.sbOut = sbMsgs bs ∧ t.mgt.sbBusy = false) ∧
  (m.path = 2 → t.mgt.i3c.reply = some bs ∧ t.mgt.i3c.busy = false) ∧
  (m.path = 3 → t.mgt.jtagReg = jtagDone c.mgt.jtagReg data ∧ t.mgt.jtagBusy = false) ∧
  (m.path = 4 → t.mgt.ilaelOut = bs)

/-- The bits of a register that are fields of access code RW or RWS and that a write does no more than set; none for a register that has no
such field, or whose write does more (R17, R82, R139, R183, R257, R306, R308, R346, R393, R439, R485, R519, R560, R596, R637, R638, R677). -/
def rwMask (f : Frame) (o : Nat) : Option Nat :=
  match f, o with
  | .hpa _, 0x000 => some 0x7F
  | .hpa _, 0x080 => some 0x7FF
  | .dct _, 0x000 => some 0xF31
  | .dct _, 0x008 => some 0x7FF
  | .bwr, 0x000 => some 0x1FFF
  | .bwr, 0x010 => some 0x1F1F1F1F
  | .xbr, 0x100 => some 0x7F
  | .xbr, 0x208 => some 0x3F
  | .xbr, 0x228 => some 0xFF
  | .xbr, 0x240 => some 0x7FFF
  | .prs _, 0x000 => some 0x7F
  | .prs _, 0x008 => some 0x3F
  | .prs _, 0x040 => some 0xFF
  | .chc _, 0x000 => some 0xFF
  | .chc _, 0x004 | .chc _, 0x008 | .chc _, 0x100 | .chc _, 0x110 => some 0x1F
  | .chc _, 0x084 | .chc _, 0x088 => some 0xFFFFFFFF
  | .chc _, 0x094 => some 0x3F
  | .chc _, 0x0A0 => some 0x1F3F
  | .chc _, 0x0B0 => some 0x810F1FFF
  | .mgt, 0x04 => some 0xFFFF
  | .fus, 0x00 => some 0x3F01
  | .nvm, 0x00 => some 0xFF
  | .flt, 0x000 => some 0x3
  | .flt, 0x018 => some 0xFF
  | .err, 0x08 => some 0x3FF
  | .thm, 0x00 => some 0x0F3FFFFF
  | .thm, 0x20 => some 0x3F
  | .bst, 0x00 => some 0x1FF
  | _, _ => none

/-- From `c` to `t` nothing differs but the block of a frame; of a channel, its controller and its slice, and the mark that their update
waits for a test (R258, R673). -/
def OnlyBlock (f : Frame) (c t : Chip) : Prop :=
  match f with
  | .id | .clk | .rst => t = c
  | .mgt => t = { c with mgt := t.mgt }
  | .fus => t = { c with fus := t.fus }
  | .nvm => t = { c with nvm := t.nvm }
  | .flt => t = { c with flt := t.flt }
  | .err => t = { c with ring := t.ring }
  | .thm => t = { c with thm := t.thm }
  | .bst => t = { c with boot := t.boot }
  | .xbr => t = { c with xbr := t.xbr, addr := t.addr }
  | .bwr => t = { c with bwr := t.bwr }
  | .hpa n => t = { c with ports := t.ports } ∧ ∀ m, m ≠ n.val → t.port m = c.port m
  | .prs p => t = { c with presses := t.presses } ∧ ∀ q, q ≠ p.val → t.press q = c.press q
  | .chc ⟨k, _⟩ | .dct ⟨k, _⟩ =>
    t = { c with chcs := t.chcs, slices := t.slices, boot := { c.boot with field := t.boot.field } } ∧
    ∀ j, j ≠ k → t.chc j = c.chc j ∧ t.slice j = c.slice j

/-- The port of an event that touches nothing but one port. -/
def portOf : Instr → Option Nat
  | .flitCrcError n | .flitReplay n _ | .flitBoundary n | .initialCreditGrant n | .creditGrantTimer n => some n.val
  | .pad n | .powerStateRequest n | .portCntClr n | .portAdmClr n | .portOrdClr n => some n.val
  | _ => none

/-- The channel controller of an event that touches nothing but one channel controller. -/
def channelOf : Instr → Option Nat
  | .dramCommandIssue k _ _ | .idleClose k _ _ | .trnStart k _ | .trnRunEnd k _ | .calPassStart k _ => some k.val
  | .chcClr k | .chcTrnClr k | .chcEccClr k | .chcLaneMapWrite k _ _ | .chcCalValWrite k _ => some k.val
  | _ => none

/-- The events that touch nothing but FLT. -/
def isFltEvent : Instr → Bool
  | .blankingWindowClose | .aliveToggle | .fltAck _ _ | .fltFirstClr | .fltConseqClr | .fltClr => true
  | _ => false

/-- The events that touch nothing but MGT and the SBI. -/
def isMgtEvent : Instr → Bool
  | .i3cPrivateRead _ | .i3cCcc _ | .i3cIbiRequest | .hotJoinRequest | .bootstatCapture | .credHoldoffEnd | .sidebandRegAccess _ _ _ => true
  | _ => false

/-- The events that touch nothing but THM, NVM's counters, or FUS's registers. -/
def isThmEvent : Instr → Bool
  | .thmSample _ | .thmClr => true
  | _ => false
def isNvmEvent : Instr → Bool
  | .lifeCounterSecond | .counterFlush | .nvmClr => true
  | _ => false
def isFusEvent : Instr → Bool
  | .vprogLevelChange _ _ | .fusLockSet _ | .fusClr => true
  | _ => false

end Sys2Proof.Machine
end

