-- ==== Sys2Proof/Certificates/Slice0/Obligations.lean ====
section
/-! DEFINITION. The statements about the block, for the provers: what its commands do, what no command can do, and where each command
completes. `s.chip` is the state but for the cells, the fuses and the cellar book. -/

open Sys2Proof Sys2Proof.Machine

/-! ### The step, the cells, the fuses -/

/-- A step of a state with a command at the front of its queue is that command's effect on the state with the queue's rest, and on an empty
queue the block idles. Rules: 16_management_commands_and_register_rules. -/
def Obligations.StepRunsFrontCommand : Prop :=
  (∀ (i : Instr) (s : State), step { s with pending := i :: s.pending } = exec i s) ∧
  (∀ s : State, s.pending = [] → step s = .next s)

/-- Every command answers a next state, from every state and with every operand; it leaves the queue as it is and keeps the canonical form
of the core-die cells. That a command whose event cannot happen in a state stands for no event there, and completes without effect, is the
model's reading (DEDUCED, log entry 21). Rules: R385, R523. -/
def Obligations.EveryCommandKeepsCells : Prop :=
  ∀ (i : Instr) (s : State), s.MemOk → ∃ t, exec i s = .next t ∧ t.pending = s.pending ∧ t.MemOk

/-- Every step keeps the canonical form of the core-die cells. Rules: R26, R28, R385. -/
def Obligations.StepKeepsCells : Prop :=
  ∀ s t : State, s.MemOk → step s = .next t → t.MemOk

/-- The state at reset has nothing pending, no cell listed and so the canonical form; the block is without power: PWRGD is low and nothing
of the main domain runs. Rules: R521, R523. -/
def Obligations.ResetState : Prop :=
  State.reset.MemOk ∧ State.reset.pending = [] ∧ State.reset.mem = [] ∧ State.reset.chip.boot.pwrgd = false ∧
  State.reset.chip.on = false ∧ State.reset.chip.live = false

/-- No step clears a fuse: wherever a fuse reads 1 at a reference before a step, it reads 1 there after it. The one exception is the bit
whose programming pulse the step cuts short, which then reads 0 or MARGINAL: at the strict reference both its fuses read 0. Rules: R599,
R612, R616. -/
def Obligations.StepNeverClearsFuse : Prop :=
  ∀ (s t : State) (w b : Nat), step s = .next t →
    let before := Tab.get ({} : FuseWord) s.fuses w
    let after := Tab.get ({} : FuseWord) t.fuses w
    before.KeepsBit after b ∨
    ((∃ i rest m, s.pending = i :: rest ∧ cutsShort i = true ∧ s.chip.fus.cmd = some m ∧ m.word = w ∧ m.bit = some b) ∧
      after.s0.testBit b = false ∧ after.s1.testBit b = false)

/-- The commands that may change the cells of the core dies: the retirement of a retry-buffer entry, which is the commit of a write, and the
events that take the rails or the main domain down. Every other command leaves all of memory as it is. Rules: R385, R523, R694. -/
def Obligations.CellsChangeOnlyBy : Prop :=
  ∀ (i : Instr) (s t : State), exec i s = .next t →
    (∀ k p, i ≠ .retryEntryRetire k p) → i ≠ .pwrgdFall → (∀ n, i ≠ .resetNFall n) → i ≠ .shutdownGraceEnd →
    i ≠ .railOutOfRange → t.epoch = s.epoch ∧ ∀ a, t.mem.read t.epoch a = s.mem.read s.epoch a

/-- Only the end of a programming pulse, or one of the four events that cut one short, changes the fuse array; only the end of a record
write, or one of those events, changes the cellar book; and with no pulse in progress nothing changes the fuses, with no record write in
progress nothing the book. Rules: R612, R616, R619, R623. -/
def Obligations.NonVolatileChangesOnlyBy : Prop :=
  ∀ (i : Instr) (s t : State), exec i s = .next t →
    (i ≠ .pwrgdFall → (∀ n, i ≠ .resetNFall n) → i ≠ .shutdownGraceEnd → i ≠ .railOutOfRange →
      ((∀ a b, i ≠ .fusePulseEnd a b) → t.fuses = s.fuses) ∧ ((∀ r, i ≠ .nvmRecordWriteEnd r) → t.book = s.book)) ∧
    (s.chip.fus.cmd = none → t.fuses = s.fuses) ∧ (s.chip.nvm.cur = none → t.book = s.book)

/-! ### Reset and boot -/

/-- PWRGD_RISE starts the keeper from the beginning: the time base at 0, step 2 with its settling under way, cause of the last reset 1 and
no RESET_N pulse counted. The rise of RESET_N samples PORT_EN from bits 4:0 and MGMT_SEL from bits 9:5 of the straps, a free value where a
group does not hold its level (log entry 2); PORT_EN with 3 in its low bits is the invalid pattern; and what RST showed of the boot before
is cleared (log entry 56). With the supply settled and no shutdown it takes boot to step 3; before the supply has settled boot waits. The
end of the settling time takes boot to step 3 with RESET_N already high, and leaves it in step 2 with RESET_N low. Nothing else changes.
Rules: R521, R525, R41, R57, R524, R559. -/
def Obligations.KeeperReachesStepThree : Prop :=
  (∀ s : State, s.chip.boot.pwrgd = false →
     exec .pwrgdRise s = .next { s with chip := { s.chip with
       keep := 0, boot := { s.chip.boot with pwrgd := true, step := 2, last := 1, resetnCnt := 0 } } }) ∧
  (∀ (s : State) (straps : BitVec 10) (stable : Bool), s.chip.boot.pwrgd = true → s.chip.boot.resetN = false → s.chip.thm.shut = .none →
     let v := if stable then straps.toNat else (Config.floatStrap s.chip.free).toNat
     let sampled : Boot := { s.chip.boot with
       resetN := true, portEn := v % 32, mgmtSel := v / 32, strapInvalid := v % 4 == 3
       cause := 0, failBlock := 0x1FF, patchRejected := false, saveRamFail := false, bwrBypass := false, sbiFail := false, nvmFail := false
       pcFenced := 0, portFail := 0, sliceByp := 0, pressFail := 0 }
     exec (.resetNRise straps stable) s = .next { s with chip := { s.chip with
       free := if stable then s.chip.free else s.chip.free + 1
       boot := if s.chip.boot.settled then { sampled with step := 3, st := .booting } else sampled
       thm := if s.chip.boot.settled then { s.chip.thm with tripLow := false } else s.chip.thm } }) ∧
  (∀ s : State, s.chip.boot.pwrgd = true → s.chip.boot.settled = false → s.chip.thm.shut = .none →
     exec .keeperSettleEnd s = .next { s with chip := { s.chip with
       boot := if s.chip.boot.resetN then { s.chip.boot with settled := true, step := 3, st := .booting }
         else { s.chip.boot with settled := true, step := 2 }
       thm := if s.chip.boot.resetN then { s.chip.thm with tripLow := false } else s.chip.thm } })

/-- PWRGD_FALL and a fall of RESET_N that is seen lose the core-die cells and reset the main domain: every register of it stands at its
reset value. The fall of PWRGD resets the keeper too, and with PWRGD low it changes nothing. The fall of RESET_N leaves what the keeper
keeps (the time base, the straps, the settled supply, what the registers of RST show of the boot so far, and of the shutdown its record, its
limit and, while it holds, the sensors' marks), takes boot to step 2, counts the pulse up to 255 and shows cause 2, or 3 after a thermal
shutdown, which then waits for re-arm. A pulse of 1 us or more is seen, one shorter than 50 ns is not and changes nothing, and between them
a free value decides (log entry 3). Fuses and cellar book stay, but for a pulse or a record write that is cut short. Rules: R521, R522,
R523, R691, R693, R518. -/
def Obligations.ResetsLoseEverythingVolatile : Prop :=
  (∀ s : State, s.chip.boot.pwrgd = true → ∃ t, exec .pwrgdFall s = .next t ∧
     t = { s with
       mem := [], epoch := s.epoch + 1, fuses := t.fuses, book := t.book
       chip := { free := s.chip.free + 1, fus := { vprogOk := s.chip.fus.vprogOk } } } ∧
     (s.chip.fus.cmd = none → t.fuses = s.fuses) ∧ (s.chip.nvm.cur = none → t.book = s.book)) ∧
  (∀ s : State, s.chip.boot.pwrgd = false → exec .pwrgdFall s = .next s) ∧
  (∀ (s : State) (ns : Nat), s.chip.boot.pwrgd = true → s.chip.boot.resetN = true →
     let short := decide (ns < 1000)
     let b := s.chip.boot
     let h := s.chip.thm
     let mended : Tab Sensor := h.sensors.map (fun x => (x.1, { x.2 with broken := false, same := 0 }))
     (50 ≤ ns → (short = true → Config.shortPulse s.chip.free = true) →
       ∃ t info, exec (.resetNFall ns) s = .next t ∧
         t = { s with
           mem := [], epoch := s.epoch + 1, fuses := t.fuses, book := t.book
           chip := {
             keep := s.chip.keep, free := s.chip.free + (if short then 2 else 1)
             boot := {
               pwrgd := true, resetN := false, settled := b.settled, step := 2, portEn := b.portEn, mgmtSel := b.mgmtSel
               cause := b.cause, failBlock := b.failBlock, patchRejected := b.patchRejected, saveRamFail := b.saveRamFail
               bwrBypass := b.bwrBypass, sbiFail := b.sbiFail, nvmFail := b.nvmFail, strapInvalid := b.strapInvalid
               pcFenced := b.pcFenced, portFail := b.portFail, sliceByp := s.chip.slicesByp, pressFail := s.chip.pressesFailed
               resetnCnt := min 255 (b.resetnCnt + 1), last := if h.shut = .none then 2 else 3
               st := if h.shut = .none then .booting else .rearmWait }
             thm := {
               info := info, shut := if h.shut = .none then .none else .released, rearm := h.rearm, lowSeen := true, tripLow := h.tripLow
               shutStart := h.shutStart, sensors := if h.shut = .none then mended else h.sensors }
             fus := { vprogOk := s.chip.fus.vprogOk }, mgt := { bootstat := s.chip.mgt.bootstat } } } ∧
         (h.shut ≠ .grace → info = h.info) ∧
         (s.chip.fus.cmd = none → t.fuses = s.fuses) ∧ (s.chip.nvm.cur = none → t.book = s.book)) ∧
     (50 ≤ ns → short = true → Config.shortPulse s.chip.free = false →
       exec (.resetNFall ns) s = .next { s with chip := { s.chip with free := s.chip.free + 1 } })) ∧
  (∀ (s : State) (ns : Nat), ns < 50 → exec (.resetNFall ns) s = .next s)

/-- At the lock of both PLLs FUS reads the array; if no item is absent, boot goes to step 4 with the words in force, the credential and the
key digests in their shadows and the credential nowhere else, and the ports stand as the straps and fuses say: enabled where PORT_EN selects
them and no fuse disables them, else DOWN with reason 12 for the invalid pattern, 1 for a port not selected, 2 for a fused one. Rules: R56,
R57, R58, R59, R60, R602, R603, R605, R607. -/
def Obligations.PllLockReadsFusesAndStraps : Prop :=
  ∀ s : State, s.chip.inStep 3 = true → s.fuses.bootRead.itemOk = true →
    ∃ t, exec .pllLock s = .next t ∧ t.chip.boot.step = 4 ∧ t.chip.boot.pllA = true ∧ t.chip.boot.pllB = true ∧
      (∀ w, t.chip.fus.eff.get 0 w = if 65 ≤ w ∧ w ≤ 68 then 0 else s.fuses.words.get 0 w) ∧
      t.chip.fus.cred = effWords s.fuses.words 65 4 ∧ t.chip.fus.key0 = effWords s.fuses.words 14 8 ∧
      t.chip.fus.key1 = effWords s.fuses.words 69 8 ∧ t.chip.fus.locked = s.fuses.bootRead.locked ∧ t.chip.fus.zeroised = false ∧
      t.mem = s.mem ∧ t.fuses = s.fuses ∧
      ∀ i, i < 32 →
        let sel := strapSelects s.chip.boot.portEn i
        let off := natBit (t.chip.fus.eff.get 0 5) i
        let ok := !s.chip.boot.strapInvalid && sel && !off
        (t.chip.port i).enabled = ok ∧
        (t.chip.port i).mgmtPort = (s.chip.boot.mgmtSel == i) ∧
        (t.chip.port i).state = (if ok then .reset else .down) ∧
        (t.chip.port i).reason = (if s.chip.boot.strapInvalid then 12 else if !sel then 1 else if off then 2 else 0)

/-- The causes of SAFE before boot step 5: an item of the fuse array that is absent when FUS reads it ends boot in SAFE with cause 3; a PLL
that does not lock in time and, during steps 3 and 4, the loss of a lock or of REFCLK, with causes 1, 1 and 2; the main domain is reset, so
that no port is enabled. A boot self-test of step 4 whose signature is not the one fused for its block ends in SAFE with cause 4, and one
with that signature but another pattern count than the one fused, or without the run-complete flag, with cause 5; each names its test block;
a read-back of the zeroised shadows that finds a bit set, before any scan test of boot, ends in SAFE with cause 6. From the end of boot step
4 on, the loss of a PLL's lock raises the fatal event 0x01 (PLL A) or 0x02 (PLL B) at CLK, and the loss of REFCLK the fatal event 0x03,
while the condition lasts. Rules: R42, R531, R532, R536, R537, R601. -/
def Obligations.EarlyFailuresAndClockLoss : Prop :=
  ((∀ s : State, s.chip.inStep 3 = true → s.fuses.bootRead.itemOk = false →
     ∃ t, exec .pllLock s = .next t ∧ t.chip.boot.st = .safe ∧ t.chip.boot.cause = 3 ∧ t.chip.ports = [] ∧ t.fuses = s.fuses) ∧
   (∀ (s : State) (a b : Bool), s.chip.inStep 3 = true → (a && b) = false →
     ∃ t, exec (.pllLockTimeout a b) s = .next t ∧ t.chip.boot.st = .safe ∧ t.chip.boot.cause = 1 ∧ t.chip.boot.step = 3 ∧
       t.chip.boot.pllA = a ∧ t.chip.boot.pllB = b ∧ t.chip.ports = []) ∧
   (∀ (s : State) (b : Bool), (s.chip.inStep 3 || s.chip.inStep 4) = true →
     (if b then s.chip.boot.pllB else s.chip.boot.pllA) = true →
     ∃ t, exec (.pllLockLoss b) s = .next t ∧ t.chip.boot.st = .safe ∧ t.chip.boot.cause = 1 ∧ t.chip.ports = []) ∧
   (∀ s : State, (s.chip.inStep 3 || s.chip.inStep 4) = true →
     ∃ t, exec .refclkLost s = .next t ∧ t.chip.boot.st = .safe ∧ t.chip.boot.cause = 2 ∧ t.chip.ports = []) ∧
   (∀ (s : State) (i : Fin 264) (run : BistRun) (v0 v1 : CheckerRun), i.val < 6 → s.chip.inStep 4 = true →
     s.chip.boot.results.has i.val = false →
     let sigOk := run.signature.toNat == s.chip.fus.eff.get 0 (22 + 2 * i.val)
     let countOk := run.count.toNat == s.chip.fus.eff.get 0 (23 + 2 * i.val)
     (sigOk && countOk && run.complete) = false →
     ∃ t, exec (.bootLbistEnd i run v0 v1 true) s = .next t ∧ t.chip.boot.st = .safe ∧
       t.chip.boot.cause = (if sigOk then 5 else 4) ∧ t.chip.boot.failBlock = i.val) ∧
   (∀ (s : State) (i : Fin 264) (run : BistRun) (v0 v1 : CheckerRun) (n : Nat), testStep i.val = some n → s.chip.inStep n = true →
     scanTest i.val = true → s.chip.boot.results.has i.val = false →
     ∃ t, exec (.bootLbistEnd i run v0 v1 false) s = .next t ∧ t.chip.boot.st = .safe ∧ t.chip.boot.cause = 6)) ∧
  ((∀ (s : State) (b : Bool), s.chip.on = true → 5 ≤ s.chip.boot.step →
     (if b then s.chip.boot.pllB else s.chip.boot.pllA) = true →
     ∃ t, exec (.pllLockLoss b) s = .next t ∧ (⟨3, if b then 0x02 else 0x01, 0⟩ : Event) ∈ (t.chip.flt.evs.get {} 0).levels ∧
       t.chip.boot.st = s.chip.boot.st) ∧
   (∀ s : State, s.chip.on = true → 5 ≤ s.chip.boot.step → s.chip.boot.refclkOk = true →
     ∃ t, exec .refclkLost s = .next t ∧ (⟨3, 0x03, 0⟩ : Event) ∈ (t.chip.flt.evs.get {} 0).levels ∧ t.chip.boot.refclkOk = false ∧
       t.chip.boot.st = s.chip.boot.st))

/-- A boot self-test of steps 4 to 6 that passes (its logic BIST with the signature and the pattern count fused for the type of its block
and the run-complete flag, its memory BIST without the compare-fail flag, over its whole range and complete, and for NVM a directory that
can be read), while others of its step are still to end, records PASS with its pattern count, loads zeros into the credential and key
shadows and the read buffer if it is a scan test, and changes no cell. A scan operation over, SHADOW_RELOAD loads the credential and both
key digests from the fuse array as it then stands, whatever the shadows held; the read buffer is left with the word read last, which is the
model's reading (log entry 56). Rules: R525, R532, R533, R534, R535, R560, R601. -/
def Obligations.BootTestsRecordAndShadowsReload : Prop :=
  (∀ (s : State) (i : Fin 264) (run : BistRun) (v0 v1 : CheckerRun) (n : Nat), testStep i.val = some n → s.chip.inStep n = true →
     s.chip.boot.results.has i.val = false → v0.passes = true → v1.passes = true →
     (scanTest i.val = true → run.signature.toNat = s.chip.fus.eff.get 0 (22 + 2 * testType i.val) ∧
       run.count.toNat = s.chip.fus.eff.get 0 (23 + 2 * testType i.val) ∧ run.complete = true) →
     (memoryTest i.val = true → run.bad = false ∧ run.range = true ∧ run.complete = true) → (i.val = 9 → s.book.loadReloc.isSome = true) →
     (∃ j ∈ stepTests n, j ≠ i.val ∧ s.chip.boot.results.has j = false) →
     ∃ t, exec (.bootLbistEnd i run v0 v1 true) s = .next t ∧
       t.chip.boot.results.get {} i.val = { result := 1, patterns := run.patterns.toNat } ∧ t.chip.boot.step = n ∧
       t.chip.boot.failBlock = s.chip.boot.failBlock ∧
       (scanTest i.val = true → t.chip.fus.cred = 0 ∧ t.chip.fus.key0 = 0 ∧ t.chip.fus.key1 = 0 ∧ t.chip.fus.rdBuf = 0) ∧ t.mem = s.mem) ∧
  (∀ s : State, s.chip.on = true → s.chip.fus.zeroised = true → s.chip.Calm → s.chip.inStep 9 = false →
     (∀ t, s.chip.boot.field = some t → t.phase < 3 ∨ 5 < t.phase) →
     exec .shadowReload s = .next { s with chip := { s.chip with fus := { s.chip.fus with
       cred := effWords s.fuses.words 65 4, key0 := effWords s.fuses.words 14 8, key1 := effWords s.fuses.words 69 8
       zeroised := false, zeroBad := false, rdBuf := s.fuses.words.get 0 76 } } })

/-- The map wait of boot step 10 ends, by its timeout or by a write of ADDR_MAP_CFG.REQ, with the map fixed: the one that REQ names then, or
the array's own where REQ names none; the first write since reset is the one that REQ takes, and outside the wait it changes no map.
BOOT_STEP_10 with the map fixed goes on to step 11 if XBR passed its test, some port that passed its own has a link, and some bank of a
channel that is not slice-dead is served as the banks then stand; else it ends in NO_SERVICE with cause 7. BWR's deliverable figure is what
those pseudo-channels deliver, unless BWR failed its test. With no pseudo-channel fenced no entry changes; a single fenced one, no entry in
use, takes entries 0 to 15. READY, outside test mode, takes every port that waits in ACTIVE_WAIT to ACTIVE and no other port anywhere, with
READY sent on the sideband of each port that waited; nothing else changes. A host address of memory lies where the three maps of R189 say,
and each map is undone by its inverse, both ways. Rules: R65, R187, R188, R189, R190, R191, R193, R207, R285, R530, R544, R547. -/
def Obligations.MapServiceAndReady : Prop :=
  (∀ s : State, s.chip.inStep 10 = true → s.chip.addr.waiting = true →
     exec .mapWaitTimeout s = .next { s with chip := { s.chip with
       addr := { s.chip.addr with mode := if s.chip.addr.req < 3 then s.chip.addr.req else s.chip.fusedMap, fixed := true, waiting := false }
       boot := { s.chip.boot with mapWaited := true } } }) ∧
  (∀ (s : State) (v : Word), s.chip.live = true →
     let a := if s.chip.addr.reqSet then s.chip.addr else { s.chip.addr with req := natBits v.toNat 4 2, reqSet := true }
     (s.chip.inStep 10 = true → s.chip.addr.waiting = true → exec (.addrMapReqWrite v) s = .next { s with chip := { s.chip with
       addr := { a with mode := if a.req < 3 then a.req else s.chip.fusedMap, fixed := true, waiting := false }
       boot := { s.chip.boot with mapWaited := true } } }) ∧
     (s.chip.inStep 10 = false ∨ s.chip.addr.waiting = false →
       exec (.addrMapReqWrite v) s = .next { s with chip := { s.chip with addr := a } })) ∧
  (∀ s : State, s.chip.inStep 10 = true → s.chip.addr.fixed = true → ∃ t, exec .bootStep10 s = .next t ∧
     (let serves := s.chip.boot.xbrFail = false ∧ (∃ n, n < 32 ∧ (s.chip.port n).linkUp = true ∧ (s.chip.port n).bistFail = false) ∧
        ∃ bank, bank < 2048 ∧ t.chip.served bank = true
      (serves → t.chip.boot = { s.chip.boot with step := 11 }) ∧
      (¬ serves → t.chip.boot = { s.chip.boot with st := .noService, cause := 7 })) ∧
     t.chip.bwr = (if s.chip.bwr.bypass then s.chip.bwr else { s.chip.bwr with deliver := t.chip.deliverable }) ∧
     t.chip.ports = s.chip.ports ∧ (∀ k p, (t.chip.pc k p).state = (s.chip.pc k p).state) ∧ t.chip.addr.mode = s.chip.addr.mode ∧ t.chip.addr.wins = s.chip.addr.wins ∧
     t.mem = s.mem ∧ t.fuses = s.fuses ∧ t.book = s.book ∧
     ((∀ k p, s.chip.fenced k p = false) → t.chip.addr = s.chip.addr ∧
       ((∀ k, s.chip.sliceDead k = false) → t.chip.dies = s.chip.dies ∧ t.chip.chcs = s.chip.chcs)) ∧
     (∀ k p, k < 64 → p < 2 → (∀ k' p', s.chip.fenced k' p' = true ↔ k' = k ∧ p' = p) → s.chip.addr.remap = [] →
       s.chip.sliceDead k = false →
       ∀ b, b < 16 → t.chip.remapE b = { valid := true, cause := 1, bank := 32 * k + 16 * p + b })) ∧
  (∀ s : State, s.chip.live = true → s.chip.inStep 11 = true → s.chip.boot.testMode = false →
     ∃ t, exec .ready s = .next t ∧
       t = { s with chip := { s.chip with boot := { s.chip.boot with st := .ready }, ports := t.chip.ports } } ∧
       ∀ n, t.chip.port n = { s.chip.port n with
         state := if (s.chip.port n).state = .activeWait then .active else (s.chip.port n).state
         sbSent := if (s.chip.port n).state = .activeWait then [⟨0x7F, 0⟩] else (s.chip.port n).sbSent }) ∧
  (∀ a, a < 0x1800000000 →
     let f (lo n : Nat) : Nat := a / 2 ^ lo % 2 ^ n
     let row (low : Nat) : Nat := f 35 2 * 16384 + low
     let h := f 14 6 ^^^ f 20 6 ^^^ f 26 6 ^^^ f 32 5
     mapAddr 0 a = (⟨f 8 6 ^^^ h, f 16 1 ^^^ f 22 1, 4 * (f 17 2 ^^^ f 23 2) + f 19 2, row (f 21 14)⟩, 4 * f 14 2 + f 6 2, f 0 6) ∧
     mapAddr 1 a = (⟨f 8 6, f 16 1, 4 * f 17 2 + f 19 2, row (f 21 14)⟩, 4 * f 14 2 + f 6 2, f 0 6) ∧
     mapAddr 2 a = (⟨f 29 6, f 28 1, 4 * f 10 2 + f 12 2, row (f 14 14)⟩, 4 * f 8 2 + f 6 2, f 0 6) ∧
     ∀ mode, mode < 3 → let x := mapAddr mode a
       unmapBlock mode x.1 x.2.1 + x.2.2 = a) ∧
  (∀ (mode c p b r j byte : Nat), mode < 3 → c < 64 → p < 2 → b < 16 → r < 49152 → j < 16 → byte < 64 →
     let a := unmapBlock mode ⟨c, p, b, r⟩ j + byte
     a < 0x1800000000 ∧ mapAddr mode a = (⟨c, p, b, r⟩, j, byte))

/-- In SAFE, SAFE_SIDEBAND_INIT brings up the sideband of the management port where PLL A has locked and neither strap nor fuse takes that
port out; no link follows: its main band stays as it was. In a block that serves, outside SAFE and the fault state, a sideband register
access to an enabled port whose sideband is up is answered: a register of the standard with a value, any other as unsupported. The value is
free (log entry 4). Rules: R52, R540. -/
def Obligations.SidebandServes : Prop :=
  (∀ s : State, s.chip.boot.pwrgd = true → s.chip.boot.resetN = true → s.chip.boot.st = .safe → s.chip.boot.pllA = true →
     s.chip.thm.shut ≠ .released → strapSelects s.chip.boot.portEn s.chip.boot.mgmtSel = true →
     natBit (s.chip.fus.eff.get 0 5) s.chip.boot.mgmtSel = false →
     exec .safeSidebandInit s = .next (s.onChip (fun c => c.onPort c.boot.mgmtSel (fun p =>
       { p with enabled := true, strapEn := true, mgmtPort := true, sbUp := true })))) ∧
  (∀ (s : State) (n : PortIx) (a : Word), s.chip.live = true → (s.chip.port n.val).enabled = true → (s.chip.port n.val).sbUp = true →
     (∃ t, exec (.sidebandRegAccess n false a) s = .next t ∧ t.chip.mgt.sbReg = none ∧ t.chip.ports = s.chip.ports) ∧
     (∃ t, exec (.sidebandRegAccess n true a) s = .next t ∧ t.chip.mgt.sbReg.isSome = true ∧ t.chip.ports = s.chip.ports ∧ t.mem = s.mem))

/-! ### Links -/

/-- The bring-up of an enabled port of a live stack, step by step. A host that begins sideband initialisation takes a DOWN port that may
restart to step 1 once boot step 9 has begun; step 1 done takes it to step 2 at the rate cap, with the repairs shown cleared; step 1 failed
leaves it there. Step 2, of a bring-up or of a retraining, done, takes it to step 3 and shows the repairs made, at most four lanes a
direction; CK_PORT runs then, the copies of its counters follow and a PORT_CNT_CLR that waited acts. Step 2 failed takes the next lower
rate, and at the lowest rate the port is DOWN with TRAIN_FAIL (5). Step 3 done makes the link active: ACTIVE with READY sent on its sideband
after READY outside test mode, and ACTIVE_WAIT before; a credit grant that fell due during a retraining goes at once, where a flit slot may
carry it; step 3 failed is DOWN with PROTOCOL (6). Rules: R65, R67, R69, R71, R72, R128, R666. -/
def Obligations.LinkBringUpSteps : Prop :=
  ∀ (s : State) (n : PortIx), s.chip.live = true → s.chip.Calm → (s.chip.port n.val).enabled = true →
    let p := s.chip.port n.val
    let step2 := p.state = .mbTrain ∨ p.state = .retrain ∧ p.resume = false
    let step3 := p.state = .adapterInit ∨ p.state = .retrain ∧ p.resume = true
    (p.mayRestart = true → 9 ≤ s.chip.boot.step → ∃ t, exec (.sbInit n) s = .next t ∧
      t.chip.port n.val = { p with
        state := .sbInit, reason := 0, rate := 0, sbUp := false, resume := false, replays := 0, sbSent := [] }) ∧
    (∀ tx rx cvt, p.state = .sbInit → ∃ t, exec (.linkTrainStepEnd n (.done tx rx cvt)) s = .next t ∧
      t.chip.port n.val = { p with state := .mbTrain, sbUp := true, rate := min p.rateCap 2, repTx := [], repRx := [], cvt := false }) ∧
    (p.state = .sbInit → ∃ t, exec (.linkTrainStepEnd n .failed) s = .next t ∧ t.chip.ports = s.chip.ports) ∧
    (∀ tx rx cvt, step2 → ∃ t, exec (.linkTrainStepEnd n (.done tx rx cvt)) s = .next t ∧
      let q := if p.clrPend then
        { p with cntCrc := 0, cntReplay := 0, cntLinkdown := 0, cntRetrain := 0, cntDiscard := 0, clrPend := false } else p
      t.chip.port n.val = { q with
        state := if p.state = .retrain then .retrain else .adapterInit, resume := decide (p.state = .retrain), fwdOk := true, copies := none
        repTx := (tx.map (·.val)).take 4, repRx := (rx.map (·.val)).take 4, cvt := cvt }) ∧
    (step2 → p.rate < 2 → ∃ t, exec (.linkTrainStepEnd n .failed) s = .next t ∧ t.chip.port n.val = { p with rate := p.rate + 1 }) ∧
    (step2 → 2 ≤ p.rate → ∃ t, exec (.linkTrainStepEnd n .failed) s = .next t ∧
      (t.chip.port n.val).state = .down ∧ (t.chip.port n.val).reason = 5) ∧
    (∀ tx rx cvt, step3 → ∃ t, exec (.linkTrainStepEnd n (.done tx rx cvt)) s = .next t ∧
      let active := s.chip.boot.st = .ready ∧ s.chip.boot.testMode = false
      let up : Port := { p with state := .active, resume := false, lastTx := [], sbSent := if p.sbSent = [] then [⟨0x7F, 0⟩] else p.sbSent }
      let due := p.granted = true ∧ (32 ≤ p.pendReq ∨ 32 ≤ p.pendRsp ∨ 32 ≤ p.pendMgt) ∧ p.slots.opens 8 = true
      (active → ¬ due → t.chip.port n.val = up) ∧
      (active → due → t.chip.port n.val = { up with
        heldReq := p.heldReq + p.pendReq, heldRsp := p.heldRsp + p.pendRsp, heldMgt := p.heldMgt + p.pendMgt
        pendReq := 0, pendRsp := 0, pendMgt := 0, lastTx := [.grant (grantHeader p.pendReq p.pendRsp p.pendMgt)]
        slots := p.slots.spend 8 }) ∧
      (¬ active → t.chip.port n.val = { p with state := .activeWait, resume := false, lastTx := [] })) ∧
    (step3 → ∃ t, exec (.linkTrainStepEnd n .failed) s = .next t ∧
      (t.chip.port n.val).state = .down ∧ (t.chip.port n.val).reason = 6)

/-- The causes that take a link down. On a live stack an enabled port that is neither DOWN nor in reset becomes DOWN with the reason of the
cause: HOST_DISABLE (4), LINK_ERROR (9), FWD_CLK (8), REG_DISABLE (3). Flits not admitted and responses that wait are discarded, no unit is
pending, every request still admitted is one of the earlier session, a job of it without a context is ended at once, one that runs has its
cancel recorded in its context and goes on from where it is, the session's grants are due anew, and reasons 4 to 9 are counted. Where the
port has no job, PORT_CNT_DISCARD counts each response that waited. The loss of the forwarded clock stops CK_PORT, and the copies of its
counters keep what they last showed. No other port changes. Rules: R72, R73, R74, R75, R76, R78, R79, R666. -/
def Obligations.LinkDownCauses : Prop :=
  ∀ (s : State) (n : PortIx), s.chip.live = true → s.chip.Calm → (s.chip.port n.val).canFall = true →
    ∀ (i : Instr) (reason : Nat),
      (i = .hostLinkDisable n ∧ reason = 4 ∨ i = .adapterLinkError n ∧ reason = 9 ∨
        i = .fwdClkLost n ∧ (s.chip.port n.val).fwdOk = true ∧ reason = 8 ∨ i = .portDisableWrite n true ∧ reason = 3) →
      ∃ t, exec i s = .next t ∧
        (t.chip.port n.val).state = .down ∧ (t.chip.port n.val).reason = reason ∧ (t.chip.port n.val).rxq = [] ∧
        (t.chip.port n.val).txq = [] ∧ (t.chip.port n.val).txMgt = [] ∧ (t.chip.port n.val).granted = false ∧
        (t.chip.port n.val).pendReq = 0 ∧ (t.chip.port n.val).pendRsp = 0 ∧ (t.chip.port n.val).pendMgt = 0 ∧
        ((∀ r ∈ (s.chip.port n.val).reqs, isJob r.op = false) →
          (t.chip.port n.val).reqs = (s.chip.port n.val).reqs.map (fun r => { r with stale := true })) ∧
        (∀ q ∈ (t.chip.port n.val).reqs, q.stale = true) ∧
        (∀ r ∈ (s.chip.port n.val).reqs, isJob r.op = true → s.chip.jobOf n.val r.tagN = none → r.phase ≠ .staged →
          (t.chip.port n.val).req? r.tagN = none) ∧
        (∀ r p k j, r ∈ (s.chip.port n.val).reqs → isJob r.op = true → (∀ q ∈ (s.chip.port n.val).reqs, isJob q.op = true → q = r) →
          (∀ x ∈ (s.chip.port n.val).txq, isJob x.op = false) → s.chip.jobOf n.val r.tagN = some (p, k, j) →
          (s.chip.press p).ctxs.look k = some j → j.released = true → j.ended = false →
          ∃ j', (t.chip.press p).ctxs.look k = some j' ∧ j'.cancel = true ∧ j'.cut = true ∧ j'.done = j.done) ∧
        ((∀ r ∈ (s.chip.port n.val).reqs, isJob r.op = false) → (t.chip.port n.val).cntDiscard =
          ((s.chip.port n.val).txq ++ (s.chip.port n.val).txMgt).foldl (fun k _ => bump32 k) (s.chip.port n.val).cntDiscard) ∧
        (i = .fwdClkLost n → (t.chip.port n.val).fwdOk = false ∧ (t.chip.port n.val).copies =
          some ((s.chip.port n.val).cntCrc, (s.chip.port n.val).cntReplay, (s.chip.port n.val).linkCounts, (s.chip.port n.val).cntDiscard)) ∧
        (t.chip.port n.val).cntLinkdown =
          (if reason = 3 then (s.chip.port n.val).cntLinkdown else bump16 (s.chip.port n.val).cntLinkdown) ∧
        (∀ m, m ≠ n.val → t.chip.port m = s.chip.port m) ∧ t.mem = s.mem

/-- A retraining of an active link: asked for by the host, by PORT_LINK_CTL.RETRAIN, or because one flit has been replayed REPLAY_LIMIT
times in a row. It starts at step 2, at the rate cap, and is counted; a written RETRAIN takes a DOWN port that may restart to step 1
instead. PORT_LINK_CTL.DISABLE written 0 restarts the port that it had disabled, from step 1, once boot step 9 has begun, and before leaves
it for step 9. Rules: R67, R68, R69. -/
def Obligations.RetrainsAndRestarts : Prop :=
  ∀ (s : State) (n : PortIx), s.chip.live = true → s.chip.Calm →
    let p := s.chip.port n.val
    let begun : Port := { p with
      state := .sbInit, reason := 0, rate := 0, sbUp := false, resume := false, replays := 0, sbSent := [] }
    (p.linkUp = true → ∀ i : Instr,
      (i = .hostRetrainRequest n ∨ i = .portRetrain n ∨ i = .replayLimitRetrain n ∧ p.replayLim ≠ 0 ∧ p.replayLim ≤ p.replays) →
      ∃ t, exec i s = .next t ∧ t.chip.port n.val = { p with
        state := .retrain, rate := min p.rateCap 2, repTx := [], repRx := [], cvt := false
        resume := false, replays := 0, cntRetrain := bump16 p.cntRetrain } ∧ t.mem = s.mem) ∧
    (p.enabled = true → p.mayRestart = true → 9 ≤ s.chip.boot.step →
      ∃ t, exec (.portRetrain n) s = .next t ∧ t.chip.port n.val = begun) ∧
    (p.enabled = true → p.state = .down → p.reason = 3 →
      ∃ t, exec (.portDisableWrite n false) s = .next t ∧
        (9 ≤ s.chip.boot.step → t.chip.port n.val = { begun with disable := false }) ∧
        (s.chip.boot.step < 9 → t.chip.port n.val = { p with disable := false }))

/-- 100 ms after the start of boot step 9 every port still in steps 1 to 3 becomes DOWN with TIMEOUT (7), and boot that is still in step 9
goes on to step 10. That the deadline comes once, acts whether or not step 9 has ended before, and leaves a port that is DOWN with its
reason is the model's reading (DEDUCED, log entry 30). Rules: R66. -/
def Obligations.LinkDeadlineEndsStepNine : Prop :=
  ∀ s : State, s.chip.live = true → 9 ≤ s.chip.boot.step → s.chip.boot.linkTimed = false →
    ∃ t, exec .linkTrainDeadline s = .next t ∧ t.chip.boot.linkTimed = true ∧
      t.chip.boot.step = (if s.chip.inStep 9 = true then 10 else s.chip.boot.step) ∧
      ∀ n, n < 32 → if (s.chip.port n).training then (t.chip.port n).state = .down ∧ (t.chip.port n).reason = 7
        else t.chip.port n = s.chip.port n

/-- The flits of an active link: one that fails the CRC is counted and discarded, a replay is counted together with how often in a row that
flit was replayed. PAD, a word whose opcode bits are 0, is discarded and a power-state request is refused: neither changes anything. Under
AUTO_APPLY the next flit boundary of an active link applies a PORT_CFG that was written since: what was written last takes effect, and
nothing waits any more; without AUTO_APPLY of its group it still waits. Rules: R50, R51, R82, R87, R672. -/
def Obligations.FlitsCountAndApply : Prop :=
  ((∀ (s : State) (n : PortIx), s.chip.live = true → (s.chip.port n.val).linkUp = true →
     exec (.flitCrcError n) s = .next (s.onChip (fun c => c.onPort n.val (fun p => { p with cntCrc := bump32 p.cntCrc })))) ∧
   (∀ (s : State) (n : PortIx) (again : Bool), s.chip.live = true → (s.chip.port n.val).linkUp = true →
     exec (.flitReplay n again) s = .next (s.onChip (fun c => c.onPort n.val (fun p =>
       { p with cntReplay := bump32 p.cntReplay, replays := if again then p.replays + 1 else 1 })))) ∧
   (∀ (s : State) (n : PortIx) (h : ReqHdr), exec (.pad n) s = .next s ∧ exec (.reservedOp n 0 h) s = .next s ∧
     exec (.powerStateRequest n) s = .next s)) ∧
  (∀ (s : State) (n : PortIx), s.chip.live = true → (s.chip.port n.val).linkUp = true → (s.chip.port n.val).cfg.dirty = true →
     (s.chip.auto (n.val / 16) = true → ∃ t, exec (.flitBoundary n) s = .next t ∧
       t.chip.port n.val = { s.chip.port n.val with
         cfg := ⟨(s.chip.port n.val).cfg.shadow, (s.chip.port n.val).cfg.shadow, false⟩ } ∧ t.chip.chcs = s.chip.chcs ∧ t.mem = s.mem) ∧
     (s.chip.auto (n.val / 16) = false → exec (.flitBoundary n) s = .next s))

/-- The credits of a session. After READY, outside test mode, an active port with no request of an earlier session left and no stream to
release gives the initial grants, 1,024 REQ, 1,536 RSP and 64 MGT units; later a grant carries every pending unit of the three pools, so
that what the host holds and what is pending add up as before, unless the port has met a fatal condition or paces and no flit slot may carry
it. A request for which the host does not hold the units, on an active link before the initial grants any request at all, takes the port
down with LINK_ERROR (9) and is counted as a credit violation. Rules: R65, R78, R124, R127, R128, R129, R511, R582. -/
def Obligations.CreditsAreKept : Prop :=
  ((∀ (s : State) (n : PortIx), s.chip.live = true → s.chip.boot.st = .ready → s.chip.boot.testMode = false →
     (s.chip.port n.val).state = .active → (s.chip.port n.val).granted = false → (∀ r ∈ (s.chip.port n.val).reqs, r.stale = false) →
     (∀ x ∈ (s.chip.port n.val).streams, x.2.relPend = false) →
     ∃ t, exec (.initialCreditGrant n) s = .next t ∧ t.chip.port n.val = { s.chip.port n.val with
       granted := true, heldReq := 1024, heldRsp := 1536, heldMgt := 64, pendReq := 0, pendRsp := 0, pendMgt := 0
       lastTx := [.grant (grantHeader 1024 1536 64)], slots := (s.chip.port n.val).slots.spend 8 }) ∧
   (∀ (s : State) (n : PortIx), s.chip.live = true → (s.chip.port n.val).canSend = true → s.chip.halted (fltHpa n.val) = false →
     (s.chip.port n.val).slots.opens 8 = true →
     ((s.chip.port n.val).pendReq ≠ 0 ∨ (s.chip.port n.val).pendRsp ≠ 0 ∨ (s.chip.port n.val).pendMgt ≠ 0) →
     ∃ t, exec (.creditGrantTimer n) s = .next t ∧ t.chip.port n.val = { s.chip.port n.val with
       heldReq := (s.chip.port n.val).heldReq + (s.chip.port n.val).pendReq
       heldRsp := (s.chip.port n.val).heldRsp + (s.chip.port n.val).pendRsp
       heldMgt := (s.chip.port n.val).heldMgt + (s.chip.port n.val).pendMgt
       pendReq := 0, pendRsp := 0, pendMgt := 0
       lastTx := [.grant (grantHeader (s.chip.port n.val).pendReq (s.chip.port n.val).pendRsp (s.chip.port n.val).pendMgt)]
       slots := (s.chip.port n.val).slots.spend 8 })) ∧
  (∀ (i : Instr) (s : State) (n : PortIx) (op : Op) (h : ReqHdr) (pl : List Byte) (tr : Word) (look : Lookup),
     asRequest i = some (n, op, h, pl, tr, look) → s.chip.live = true → s.chip.Calm →
     ((s.chip.port n.val).linkUp = true ∧ (s.chip.port n.val).granted = false ∨ (s.chip.port n.val).canSend = true ∧
       (if op = .mgmtCmd then (s.chip.port n.val).heldMgt < (mgtReqCost h + 9 : Int) else (s.chip.port n.val).heldReq < (reqCost op h : Int))) →
     ∃ t, exec i s = .next t ∧ (t.chip.port n.val).state = .down ∧ (t.chip.port n.val).reason = 9 ∧
       (t.chip.port n.val).cntCredViol = bump32 (s.chip.port n.val).cntCredViol ∧ t.mem = s.mem)

/-! ### Requests -/

/-- A request of the REQ virtual channel whose form or TAG is bad is answered BAD_OP with the detail of the first check that fails, a
reserved opcode with detail 1; it is counted, its REQ units are pending return or granted again, and nothing but its port changes. The same
holds of an MGMT_CMD on the management channel, whose 9 units for the response stay spent until the answer is handed off. Two things shown
are the model's own choice (log entry 49): where a bad parameter block meets a TAG in use the detail is that of the check that R131 makes
first and not the lowest of R118, and the units of a malformed MGMT_CMD whose SIZE gives fewer than 64 bytes are rounded down. Rules: R92,
R97, R100, R116, R118, R131. -/
def Obligations.BadRequestsAnswerBadOp : Prop :=
  ∀ (i : Instr) (s : State) (n : PortIx) (op : Op) (h : ReqHdr) (pl : List Byte) (tr : Word) (look : Lookup) (d : Nat),
    asRequest i = some (n, op, h, pl, tr, look) → (s.chip.port n.val).badOp (rxOf op h pl tr look) = some d →
    (op ≠ .mgmtCmd → s.chip.Open n.val op h → rspCost op h ≤ (s.chip.port n.val).rspFree →
      ∃ t, exec i s = .next t ∧ Answered s t n.val op h .badOp d ∧
        (t.chip.port n.val).cntBadop = bump32 (s.chip.port n.val).cntBadop ∧ OnlyPort s t n.val ∧
        (t.chip.port n.val).heldReq + (t.chip.port n.val).pendReq = (s.chip.port n.val).heldReq + (s.chip.port n.val).pendReq) ∧
    (op = .mgmtCmd → s.chip.live = true → (s.chip.port n.val).canSend = true →
      (mgtReqCost h + 9 : Int) ≤ (s.chip.port n.val).heldMgt →
      ∃ t x, exec i s = .next t ∧ (t.chip.port n.val).txMgt = (s.chip.port n.val).txMgt ++ [x] ∧ x.status = .badOp ∧ x.arg = d ∧ x.hdr = h ∧
        (t.chip.port n.val).reqs = (s.chip.port n.val).reqs ∧ OnlyPort s t n.val ∧
        (t.chip.port n.val).heldMgt + (t.chip.port n.val).pendMgt + 9 = (s.chip.port n.val).heldMgt + (s.chip.port n.val).pendMgt) ∧
    (∀ code, op = .reserved code → d = 1)

/-- A request of good form meets the remaining checks in their order: the end-to-end check (E2E_FAIL), access (DENIED or UNMAPPED with its
detail), and the sequence (SEQ_GAP). The first that fails answers it, an ORDERED member of a stream breaks its stream, and nothing but its
port changes. An MGMT_CMD meets the check of access alone, and is answered on the management channel. Rules: R131, R149, R150, R196. -/
def Obligations.ChecksAnswerInOrder : Prop :=
  ∀ (i : Instr) (s : State) (n : PortIx) (op : Op) (h : ReqHdr) (pl : List Byte) (tr : Word) (look : Lookup),
    asRequest i = some (n, op, h, pl, tr, look) → (s.chip.port n.val).badOp (rxOf op h pl tr look) = none →
    (op ≠ .mgmtCmd → s.chip.Open n.val op h → rspCost op h ≤ (s.chip.port n.val).rspFree →
      let checked := hasTrailer op h && (s.chip.port n.val).e2eEn
      let good := e2eGood (s.chip.port n.val).e2ePoly (rxOf op h pl tr look)
      let breaksStream (t : State) : Prop :=
        isMember op = true → h.ordered = true → ((t.chip.port n.val).stream h.stream.toNat).broken = true
      (checked = true → good = false → ∃ t, exec i s = .next t ∧ Answered s t n.val op h .e2eFail 0 ∧ breaksStream t ∧ OnlyPort s t n.val ∧
        (t.chip.port n.val).e2eFail = bump32 (s.chip.port n.val).e2eFail) ∧
      ((checked = true → good = true) →
        (∀ st d, s.chip.checkAccess n.val (rxOf op h pl tr look) = some (st, d) →
          ∃ t, exec i s = .next t ∧ Answered s t n.val op h st d ∧ breaksStream t ∧ OnlyPort s t n.val) ∧
        (s.chip.checkAccess n.val (rxOf op h pl tr look) = none → (s.chip.port n.val).seqOk (rxOf op h pl tr look) = false →
          ∃ t, exec i s = .next t ∧ Answered s t n.val op h .seqGap 0 ∧ breaksStream t ∧ OnlyPort s t n.val))) ∧
    (∀ st d, op = .mgmtCmd → s.chip.live = true → (s.chip.port n.val).canSend = true →
      (mgtReqCost h + 9 : Int) ≤ (s.chip.port n.val).heldMgt → s.chip.checkAccess n.val (rxOf op h pl tr look) = some (st, d) →
      ∃ t x, exec i s = .next t ∧ (t.chip.port n.val).txMgt = (s.chip.port n.val).txMgt ++ [x] ∧ x.status = st ∧ x.arg = d ∧ x.hdr = h ∧
        (t.chip.port n.val).reqs = (s.chip.port n.val).reqs ∧ OnlyPort s t n.val)

/-- A data request (RD, WR, WR_MASKED, ATOM, ACCUM) that passes admission and that nothing holds is released at once. Where a target is
under test or in rescue it is answered BUSY_TEST or RETRY with the hint. Else it stands among the admitted requests as active with its
parts, one REQ packet for each part goes to the slice of its row, and an ORDERED one moves the number its stream expects; without PROMPT, or
where the slice of a PROMPT read has met a fatal condition, no slice changes. Else a PROMPT read is staged with its block at once where it
wins its slice's prompt lane and finds its sector there, its class in budget, the slice in normal mode with the prompt path enabled, its
bank served and no SRAM error; where the sector is not there it goes on as the others and is counted (PROMPT_FB). No cell changes. Rules:
R95, R132, R188, R149, R250, R252, R582. -/
def Obligations.DataRequestsGoToSlices : Prop :=
  ∀ (i : Instr) (s : State) (n : PortIx) (op : Op) (h : ReqHdr) (pl : List Byte) (tr : Word) (look : Lookup),
    asRequest i = some (n, op, h, pl, tr, look) → isData op = true → s.chip.Admits n.val (rxOf op h pl tr look) →
    NotHeld (s.chip.port n.val) h →
    let parts := partsOf s.chip.addr.mode s.chip.windowSet n.val op h (rxOf op h pl tr look).payload (s.chip.port n.val).cls
    let offered (t : State) : Prop := t.mem = s.mem ∧ (h.ordered = true → ((t.chip.port n.val).stream h.stream.toNat).exp = h.seq + 1) ∧
      t.chip.xbr.pkts = s.chip.xbr.pkts ++
        parts.map (fun q => ⟨.req, n.val, epSlice q.row.c, .part { q with born := s.chip.keep }⟩) ∧
      ∃ r, (t.chip.port n.val).req? h.tag.toNat = some r ∧ r.op = op ∧ r.hdr = h ∧ r.phase = .active ∧ r.parts = parts ∧ r.left = parts.length
    (∀ st hint, s.chip.offerCheck parts = some (st, hint) → ∃ t, exec i s = .next t ∧ Answered s t n.val op h st hint ∧ t.mem = s.mem ∧
      t.chip.slices = s.chip.slices ∧ t.chip.xbr = s.chip.xbr) ∧
    (s.chip.offerCheck parts = none → h.prompt = false → ∃ t, exec i s = .next t ∧ offered t ∧ t.chip.slices = s.chip.slices) ∧
    (∀ q a, s.chip.offerCheck parts = none → h.prompt = true → parts = [q] → q.blocks = [a] →
      let sl := s.chip.slice q.row.c
      let halted := s.chip.halted (fltDct q.row.c)
      (halted = true → ∃ t, exec i s = .next t ∧ offered t ∧ t.chip.slices = s.chip.slices) ∧
      (halted = false → sl.promptHit q.row a.blk = none → ∃ t, exec i s = .next t ∧ offered t ∧
        (t.chip.slice q.row.c).lines = sl.lines ∧ (t.chip.slice q.row.c).cntPromptFb = bump32 sl.cntPromptFb) ∧
      (∀ idx d, halted = false → sl.promptHit q.row a.blk = some (idx, d) → (sl.promptLane n.val (look.rivals.map (·.val))).1 = true →
        s.chip.overBudget (s.chip.port n.val).cls = false → sl.promptEn = true → sl.mode = .normal → s.chip.served (bankIndex q.row) = true →
        look.err = .none →
        ∃ t r, exec i s = .next t ∧ t.mem = s.mem ∧ t.chip.xbr = s.chip.xbr ∧ (t.chip.port n.val).req? h.tag.toNat = some r ∧
          r.hdr = h ∧ r.phase = .staged ∧ r.status = Status.ok.degrade (s.chip.rowDegraded q.row) ∧ r.data = blockBytes d ∧
          (t.chip.slice q.row.c).cntPrompt = sl.cntPrompt.bump))

/-- An ORDERED data request behind an incomplete ORDERED request of its stream, or any data request behind an incomplete FENCE, is admitted
and held: it waits among the admitted requests and nothing goes to the crossbar. ORDERED_RELEASE releases it once nothing holds it any more:
its parts go to their slices, or, where a target is under test or in rescue, it is answered BUSY_TEST or RETRY; and one that is still held
it leaves as it is. Rules: R155, R156, R164. -/
def Obligations.OrderHoldsAndReleases : Prop :=
  (∀ (i : Instr) (s : State) (n : PortIx) (op : Op) (h : ReqHdr) (pl : List Byte) (tr : Word) (look : Lookup),
    asRequest i = some (n, op, h, pl, tr, look) → isData op = true → s.chip.Admits n.val (rxOf op h pl tr look) →
    (∃ q ∈ (s.chip.port n.val).reqs, isMember q.op = true ∧ q.streamN = h.stream.toNat ∧
      (q.op = .fence ∨ h.ordered = true ∧ q.hdr.ordered = true)) →
    ∃ t r, exec i s = .next t ∧ (t.chip.port n.val).req? h.tag.toNat = some r ∧ r.op = op ∧ r.hdr = h ∧ r.phase = .held ∧
      t.chip.xbr = s.chip.xbr ∧ t.chip.slices = s.chip.slices ∧ t.mem = s.mem) ∧
  (∀ (s : State) (n : PortIx) (tag : Fin 1024) (r : Req), s.chip.live = true → (s.chip.port n.val).rxq = [] →
    (s.chip.port n.val).req? tag.val = some r → r.phase = .held → isData r.op = true →
    ((s.chip.port n.val).isHeld tag.val = true → exec (.orderedRelease n tag) s = .next s) ∧
    ((s.chip.port n.val).isHeld tag.val = false → s.chip.offerCheck r.parts = none →
      ∃ t r', exec (.orderedRelease n tag) s = .next t ∧ (t.chip.port n.val).req? tag.val = some r' ∧ r'.phase = .active ∧
        r'.left = r.parts.length ∧ r'.hdr = r.hdr ∧ t.mem = s.mem ∧
        t.chip.xbr.pkts = s.chip.xbr.pkts ++
          r.parts.map (fun q => ⟨.req, n.val, epSlice q.row.c, .part { q with born := s.chip.keep }⟩)) ∧
    (∀ st hint, (s.chip.port n.val).isHeld tag.val = false → s.chip.offerCheck r.parts = some (st, hint) → r.stale = false →
      ∃ t x rest, exec (.orderedRelease n tag) s = .next t ∧ (t.chip.port n.val).req? tag.val = none ∧
        (t.chip.port n.val).txq = (s.chip.port n.val).txq ++ x :: rest ∧ x.hdr = r.hdr ∧ x.status = st ∧ x.arg = hint ∧ t.mem = s.mem))

/-- A FENCE that passes admission is held, its stream expects the FENCE's own SEQ next and is whole again, and every earlier member of the
stream is marked as before it. FENCE_COMPLETE, with no earlier member left, answers OK; with one left it changes nothing. A FLUSH that
passes admission and that nothing holds sends a walk of the window's range to each of the 64 slices; it stays active until 64 walks have
ended. Rules: R164, R165, R246. -/
def Obligations.FencesAndFlushes : Prop :=
  ((∀ (s : State) (n : PortIx) (h : ReqHdr), s.chip.Admits n.val (rxOf .fence h [] 0 {}) →
     ∃ t r, exec (.fence n h) s = .next t ∧ (t.chip.port n.val).req? h.tag.toNat = some r ∧ r.op = .fence ∧ r.hdr = h ∧ r.phase = .held ∧
       ((t.chip.port n.val).stream h.stream.toNat).exp = h.seq ∧ ((t.chip.port n.val).stream h.stream.toNat).broken = false ∧
       (∀ q ∈ (t.chip.port n.val).reqs, q.hdr.tag ≠ h.tag → isMember q.op = true → q.streamN = h.stream.toNat → q.fenced = true) ∧
       t.chip.xbr = s.chip.xbr ∧ t.mem = s.mem) ∧
   (∀ (s : State) (n : PortIx) (tag : Fin 1024) (r : Req), s.chip.live = true → (s.chip.port n.val).rxq = [] →
     (s.chip.port n.val).req? tag.val = some r → r.op = .fence → r.phase = .held →
     ((s.chip.port n.val).isHeld tag.val = true → exec (.fenceComplete n tag) s = .next s) ∧
     ((s.chip.port n.val).isHeld tag.val = false → r.stale = false →
       ∃ t x rest, exec (.fenceComplete n tag) s = .next t ∧ (t.chip.port n.val).req? tag.val = none ∧ t.mem = s.mem ∧
         (t.chip.port n.val).txq = (s.chip.port n.val).txq ++ x :: rest ∧ x.op = .fence ∧ x.hdr = r.hdr ∧ x.status = .ok ∧
         x.ownsTag = true))) ∧
  (∀ (s : State) (n : PortIx) (h : ReqHdr), s.chip.Admits n.val (rxOf .flush h [] 0 {}) → NotHeld (s.chip.port n.val) h →
     ∃ t r, exec (.flush n h) s = .next t ∧ (t.chip.port n.val).req? h.tag.toNat = some r ∧ r.op = .flush ∧ r.hdr = h ∧ r.phase = .active ∧
       r.left = 64 ∧ t.chip.xbr.pkts = s.chip.xbr.pkts ++ (below 64).map (fun c => ⟨.req, n.val, epSlice c, .walk
         { port := n.val, tag := h.tag.toNat, base := r.winBase, last := r.winEnd, inval := natBit h.subop.toNat 6, start := 0, left := 0
           cls := (s.chip.port n.val).cls }⟩) ∧
       t.chip.slices = s.chip.slices ∧ t.mem = s.mem)

/-- The requests that their port answers from what it knows: NOP_CREDIT with the units it counts as held by the host once the request's own
are spent, JOB_STATUS with the state of the job it names, JOB_CANCEL likewise. A JOB_CANCEL that finds the job running (JSTATE 3) shows it
cancelling and sets its context to cancel at the next boundary, and one that waits there for a test ends at once; a job that waits or is
held (1, 2) ends at once, ABORTED with DONE 0, its answer after the JOB_CANCEL's; any other state is shown and nothing changes. The answer
is OK and waits for hand-off. An MGMT_CMD that passes its checks goes to MGT on the management channel with its parameters, and stands among
the admitted requests as active. That an overdrawn RSP pool is shown as 0 units is the model's own choice (DESIGN CHOICE, log entry 49).
Rules: R109, R111, R114, R115, R124, R127. -/
def Obligations.PortAnswersQueriesAndPassesCommands : Prop :=
  ((∀ (s : State) (n : PortIx) (h : ReqHdr), s.chip.Admits n.val (rxOf .nopCredit h [] 0 {}) →
     ∃ t x, exec (.nopCredit n h) s = .next t ∧ (t.chip.port n.val).txq = (s.chip.port n.val).txq ++ [x] ∧ x.hdr = h ∧ x.status = .ok ∧
       x.data = rspData { s.chip.port n.val with
         heldReq := (s.chip.port n.val).heldReq - 1, heldRsp := (s.chip.port n.val).heldRsp - 2 }.creditData ∧
       (t.chip.port n.val).reqs = (s.chip.port n.val).reqs ∧ OnlyPort s t n.val) ∧
   (∀ (s : State) (n : PortIx) (h : ReqHdr) (pl : List Byte), s.chip.Admits n.val (rxOf .jobStatus h pl 0 {}) →
     ∃ t x, exec (.jobStatus n h pl) s = .next t ∧ (t.chip.port n.val).txq = (s.chip.port n.val).txq ++ [x] ∧ x.hdr = h ∧ x.status = .ok ∧
       x.data = rspData (queryData (s.chip.jobState n.val (jobJtag (rxOf .jobStatus h pl 0 {}).payload))) ∧
       (t.chip.port n.val).reqs = (s.chip.port n.val).reqs ∧ OnlyPort s t n.val) ∧
   (∀ (s : State) (n : PortIx) (h : ReqHdr) (pl : List Byte), s.chip.Admits n.val (rxOf .jobCancel h pl 0 {}) →
     let jtag := jobJtag (rxOf .jobCancel h pl 0 {}).payload
     let js := s.chip.jobState n.val jtag
     let answers (t : State) (st : Nat × Nat × Nat × Nat) (rest : List TxRsp) : Prop := ∃ x,
       (t.chip.port n.val).txq = (s.chip.port n.val).txq ++ x :: rest ∧ x.hdr = h ∧ x.status = .ok ∧ x.data = rspData (queryData st)
     (∀ p i j, jtag ≠ h.tag.toNat → js.1 = 3 → s.chip.jobOf n.val jtag = some (p, i, j) → (s.chip.press p).ctxs.look i = some j →
       ∃ t, exec (.jobCancel n h pl) s = .next t ∧ answers t (4, j.done, 0, j.lostblk) [] ∧ t.mem = s.mem ∧
         (t.chip.press p).ctxs.look i = some (if j.waitTest && (s.chip.press p).mode == .normal
           then { j with cancel := true, ended := true, status := .aborted, waitTest := false, waitBuf := false }
           else { j with cancel := true })) ∧
     (∀ r, js.1 = 1 ∨ js.1 = 2 → (s.chip.port n.val).req? jtag = some r → r.stale = false →
       ∃ t y rest, exec (.jobCancel n h pl) s = .next t ∧ answers t (4, 0, 0, 0) (y :: rest) ∧ t.mem = s.mem ∧
         y.hdr = r.hdr ∧ y.status = .aborted ∧ y.data = rspData (jobData 0 5 0 0) ∧ (t.chip.port n.val).req? jtag = none) ∧
     (js.1 ≠ 1 → js.1 ≠ 2 → js.1 ≠ 3 → ∃ t, exec (.jobCancel n h pl) s = .next t ∧ answers t js [] ∧
       (t.chip.port n.val).reqs = (s.chip.port n.val).reqs ∧ OnlyPort s t n.val))) ∧
  (∀ (s : State) (n : PortIx) (h : ReqHdr) (pl : List Byte), s.chip.live = true → (s.chip.port n.val).canSend = true →
     (mgtReqCost h + 9 : Int) ≤ (s.chip.port n.val).heldMgt → (s.chip.port n.val).badOp (rxOf .mgmtCmd h pl 0 {}) = none →
     s.chip.checkAccess n.val (rxOf .mgmtCmd h pl 0 {}) = none →
     ∃ t r, exec (.mgmtCmd n h pl) s = .next t ∧ (t.chip.port n.val).req? h.tag.toNat = some r ∧ r.op = .mgmtCmd ∧ r.phase = .active ∧
       r.level = h.priv.toNat ∧
       t.chip.xbr.pkts = s.chip.xbr.pkts ++ [⟨.mgt, n.val, epMgt, .mgmtCmd n.val h.tag.toNat (rxOf .mgmtCmd h pl 0 {}).payload⟩] ∧
       (t.chip.port n.val).heldMgt = (s.chip.port n.val).heldMgt - (mgtReqCost h + 9 : Int) ∧ t.mem = s.mem)

/-- A job (FILL, COPY, RANGE_CRC) that passes admission, that nothing holds and that finds no other waiting before it: where its press has a
free context and it wins the allocator's round-robin it takes one, which holds its ranges, pattern, seed and class, its packet goes to the
press and it is active; where the press has none, or another port wins it, it joins the job-wait queue. With every press failed it is
answered ABORTED with DONE 0, and one whose press is quiescing or under test BUSY_TEST. Rules: R134, R323, R324, R325, R343. -/
def Obligations.JobsTakeContexts : Prop :=
  ∀ (i : Instr) (s : State) (n : PortIx) (op : Op) (h : ReqHdr) (pl : List Byte) (tr : Word) (look : Lookup),
    asRequest i = some (n, op, h, pl, tr, look) → isJob op = true → s.chip.Admits n.val (rxOf op h pl tr look) →
    NotHeld (s.chip.port n.val) h → (s.chip.port n.val).jobWait = [] →
    let seek := s.chip.seekCtx n.val h.tag.toNat
    let wins := s.chip.winsCtx n.val h.tag.toNat
    let answered (t : State) (st : Status) (arg : Nat) (data : List Byte) : Prop := ∃ x, t.mem = s.mem ∧
      (t.chip.port n.val).reqs = (s.chip.port n.val).reqs ∧ (t.chip.port n.val).txq = (s.chip.port n.val).txq ++ [x] ∧
      x.hdr = h ∧ x.status = st ∧ x.arg = arg ∧ x.data = rspData data
    (∀ p, seek = .free p → wins = true → s.chip.jobOf n.val h.tag.toNat = none →
      ∃ t r k j, exec i s = .next t ∧ (t.chip.port n.val).req? h.tag.toNat = some r ∧ r.op = op ∧ r.hdr = h ∧ r.phase = .active ∧
        t.chip.jobOf n.val h.tag.toNat = some (p, k, j) ∧ j.released = true ∧ j.dst = startAddr h ∧
        j.len = jobLen (rxOf op h pl tr look).payload ∧ j.src = jobSrc (rxOf op h pl tr look).payload ∧
        j.wins = s.chip.windowSet ∧ j.cls = (s.chip.port n.val).cls ∧
        t.chip.xbr.pkts = s.chip.xbr.pkts ++ [⟨.req, n.val, epPress p, .job k⟩] ∧ t.mem = s.mem) ∧
    (seek = .wait ∨ (∃ p, seek = .free p) ∧ wins = false →
      ∃ t r, exec i s = .next t ∧ (t.chip.port n.val).req? h.tag.toNat = some r ∧ r.phase = .waitJob ∧
        (t.chip.port n.val).jobWait = [h.tag.toNat] ∧ t.chip.presses = s.chip.presses ∧ t.chip.xbr = s.chip.xbr) ∧
    (seek = .noPress → s.chip.jobOf n.val h.tag.toNat = none → ∃ t, exec i s = .next t ∧ answered t .aborted 0 (jobData 0 5 0 0)) ∧
    (seek = .tested → s.chip.jobOf n.val h.tag.toNat = none → ∃ t, exec i s = .next t ∧ answered t .busyTest s.chip.fieldHint [])

/-- The way of a response out of the stack. REQUEST_COMPLETE moves a request whose whole answer is staged to the transmit queue of its
channel, with its status and data, and frees its place among the admitted; an answer of an earlier session is discarded. RESPONSE_HANDOFF
hands the first waiting response of the management channel, else of the RSP channel, to the adapter: its space is free and its packet is
among those sent. Where a port paces and the slots of its run have carried their share of DXP bytes the response stays and only a grant or
PAD goes out; with none waiting a grant that is due goes, else a PAD word. RSP_SPACE_RESERVE gives the space of the staging buffer to an
answer that waits for it at the port, which then waits for hand-off, or to a request that waits for it at check 8; JOB_CONTEXT_GRANT gives a
free context of a press to the port that its round robin finds, whose waiting job takes it. Rules: R88, R96, R127, R128, R134, R156, R324,
R511. -/
def Obligations.ResponsesLeaveAndWaitersTakeSpace : Prop :=
  ((∀ (s : State) (n : PortIx) (tag : Fin 1024) (r : Req), s.chip.live = true → (s.chip.port n.val).req? tag.val = some r → r.phase = .staged →
     (s.chip.port n.val).rxq = [] →
     ∃ t, exec (.requestComplete n tag) s = .next t ∧ (t.chip.port n.val).req? tag.val = none ∧ t.mem = s.mem ∧
       (r.stale = true → (t.chip.port n.val).txq = (s.chip.port n.val).txq ∨ breaks r.op r.status = true) ∧
       (r.stale = false → ∃ x rest, (if r.op = .mgmtCmd then (t.chip.port n.val).txMgt = (s.chip.port n.val).txMgt ++ x :: rest
           else (t.chip.port n.val).txq = (s.chip.port n.val).txq ++ x :: rest) ∧
         x.op = r.op ∧ x.hdr = r.hdr ∧ x.status = r.status ∧ x.arg = r.arg ∧ x.data = rspData r.data ∧ x.rspCost = r.rspCost ∧
         x.ownsTag = true ∧ (breaks r.op r.status = false → rest = []))) ∧
   (∀ (s : State) (n : PortIx), s.chip.live = true → (s.chip.port n.val).canSend = true → s.chip.halted (fltHpa n.val) = false →
     (∀ x rest, ((s.chip.port n.val).txMgt = [] ∧ (s.chip.port n.val).txq = x :: rest ∨ (s.chip.port n.val).txMgt = x :: rest) →
       ∃ t, exec (.responseHandoff n) s = .next t ∧
         ((s.chip.port n.val).mayHand x = true →
           TxPacket.response (rspHeader x) x.data (if x.e2e then some x.trailer else none) ∈ (t.chip.port n.val).lastTx ∧
           (t.chip.port n.val).rspUsed = (s.chip.port n.val).rspUsed - x.rspCost ∧
           (if (s.chip.port n.val).txMgt = [] then (t.chip.port n.val).txq = rest else (t.chip.port n.val).txMgt = rest)) ∧
         ((s.chip.port n.val).mayHand x = false →
           (t.chip.port n.val).txq = (s.chip.port n.val).txq ∧ (t.chip.port n.val).txMgt = (s.chip.port n.val).txMgt ∧
           (t.chip.port n.val).rspUsed = (s.chip.port n.val).rspUsed ∧
           ∀ y ∈ (t.chip.port n.val).lastTx, y = .pad 0 ∨ ∃ w, y = .grant w)) ∧
     (let p := s.chip.port n.val
      p.txMgt = [] → p.txq = [] →
      (p.pendReq < 32 → p.pendRsp < 32 → p.pendMgt < 32 → exec (.responseHandoff n) s =
        .next (s.onChip (fun c => c.onPort n.val (fun p => { p with lastTx := [.pad 0], slots := p.slots.padOut })))) ∧
      (32 ≤ p.pendReq ∨ 32 ≤ p.pendRsp ∨ 32 ≤ p.pendMgt → p.slots.opens 8 = true → exec (.responseHandoff n) s =
        .next (s.onChip (fun c => c.onPort n.val (fun p => { p with
          heldReq := p.heldReq + p.pendReq, heldRsp := p.heldRsp + p.pendRsp, heldMgt := p.heldMgt + p.pendMgt
          pendReq := 0, pendRsp := 0, pendMgt := 0
          lastTx := [.grant (grantHeader p.pendReq p.pendRsp p.pendMgt)], slots := p.slots.spend 8 }))))))) ∧
  ((∀ (s : State) (n : PortIx) (x : TxRsp), s.chip.live = true → (s.chip.port n.val).ansWait = some x →
     x.rspCost ≤ (s.chip.port n.val).rspFree → x.op ≠ .mgmtCmd → (s.chip.port n.val).rxq = [] →
     ∃ t, exec (.rspSpaceReserve n) s = .next t ∧ (t.chip.port n.val).ansWait = none ∧
       (t.chip.port n.val).txq = (s.chip.port n.val).txq ++ [x] ∧
       (t.chip.port n.val).rspUsed = (s.chip.port n.val).rspUsed + x.rspCost ∧ OnlyPort s t n.val) ∧
   (∀ (s : State) (n : PortIx) (r : Req), s.chip.live = true → (s.chip.port n.val).ansWait = none → (s.chip.port n.val).rxq = [] →
     (s.chip.port n.val).reqs.find? (fun q => q.phase == .waitRsp) = some r → r.rspCost ≤ (s.chip.port n.val).rspFree →
     (s.chip.port n.val).isHeld r.tagN = true → r.gap = false → isData r.op = true → (s.chip.port n.val).req? r.tagN = some r →
     ∃ t, exec (.rspSpaceReserve n) s = .next t ∧ (t.chip.port n.val).req? r.tagN = some { r with phase := .held } ∧
       (t.chip.port n.val).rspUsed = (s.chip.port n.val).rspUsed + r.rspCost ∧ OnlyPort s t n.val) ∧
   (∀ (s : State) (p : PressIx) (n tag : Nat) (r : Req), s.chip.live = true →
     roundRobin 32 (s.chip.press p.val).allocRr (s.chip.asking p.val) = some n → (s.chip.port n).jobWait = [tag] →
     (s.chip.port n).req? tag = some r → isJob r.op = true → s.chip.seekCtx n tag = .free p.val → (s.chip.port n).rxq = [] →
     s.chip.jobOf n tag = none →
     ∃ t k j, exec (.jobContextGrant p) s = .next t ∧ (t.chip.port n).jobWait = [] ∧ t.chip.jobOf n tag = some (p.val, k, j) ∧
       j.dst = startAddr r.hdr ∧ j.len = jobLen r.payload ∧ (t.chip.press p.val).allocRr = n))

/-- XBR_PACKET_ACCEPT takes the packet that its destination grants: the packet leaves its queue, and what it carries arrives. A part or a
walk joins the slice's normal lane with the state of its targets at that moment, a granule operation its lock lane, each with the next
arrival number; a job joins the packets of its press; a part's response joins the results of its request, whose answer is staged when all
parts are there; the end of a walk counts; a granule's data waits at its press; a job's or a management command's final response is staged
at its port; a management command reaches MGT, which takes it while it can. Rules: R138, R266, R267, R268, R270, R271, R340. -/
def Obligations.PacketsArrive : Prop :=
  ∀ (s : State) (vc : Vc) (dst : Fin 113) (k : Nat) (x : Packet), s.chip.live = true → s.chip.Calm →
    s.chip.grantPkt vc dst.val = some (k, x) →
    ∃ t more, exec (.xbrPacketAccept vc dst) s = .next t ∧ t.chip.xbr.pkts = listDel s.chip.xbr.pkts k ++ more ∧ t.mem = s.mem ∧
      ((∀ p res, x.body ≠ .notice p res) → more = []) ∧
      (let sl := s.chip.slice (dst.val - 32)
       let sl' := t.chip.slice (dst.val - 32)
       (∀ r, x.body = .part r → sl'.inBuf = sl.inBuf ++ [(sl.arr, .op { r with deg := s.chip.rowDegraded r.row })] ∧ sl'.arr = sl.arr + 1) ∧
       (∀ w, x.body = .walk w → sl'.arr = sl.arr + 1 ∧ sl'.inBuf = sl.inBuf ++ [(sl.arr, .walk { w with
         st := if s.chip.windowInRescue (dst.val - 32) w.base w.last then none else some (s.chip.flushStatus (dst.val - 32) w.base w.last) })]) ∧
       (∀ g, x.body = .gran g → sl'.lockLane = sl.lockLane ++ [(sl.arr, g)] ∧ sl'.arr = sl.arr + 1)) ∧
      (∀ i, x.body = .job i → (t.chip.press (dst.val - 96)).jobBuf = (s.chip.press (dst.val - 96)).jobBuf ++ [i]) ∧
      (∀ n tag part res r, x.body = .partRsp n tag part res → (s.chip.port n).req? tag = some r → ∃ r', (t.chip.port n).req? tag = some r' ∧
        r'.hdr = r.hdr ∧ r'.results = r.results ++ res ∧ r'.left = r.left - 1 ∧
        (r.left ≤ 1 → r'.phase = .staged ∧ (r'.status, r'.arg, r'.data) = { r with results := r.results ++ res, left := r.left - 1 }.answer) ∧
        (1 < r.left → r'.phase = r.phase)) ∧
      (∀ n tag st r, x.body = .walkRsp n tag st → (s.chip.port n).req? tag = some r →
        (t.chip.port n).req? tag = some { r with left := r.left - 1, status := r.status.merge st }) ∧
      (∀ p res, x.body = .granData p res → (t.chip.press p).arrive = (s.chip.press p).arrive ++ [res]) ∧
      (∀ n tag st arg data r, x.body = .jobRsp n tag st arg data ∨ x.body = .mgmtRsp n tag st arg data → (s.chip.port n).req? tag = some r →
        (t.chip.port n).req? tag = some { r with phase := .staged, status := st, arg := arg, data := data }) ∧
      (∀ n tag bytes, x.body = .mgmtCmd n tag bytes →
        ∃ m : MgtPkt, m.path = 0 ∧ m.port = n ∧ m.tag = tag ∧ m.bytes = bytes ∧ (m ∈ t.chip.mgt.rsm ∨ m ∈ t.chip.mgt.queue ∨ m ∈ t.chip.mgt.buf))

/-! ### Slices -/

/-- A part that a slice serves from a line it holds. Taken from the head of the normal lane by SLICE_REQUEST, with no SRAM error or a
correctable one and no older request for its blocks, or from the conflict queue by CONFLICT_QUEUE_RETRY, a read whose sectors are all valid
answers its port with their data; a write, masked write, ATOM or ACCUM under the write-back policy leaves in the line what the ALU makes of
each block, dirty, and answers the port, an ATOM with the old value; both with status OK, or DEGRADED where its pseudo-channel was degraded
when the part reached the slice or is in rescue. Nothing is read from or written to the core dies. Rules: R138, R218, R220, R222, R227,
R312. -/
def Obligations.SliceServesHits : Prop :=
  ∀ (s : State) (k : SliceIx) (r : SliceReq) (idx : Nat) (l : Line) (i : Instr), s.chip.live = true → s.chip.Calm → s.chip.halted (fltDct k.val) = false →
    r.row.c = k.val → s.chip.Serves (.host r) → (s.chip.slice k.val).Resident r.row idx l → (r.blocks.map (·.ix)).Nodup →
    (∀ a ∈ r.blocks, a.blk < 16 ∧ natBit l.valid a.blk = true) →
    ((∃ err seq rest, i = .sliceRequest k err ∧ (err = .none ∨ err = .dataCe ∨ err = .tagCe) ∧
        (s.chip.slice k.val).inBuf = (seq, .op r) :: rest ∧ (s.chip.slice k.val).cq.length < 32 ∧
        (s.chip.slice k.val).standsBehind seq (.host r) = false) ∨
     (∃ ci seq why, i = .conflictQueueRetry k ci ∧ (s.chip.slice k.val).cq[ci.val]? = some (seq, .host r, why) ∧
       (s.chip.slice k.val).olderWaits seq r.row = false)) →
    let st := Status.ok.degrade (s.chip.opDegraded (.host r))
    (r.kind = .rd → ∃ t, exec i s = .next t ∧ t.chip.xbr.pkts = s.chip.xbr.pkts ++ [⟨.rsp, epSlice k.val, r.port, .partRsp r.port r.tag r.part
        (r.blocks.map (fun a => ⟨a.ix, st, l.sect a.blk⟩))⟩] ∧ t.chip.chcs = s.chip.chcs ∧ t.mem = s.mem) ∧
    (r.kind ≠ .rd → (OpSrc.host r).policy (s.chip.slice k.val) = 0 → (r.blocks.map (·.blk)).Nodup →
      ∃ t l', exec i s = .next t ∧ t.chip.xbr.pkts = s.chip.xbr.pkts ++ [⟨.rsp, epSlice k.val, r.port, .partRsp r.port r.tag r.part
        (r.blocks.map (fun a => ⟨a.ix, st, BitVec.ofNat 512 (aluBlock r.kind a (l.sect a.blk)).2⟩))⟩] ∧
        (t.chip.slice k.val).lines.look idx = some l' ∧
        (∀ a ∈ r.blocks, l'.sect a.blk = (aluBlock r.kind a (l.sect a.blk)).1 ∧ natBit l'.valid a.blk = true ∧
          (r.kind ≠ .wrMasked ∨ a.mask ≠ 0 → natBit l'.dirty a.blk = true)) ∧
        t.chip.chcs = s.chip.chcs ∧ t.mem = s.mem)

/-- What waits in a slice. A part that must wait goes from the head of its lane to the conflict queue with its reason: a rescue of its row,
an older request for its blocks, a busy sector, a line lock, no staging register. A FLUSH walk joins the sweep where it stands, at line 0
where none is under way, or waits where four are. EVICTION_BUFFER_FREE frees a buffer all of whose blocks are queued, and no other.
FILL_RETURN installs the result at the head of the return queue in its line, clean, and frees the sector; one that the decoder lost leaves
the line as it is; and the read that waited for the sector answers with what was read. A slice that has met a fatal condition stands still:
none of these changes it. Rules: R226, R227, R229, R231, R234, R236, R582. -/
def Obligations.SliceBuffersMove : Prop :=
  ∀ (s : State) (k : SliceIx), s.chip.live = true → s.chip.Calm →
    (s.chip.halted (fltDct k.val) = false →
      (∀ (r : SliceReq) (err : SramErr) (seq : Nat) (rest : List (Nat × InItem)),
        (s.chip.slice k.val).inBuf = (seq, .op r) :: rest → (s.chip.slice k.val).cq.length < 32 → r.row.c = k.val →
        let waits (why : CqWhy) : Prop := ∃ t, exec (.sliceRequest k err) s = .next t ∧ t.mem = s.mem ∧ t.chip.chcs = s.chip.chcs ∧
          t.chip.slice k.val = { s.chip.slice k.val with inBuf := rest, cq := (s.chip.slice k.val).cq ++ [(seq, .host r, why)] }
        (s.chip.served (bankIndex r.row) = true → s.chip.rowWaits r.row = true → waits .rescue) ∧
        (s.chip.served (bankIndex r.row) = false ∨ s.chip.rowWaits r.row = false →
          ((s.chip.slice k.val).standsBehind seq (.host r) = true → waits .order) ∧
          (∀ why, (s.chip.slice k.val).standsBehind seq (.host r) = false → (s.chip.slice k.val).mustWait (.host r) = some why → waits why))) ∧
      (∀ (w : Walk) (err : SramErr) (seq : Nat) (rest : List (Nat × InItem)),
        (s.chip.slice k.val).inBuf = (seq, .walk w) :: rest → (s.chip.slice k.val).cq.length < 32 →
        ∃ t, exec (.sliceRequest k err) s = .next t ∧ (t.chip.slice k.val).inBuf = rest ∧
          ((s.chip.slice k.val).walks.length < 4 →
            let pos := if (s.chip.slice k.val).walks = [] then 0 else (s.chip.slice k.val).walkPos
            (t.chip.slice k.val).walkPos = pos ∧
            (t.chip.slice k.val).walks = (s.chip.slice k.val).walks ++ [{ w with start := pos, left := 2048 }]) ∧
          (4 ≤ (s.chip.slice k.val).walks.length → (t.chip.slice k.val).walks = (s.chip.slice k.val).walks ∧
            (t.chip.slice k.val).walkQ = (s.chip.slice k.val).walkQ ++ [w])) ∧
      (∀ (i : Fin 4) (e : Evb), (s.chip.slice k.val).evbs.look i.val = some e →
        ((∀ b ∈ e.blocks, b.1 ∈ e.sent) → (∀ x ∈ (s.chip.slice k.val).cq, x.2.2 ≠ .evb) → (s.chip.slice k.val).granWait = [] →
          ∃ t, exec (.evictionBufferFree k i) s = .next t ∧
            t.chip.slice k.val = { s.chip.slice k.val with evbs := (s.chip.slice k.val).evbs.del i.val }) ∧
        ((∃ b ∈ e.blocks, b.1 ∉ e.sent) →
          ∃ t, exec (.evictionBufferFree k i) s = .next t ∧ t.chip.slice k.val = s.chip.slice k.val))) ∧
    (s.chip.halted (fltDct k.val) = true → s.chip.inStep 9 = false → ∀ i : Instr, (∃ err, i = .sliceRequest k err) ∨ (∃ j, i = .evictionBufferFree k j) ∨
      (∃ j, i = .conflictQueueRetry k j) ∨ i = .fillReturn k → exec i s = .next s) ∧
    (∀ (x : RetRes) (rest : List RetRes) (j idx : Nat) (l : Line), s.chip.halted (fltDct k.val) = false → s.chip.inStep 9 = false →
      (s.chip.slice k.val).ret = x :: rest → x.origin = .fill j → x.home.c = k.val → (s.chip.slice k.val).Resident x.home idx l →
      ((s.chip.slice k.val).ops = [] → ∃ t, exec (.fillReturn k) s = .next t ∧ (t.chip.slice k.val).ret = rest ∧
        (t.chip.slice k.val).sectBusy x.home x.j = false ∧
        (t.chip.slice k.val).lines.look idx = some (if x.status.flagged then l else { l.putSect x.j x.data false with age := 0 })) ∧
      (∀ (i : Nat) (r : SliceReq) (a : BlockAcc) (st : Status) (d : Block),
        (s.chip.slice k.val).ops = [(i, ⟨.host r, [⟨a, .fill, st, d⟩]⟩)] → r.row = x.home → r.kind = .rd → a.blk = x.j →
        ∃ t, exec (.fillReturn k) s = .next t ∧ (t.chip.slice k.val).ops = [] ∧
          t.chip.xbr.pkts = s.chip.xbr.pkts ++ [⟨.rsp, epSlice k.val, r.port, .partRsp r.port r.tag r.part
            [if x.status.flagged then ⟨a.ix, x.status, 0⟩
             else ⟨a.ix, x.status.degrade (s.chip.opDegraded (.host r)), x.data⟩]⟩]))

/-- Line locks. LINE_LOCK_GRANT locks the row of the oldest granule operation whose line is free, which leaves the lock lane, its accesses
counted AGED if they were not; with none it locks the row that the racking context of the slice's die asks for, and charges it to class 7.
LINE_LOCK_RELEASE frees the lock of a press whose accesses are all served or queued, and sends the press its notice; and that of a racking
whose row has been copied, which goes on to the next row of its bank, or ends: a retired row is on its spare row from then on, and the
RACKING of a retired bank's entry falls. That BWR_CNT_AGED counts a granule operation by its blocks is the model's reading (DEDUCED, log
entry 54), and so is the moment from which a racking context's age counts (DEDUCED, log entry 52). Rules: R295, R296, R297, R298, R476. -/
def Obligations.LineLocksMove : Prop :=
  ∀ (s : State) (k : SliceIx), s.chip.live = true → s.chip.Calm →
    (s.chip.halted (fltDct k.val) = false →
      (∀ i seq g, s.chip.grantable k.val = some (i, seq, g) → ∃ t, exec (.lineLockGrant k) s = .next t ∧
        (t.chip.slice k.val).locks = (s.chip.slice k.val).locks ++ [(g.row.p, g.row.b, g.row.r, .press g.press)] ∧
        (t.chip.slice k.val).lockLane = listDel (s.chip.slice k.val).lockLane i ∧ t.mem = s.mem ∧
        t.chip.bwr.cntAged = (if g.aged then s.chip.bwr.cntAged else satAdd max32 s.chip.bwr.cntAged g.blocks.length)) ∧
      (∀ w, s.chip.grantable k.val = none → s.chip.rackGrantable k.val (k.val / 4) = some w → ∃ t, exec (.lineLockGrant k) s = .next t ∧
        (t.chip.slice k.val).locks = (s.chip.slice k.val).locks ++ [(w.p, w.b, w.r, .rack (k.val / 4))] ∧
        (t.chip.die (k.val / 4)).lockWait = none ∧ t.chip.cls 7 = (s.chip.cls 7).charge s.chip.bwr.inForce 32)) ∧
    (∀ p : PressIx, (∃ x ∈ (s.chip.slice k.val).locks, x.2.2.2 = .press p.val) → (s.chip.slice k.val).granQueued p.val = true →
      ∃ t res, exec (.lineLockRelease k (.press p)) s = .next t ∧
        (t.chip.slice k.val).locks = (s.chip.slice k.val).locks.filter (fun x => x.2.2.2 != .press p.val) ∧
        t.chip.xbr.pkts = s.chip.xbr.pkts ++ [⟨.rsp, epSlice k.val, epPress p.val, .notice p.val res⟩] ∧ t.mem = s.mem) ∧
    (∀ (d : Fin 16) (j : RackJob) (r : RackRow), (s.chip.die d.val).cur = some j → (s.chip.die d.val).rowOut = some r → j.bank / 32 = k.val →
      r.left = 0 → ∃ t, exec (.lineLockRelease k (.rack d)) s = .next t ∧ t.mem = s.mem ∧
        (t.chip.slice k.val).locks = (s.chip.slice k.val).locks.filter (fun x => x.2.2.2 != .rack d.val) ∧
        (j.kind ≠ .row → j.row + 1 < 49152 → t.chip.die d.val = { s.chip.die d.val with
          rowOut := none, rackSince := s.chip.keep, cur := some { j with copied := j.copied + 1, row := j.row + 1 } }) ∧
        (j.kind = .row ∨ 49152 ≤ j.row + 1 → t.chip.die d.val = { s.chip.die d.val with rowOut := none, rackSince := s.chip.keep, cur := none }) ∧
        (j.kind = .row → j.prev = none → s.chip.inStep 9 = false →
          t.chip.rowmapE j.entry = { valid := true, racking := false, row := j.row }) ∧
        (j.kind = .bank → 49152 ≤ j.row + 1 → s.chip.inStep 9 = false →
          t.chip.remapE j.entry = { s.chip.remapE j.entry with racking := false }))

/-- What sweeps a slice. FLUSH_WALK_STEP passes the line that the sweep has reached: of a walk's window no sector of it is dirty any more,
and none valid under mode 1; the walk has one line less to visit, and at its last answers its port, with the status that its window's banks
gave it. FLUSH_COMPLETE answers a FLUSH whose 64 walks have ended and whose blocks are all queued, with what the walks gave. SLICE_DRAIN
puts a slice with a drain order into DRAINING and writes back and invalidates the lines that are neither busy nor locked nor of a pseudo-
channel in the first step of a rescue, as far as eviction buffers are free; SLICE_DRAIN_END ends the drain of an empty slice in BYPASS_TEST,
or in CHANNEL_TEST for its channel. Rules: R233, R239, R240, R246, R247, R552, R717. -/
def Obligations.SweepsClean : Prop :=
  ∀ (s : State) (k : SliceIx), s.chip.live = true →
    (∀ w : Walk, s.chip.halted (fltDct k.val) = false → (s.chip.slice k.val).walks = [w] → (s.chip.slice k.val).walkQ = [] →
      s.chip.walkHeld k.val = false →
      (∀ l, (s.chip.slice k.val).lines.look (s.chip.slice k.val).walkPos = some l → s.chip.sweepStops k.val l = false) →
      ∃ t, exec (.flushWalkStep k) s = .next t ∧ (t.chip.slice k.val).walkPos = ((s.chip.slice k.val).walkPos + 1) % 2048 ∧
        (t.chip.slice k.val).walks = (if w.left - 1 = 0 then [] else [{ w with left := w.left - 1 }]) ∧
        t.chip.xbr.pkts = s.chip.xbr.pkts ++ (if w.left - 1 = 0 then [⟨.rsp, epSlice k.val, w.port, .walkRsp w.port w.tag
          (w.st.getD (s.chip.flushStatus k.val w.base w.last))⟩] else []) ∧
        ∀ l l' j, (s.chip.slice k.val).lines.look (s.chip.slice k.val).walkPos = some l →
          (t.chip.slice k.val).lines.look (s.chip.slice k.val).walkPos = some l' → j < 16 → natBit l.valid j = true →
          w.covers s.chip.addr.mode k.val l j = true → natBit l'.dirty j = false ∧ (w.inval = true → natBit l'.valid j = false)) ∧
    (∀ (n : PortIx) (tag : Fin 1024) (r : Req), (s.chip.port n.val).req? tag.val = some r → r.op = .flush → r.phase = .active → r.left = 0 →
      r.stale = false → breaks .flush r.status = false → s.chip.flushQueued r.winBase r.winEnd = true → ∃ t x, exec (.flushComplete n tag) s = .next t ∧
        (t.chip.port n.val).txq = (s.chip.port n.val).txq ++ [x] ∧ x.hdr = r.hdr ∧ x.status = r.status ∧
        (t.chip.port n.val).req? tag.val = none) ∧
    (∀ d, s.chip.drainOrder k.val = some d → ((s.chip.slice k.val).mode = .normal ∨ (s.chip.slice k.val).mode = .bypassFailed) →
      ∃ t, exec (.sliceDrain k) s = .next t ∧ (t.chip.slice k.val).mode = .draining ∧ (t.chip.slice k.val).drainFor = d ∧
        (∀ e ∈ (t.chip.slice k.val).lines, e ∈ (s.chip.slice k.val).lines ∧ (s.chip.lineFree k.val e.2 = false ∨
          (e.2.dirtyBlocks ≠ [] ∧ (t.chip.slice k.val).freeEvb = none))) ∧ t.mem = s.mem) ∧
    ((s.chip.onSlice k.val (fun x => { x with mode := .normal })).Calm → (s.chip.slice k.val).mode = .draining → (s.chip.slice k.val).lines = [] → (s.chip.slice k.val).evbs = [] →
      (s.chip.slice k.val).walks = [] → (s.chip.slice k.val).walkQ = [] →
      ((s.chip.slice k.val).drainFor = .channel → s.chip.sliceEmpty k.val = true) →
      ∃ t, exec (.sliceDrainEnd k) s = .next t ∧ t.chip.slice k.val = { s.chip.slice k.val with
        mode := if (s.chip.slice k.val).drainFor = .slice then .bypassTest else .channelTest } ∧ t.mem = s.mem)

/-! ### Pseudo-channels -/

/-- Accesses enter the queues of a pseudo-channel that takes them, in the order of its command FIFO: a write takes an entry of the write
queue, or replaces the queued write of its block; a read takes an entry of the read queue, or is served from the queued write of its block;
with no place for it the head waits. In a cycle in which commands may issue, a selected access issues an ACT for a closed bank, a PRE for
one open at another row, else its WR or RD, which leaves its queue; an MRW or MRR that is selected issues in their order; each command that
issues takes an entry of the retry buffer, a WR with its block scrambled and the lanes of erased symbols low; and with nothing selected both
buses carry NOP. While the ACT_GAP of a throttled die runs no bank opens. IDLE_CLOSE closes a bank whose row no queued access and no group
needs. Rules: R31, R39, R272, R354, R359, R361, R384, R401, R413, R424, R509. -/
def Obligations.QueuesAndIssue : Prop :=
  ∀ (s : State) (k : ChcIx) (p : PcIx), s.chip.live = true →
    let pc := s.chip.pc k.val p.val
    (∀ m rest, s.chip.Calm → pc.fifo = m :: rest → pc.mayTake = true →
      let enters (f : Pc → Pc) : Prop := ∃ t more a g, exec (.commandEnqueue k p) s = .next t ∧ t.mem = s.mem ∧
        t.chip.pc k.val p.val = f { pc with fifo := rest ++ more, seq := pc.seq + 1, rrSlice := a, rrGrp := g }
      let mine : Cmd := { m with seq := pc.seq }
      (m.write = true → (∀ w ∈ pc.wq, w.loc ≠ m.loc) → pc.wq.length < 32 → enters (fun x => { x with wq := pc.wq ++ [mine] })) ∧
      (m.write = true → (∃ w ∈ pc.wq, w.loc = m.loc) → enters (fun x => { x with
        wq := pc.wq.map (fun w => if w.loc = m.loc then { w with data := m.data, poison := m.poison, home := m.home, origin := m.origin } else w) })) ∧
      (m.write = false → (∀ w ∈ pc.wq, w.loc ≠ m.loc) → pc.rq.length < 32 → enters (fun x => { x with rq := pc.rq ++ [mine] })) ∧
      (∀ w, m.write = false → pc.wq.find? (fun w => w.loc == m.loc) = some w → pc.bursts.length < 16 → enters (fun x => { x with
        bursts := pc.bursts ++ [⟨mine, (storedForm m.loc w.poison w.data.toNat).1, (storedForm m.loc w.poison w.data.toNat).2, true, false⟩] })) ∧
      ((∀ w ∈ pc.wq, w.loc ≠ m.loc) → (if m.write then 32 ≤ pc.wq.length else 32 ≤ pc.rq.length) →
        ∃ t, exec (.commandEnqueue k p) s = .next t ∧ t.chip.pc k.val p.val = pc) ∧
      (m.write = false → (∃ w ∈ pc.wq, w.loc = m.loc) → 16 ≤ pc.bursts.length →
        ∃ t, exec (.commandEnqueue k p) s = .next t ∧ t.chip.pc k.val p.val = pc)) ∧
    (∀ (banks : List BankIx) (mode : Bool), pc.mayIssue = true → (s.chip.chc k.val).held = false → pc.script = [] → pc.alert = false →
      (s.chip.chc k.val).retry.length < 64 →
      let busy := banks.map (·.val) ++ if s.chip.actHeld k.val p.val then (below 16).filter (fun b => !pc.openRows.has b) else []
      (s.chip.pick k.val p.val busy = (mode, .none) → ∃ t, exec (.dramCommandIssue k p banks) s = .next t ∧ t.mem = s.mem ∧
        (t.chip.chc k.val).retry = (s.chip.chc k.val).retry ∧ t.chip.pc k.val p.val = { pc.driveNop with wmode := mode }) ∧
      (∀ mr l, s.chip.pick k.val p.val busy = (mode, .mrr) → pc.mrrs = mr :: l →
        ∃ t, exec (.dramCommandIssue k p banks) s = .next t ∧ t.mem = s.mem ∧ (t.chip.pc k.val p.val).mrrs = l ∧
          (t.chip.chc k.val).retry = (s.chip.chc k.val).retry ++ [{ p := p.val, cmd := .mrr mr, access := none, data := 0, check := 0 }]) ∧
      (∀ mr v l, s.chip.pick k.val p.val busy = (mode, .mrw) → pc.mrws = (mr, v) :: l →
        ∃ t, exec (.dramCommandIssue k p banks) s = .next t ∧ t.mem = s.mem ∧ (t.chip.pc k.val p.val).mrws = l ∧
          (t.chip.chc k.val).retry = (s.chip.chc k.val).retry ++ [{ p := p.val, cmd := .mrw mr v, access := none, data := v, check := 0 }]) ∧
      (∀ x : Cand, s.chip.pick k.val p.val busy = (mode, .cmd x) →
        ∃ t e, exec (.dramCommandIssue k p banks) s = .next t ∧ (t.chip.chc k.val).retry = (s.chip.chc k.val).retry ++ [e] ∧ e.p = p.val ∧
          t.mem = s.mem ∧
          (pc.openRows.look x.cmd.loc.b = none → ∃ nr, e.cmd = .act x.cmd.loc.b x.cmd.loc.r nr ∧
            (t.chip.pc k.val p.val).openRows.look x.cmd.loc.b = some (x.cmd.loc.r, nr) ∧ (t.chip.pc k.val p.val).actAt = some s.chip.keep ∧
            (t.chip.chc k.val).cntAct = (s.chip.chc k.val).cntAct.bump) ∧
          (∀ r nr, pc.openRows.look x.cmd.loc.b = some (r, nr) → r ≠ x.cmd.loc.r → e.cmd = .pre x.cmd.loc.b ∧
            (t.chip.pc k.val p.val).openRows = pc.openRows.del x.cmd.loc.b) ∧
          (∀ nr, pc.openRows.look x.cmd.loc.b = some (x.cmd.loc.r, nr) → e.access = some x.cmd ∧
            (if x.cmd.write then
              e.cmd = .wr x.cmd.loc.b x.cmd.loc.j ∧ (t.chip.pc k.val p.val).wq = listDel pc.wq x.idx ∧
              (e.data, e.check) = lanesLow pc.erased
                ((storedForm x.cmd.loc x.cmd.poison x.cmd.data.toNat).1 ^^^ (scrambleMask pc (s.chip.scrOff k.val) x.cmd.loc).1)
                ((storedForm x.cmd.loc x.cmd.poison x.cmd.data.toNat).2 ^^^ (scrambleMask pc (s.chip.scrOff k.val) x.cmd.loc).2)
            else e.cmd = .rd x.cmd.loc.b x.cmd.loc.j ∧ (t.chip.pc k.val p.val).rq = listDel pc.rq x.idx)))) ∧
    (∀ (b : BankIx) (r nr : Nat), pc.openRows.look b.val = some (r, nr) → pc.mayIssue = true → (s.chip.chc k.val).held = false →
      (s.chip.chc k.val).retry.length < 64 → (s.chip.chc k.val).idleClose ≠ 0xFF →
      (∀ m ∈ pc.rq ++ pc.wq, ¬ (m.loc.b = b.val ∧ m.loc.r = r)) → s.chip.groupStays k.val p.val b.val = false →
      ∃ t, exec (.idleClose k p b) s = .next t ∧ (t.chip.pc k.val p.val).openRows = pc.openRows.del b.val ∧
        (t.chip.chc k.val).retry = (s.chip.chc k.val).retry ++ [{ p := p.val, cmd := .pre b.val, access := none, data := 0, check := 0 }])

/-- The retirement of a WR writes its 72 bytes, 64 of data and 8 of check bits, at the place of its block and no other byte, so that the
block reads back as it was sent; the retirement of a RD changes no cell and puts the block as it stands on its way to the decoder, once the
return FIFO has a place for it; any other command acts in the die's command logic alone: ACT opens a row there, PRE closes one and PREA and
REFab all, CLR_ALERT lowers ALERT, REFab moves the refresh counter on and puts the pending settings in force, an MRW writes its register;
and in a command run every command but MRW and MRR is captured in CMD_CAP and does nothing else. READ_BURST_RETURN decodes the block at the
head: without its errors of this read for a block served from a queued write, else as it was received; and a fill or a read of an operation
returns to its slice with the decoder's status and data. The form that a block is stored in at a place decodes CLEAN there, with the block's
data; with one of its 36 symbols wrong it decodes CORRECTED, with the data and that symbol's position; and the poisoned form of a place
decodes POISONED there. Rules: R28, R353, R371, R385, R398, R403, R446, R447, R448, R451. -/
def Obligations.CellsAreWrittenAndRead : Prop :=
  ∀ (s : State) (k : ChcIx) (p : PcIx), s.MemOk → s.chip.live = true → s.chip.Calm →
    let pc := s.chip.pc k.val p.val
    (∀ i e m, (s.chip.chc k.val).firstRetry p.val = some (i, e) → e.access = some m →
      (∀ b j, e.cmd = .wr b j → ∃ t, exec (.retryEntryRetire k p) s = .next t ∧ t.epoch = s.epoch ∧
        (t.chip.chc k.val).retry = listDel (s.chip.chc k.val).retry i ∧
        t.mem.block t.epoch m.loc = (e.data % 2 ^ 512, e.check % 2 ^ 64) ∧
        ∀ a, a < m.loc.addr ∨ m.loc.addr + 72 ≤ a → t.mem.read t.epoch a = s.mem.read s.epoch a) ∧
      (∀ b j, e.cmd = .rd b j → pc.bursts.length < 16 → ∃ t, exec (.retryEntryRetire k p) s = .next t ∧ t.mem = s.mem ∧ t.epoch = s.epoch ∧
        (t.chip.chc k.val).retry = listDel (s.chip.chc k.val).retry i ∧ (t.chip.pc k.val p.val).bursts =
          pc.bursts ++ [⟨m, (s.mem.block s.epoch m.loc).1, (s.mem.block s.epoch m.loc).2, false, false⟩]) ∧
      (∀ b j, e.cmd = .rd b j → 16 ≤ pc.bursts.length → ∃ t, exec (.retryEntryRetire k p) s = .next t ∧ t.mem = s.mem ∧
        t.chip.chc k.val = s.chip.chc k.val)) ∧
    (∀ i e, (s.chip.chc k.val).firstRetry p.val = some (i, e) → (∀ b j, e.cmd ≠ .wr b j ∧ e.cmd ≠ .rd b j) →
      ∃ t, exec (.retryEntryRetire k p) s = .next t ∧ t.mem = s.mem ∧
        (t.chip.chc k.val).retry = listDel (s.chip.chc k.val).retry i ∧
        let captures := (s.chip.chc k.val).capture p.val
        let pc' := t.chip.pc k.val p.val
        let captured := ((pc.mrs.put 0x48 (natBits e.cmd.rowBits 0 16)).put 0x49 (natBits e.cmd.rowBits 16 10)).put 0x4A e.cmd.colBits
        (captures = true → (∀ m v, e.cmd ≠ .mrw m v) → (∀ m, e.cmd ≠ .mrr m) → pc' = { pc with mrs := captured }) ∧
        (captures = false →
          (∀ b r nr, e.cmd = .act b r nr → pc' = { pc with modelRows := pc.modelRows.put b (r, nr) }) ∧
          (∀ b, e.cmd = .pre b → pc' = { pc with modelRows := pc.modelRows.del b, reopens := pc.reopens.del b }) ∧
          (e.cmd = .prea → pc' = { pc with modelRows := [] }) ∧ (e.cmd = .clrAlert → pc' = { pc with alert := false }) ∧
          (∀ m, e.cmd = .mrr m → pc' = pc) ∧
          (∀ m v, e.cmd = .mrw m v → pc' = pc.written m (onLanes v)) ∧
          (e.cmd = .refab → pc'.refCtr = (pc.refCtr + 1) % 8195 ∧ pc'.modelRows = [] ∧
            pc'.changes = (applyChanges pc.changes [] pc.inForce).1 ∧ pc'.inForce = (applyChanges pc.changes [] pc.inForce).2))) ∧
    (∀ (noise : List (Fin 36 × BitVec 16)) (b : Burst) (rest : List Burst), pc.bursts = b :: rest →
      let dq := if b.fwd then (b.data, b.check) else s.chip.receive k.val p.val b.access.loc b.data b.check noise
      let r := decode b.access.loc pc.erased dq.1 dq.2
      ∃ t, exec (.readBurstReturn k p noise) s = .next t ∧ (t.chip.pc k.val p.val).bursts = rest ∧ t.mem = s.mem ∧
        ∀ c, b.access.origin = .fill c ∨ (∃ i ix, b.access.origin = .opRead c i ix) →
          (t.chip.slice c).ret = (s.chip.slice c).ret ++ [⟨b.access.origin, b.access.home, b.access.loc.j, r.outcome.status, r.data⟩]) ∧
    (∀ (l : Phys) (d : Block), l.k < 72 → l.p < 2 → l.b < 16 → l.r < 65536 → l.j < 16 →
      let w := storedForm l false d.toNat
      let z := storedForm l true d.toNat
      decode l [] w.1 w.2 = ⟨.clean, d, []⟩ ∧
      (∀ sym x, sym < 32 → 0 < x → x < 65536 → decode l [] (w.1 ^^^ x * 2 ^ (16 * sym)) w.2 = ⟨.corrected, d, [sym + 4]⟩) ∧
      (∀ sym x, sym < 4 → 0 < x → x < 65536 → decode l [] w.1 (w.2 ^^^ x * 2 ^ (16 * sym)) = ⟨.corrected, d, [sym]⟩) ∧
      z.1 = 0 ∧ (decode l [] z.1 z.2).outcome = .poisoned)

/-- The refresh of a pseudo-channel. A tick of the time base advances it by one cycle and every timer and waiting access with it; in the
fault state the timers go on and the ports stand still. A REFab closes every bank, lowers OWED, begins tRFC and takes an entry of the retry
buffer: REFAB_OPPORTUNISTIC on an idle pseudo-channel that owes one, REFAB_ISSUE for an urgent one, after the last of which a band that
waited takes effect, or, counted apart, for a payment. REFRESH_END ends tRFC, and goes on with a payment; REFRESH_PAYMENT_END ends the
payment, and the band that waited for it takes effect. A band that the die reaches takes effect at once, or waits for a payment or an urgent
refresh. Rules: R368, R369, R370, R371, R374, R377, R398, R399. -/
def Obligations.RefreshKeepsPace : Prop :=
  ∀ (s : State), s.chip.on = true → s.chip.Calm →
    (∃ t, exec .refreshTick s = .next t ∧ t.chip.keep = s.chip.keep + 1 ∧ t.mem = s.mem ∧
      (s.chip.flt.fault = false → ∀ k p, t.chip.pc k p = ((s.chip.pc k p).tick).older (2 + (s.chip.keep + 1) % 2)) ∧
      (s.chip.flt.fault = true → t.chip.ports = s.chip.ports ∧ ∀ k p, t.chip.pc k p = (s.chip.pc k p).tick)) ∧
    ∀ (k : ChcIx) (p : PcIx),
      let pc := s.chip.pc k.val p.val
      let refreshed (t : State) : Prop :=
        (t.chip.pc k.val p.val).owed = pc.owed - 1 ∧ (t.chip.pc k.val p.val).openRows = [] ∧ (t.chip.pc k.val p.val).inRef = true ∧
        (t.chip.chc k.val).cntRef = bump32 (s.chip.chc k.val).cntRef ∧ t.mem = s.mem ∧
        (t.chip.chc k.val).retry = (s.chip.chc k.val).retry ++ [{ p := p.val, cmd := .refab, access := none, data := 0, check := 0 }]
      ((s.chip.chc k.val).retains p.val = false → (s.chip.chc k.val).retry.length < 64 → s.chip.auto (chcGroup k.val) = false →
        pc.mayRefresh = true →
        (pc.paying = false → pc.urgent = 0 → pc.owed ≠ 0 → pc.rq = [] → pc.wq = [] → ∃ t, exec (.refabOpportunistic k p) s = .next t ∧ refreshed t ∧
          (t.chip.chc k.val).cntRefDebt = (s.chip.chc k.val).cntRefDebt) ∧
        (pc.paying = false → pc.urgent ≠ 0 → pc.ppmPend = false →
          (pc.bandPend = none ∨ pc.urgent ≠ 1 → ∃ t, exec (.refabIssue k p) s = .next t ∧ refreshed t ∧
            (t.chip.pc k.val p.val).urgent = pc.urgent - 1) ∧
          (∀ b, pc.bandPend = some b → pc.urgent = 1 → ∃ t, exec (.refabIssue k p) s = .next t ∧ (t.chip.pc k.val p.val).inRef = true ∧
            (t.chip.pc k.val p.val).band = b ∧ (t.chip.pc k.val p.val).bandPend = none)) ∧
        (pc.paying = true → pc.payLeft ≠ 0 → ∃ t, exec (.refabIssue k p) s = .next t ∧ refreshed t ∧
          (t.chip.pc k.val p.val).payLeft = pc.payLeft - 1 ∧ (t.chip.chc k.val).cntRefDebt = bump32 (s.chip.chc k.val).cntRefDebt)) ∧
      (pc.inRef = true → (pc.paying = false ∨ pc.payLeft = 0) →
        ∃ t, exec (.refreshEnd k p) s = .next t ∧ t.chip.pc k.val p.val = { pc with inRef := false }) ∧
      (pc.inRef = true → pc.paying = true → pc.payLeft ≠ 0 → Pc.mayRefresh { pc with inRef := false } = true →
        (s.chip.chc k.val).retains p.val = false → (s.chip.chc k.val).retry.length < 64 → s.chip.auto (chcGroup k.val) = false →
        ∃ t, exec (.refreshEnd k p) s = .next t ∧ refreshed t ∧ (t.chip.pc k.val p.val).payLeft = pc.payLeft - 1) ∧
      (pc.paying = true → pc.payLeft = 0 → pc.inRef = false → pc.ppmPend = false →
        ∃ t, exec (.refreshPaymentEnd k p) s = .next t ∧
          (pc.bandPend = none → t.chip.pc k.val p.val = { pc with paying := false }) ∧
          (∀ b, pc.bandPend = some b → pc.urgent = 0 →
            ∃ x, t.chip.pc k.val p.val = { Pc.setBand { pc with paying := false } b with changes := x })) ∧
      (pc.state ≠ .fenced → pc.band ≠ (s.chip.zone (physDie s.chip.dieRole k.val)).band →
        let b := (s.chip.zone (physDie s.chip.dieRole k.val)).band
        ∃ t, exec (.bandChange k p) s = .next t ∧
          (pc.paying = false → pc.urgent = 0 → ∃ x, t.chip.pc k.val p.val = { pc.setBand b with changes := x }) ∧
          (pc.paying = true ∨ pc.urgent ≠ 0 → t.chip.pc k.val p.val = { pc with bandPend := some b }))

/-- ALERT and what it escalates to. It rises for a cycle whose word fails the die's check; its rise is counted and raises 0x60. In normal
service it begins a replay: CLR_ALERT, PREA and an ACT for each row that stood open are to be issued, and every retained command again; a
rise in a replay fails that replay, the fourth failure holds both pseudo-channels of the channel for retraining, and one after a passed
retraining begins the rescue of a data pseudo-channel. In training it has CLR_ALERT issued alone. REPLAY_END ends the episode once every
command has retired, and an urgent refresh follows. RETRAIN_END returns a held pseudo-channel to service, its command lanes at the middle of
their windows and with the replay to do that was left, where its training found every lane, and begins its rescue, with the lane map it had,
where the command path failed or a second ALERT in one run has ruled the rate out. Rules: R386, R387, R388, R390, R391, R417, R418, R720. -/
def Obligations.AlertsEscalate : Prop :=
  ∀ (s : State) (k : ChcIx), s.chip.live = true → s.chip.Calm → (∀ q : PcIx, (s.chip.pc k.val q.val).cal = none) →
    (∀ recv : Reception, s.chip.canAlert k.val recv.p.val recv = true → (s.chip.chc k.val).test ≠ .underTest →
      let p := recv.p
      let pc := s.chip.pc k.val p.val
      let replays (t : State) : Prop := (t.chip.pc k.val p.val).replaying = true ∧ (t.chip.pc k.val p.val).alert = true ∧
        (t.chip.pc k.val p.val).script = [.clrAlert, .prea] ++ (t.chip.pc k.val p.val).reopens.map (fun e => .act e.1 e.2.1 0) ∧
        ∀ e ∈ (t.chip.chc k.val).retry, e.p = p.val → e.wait = true ∧ e.aux = false
      ∃ t, exec (.alertRise k recv) s = .next t ∧ t.mem = s.mem ∧ (t.chip.chc k.val).cntAlert = bump32 (s.chip.chc k.val).cntAlert ∧
        (pc.state = .normal → pc.replaying = false → replays t ∧ (t.chip.pc k.val p.val).fails = 0 ∧
          (pc.script = [] → (∀ e ∈ (s.chip.chc k.val).retry, e.p = p.val → e.wait = false ∧ e.aux = false) →
            (t.chip.pc k.val p.val).reopens = pc.modelRows) ∧
          t.chip.flt.evs.get {} (fltChc k.val) = (s.chip.flt.evs.get {} (fltChc k.val)).take ⟨1, 0x60, p.val⟩ false) ∧
        (pc.state = .normal → pc.replaying = true → (t.chip.chc k.val).cntReplayFail = bump32 (s.chip.chc k.val).cntReplayFail) ∧
        (pc.state = .normal → pc.replaying = true → pc.fails < 3 → replays t ∧ (t.chip.pc k.val p.val).fails = pc.fails + 1) ∧
        (pc.state = .normal → pc.replaying = true → pc.fails = 3 → (t.chip.pc k.val p.val).state = .retrainHold ∧
          (t.chip.chc k.val).cntRetrain = bump32 (s.chip.chc k.val).cntRetrain ∧
          ∀ q : PcIx, (s.chip.pc k.val q.val).state = .normal → (t.chip.pc k.val q.val).state = .retrainHold) ∧
        (pc.state = .normal → pc.replaying = true → pc.fails = 4 → k.val < 64 →
          (t.chip.pc k.val p.val).state = .rescue ∧ (t.chip.pc k.val p.val).rescueStep = 1) ∧
        (pc.trains = true → (t.chip.pc k.val p.val).alert = true ∧ (t.chip.pc k.val p.val).script = [.clrAlert] ∧
          (t.chip.pc k.val p.val).replaying = pc.replaying ∧ (t.chip.pc k.val p.val).state = pc.state)) ∧
    (∀ p : PcIx, (s.chip.pc k.val p.val).replaying = true → (s.chip.pc k.val p.val).alert = false → (s.chip.pc k.val p.val).script = [] →
      (∀ e ∈ (s.chip.chc k.val).retry, e.p ≠ p.val) →
      let after : Pc := { s.chip.pc k.val p.val with replaying := false, fails := 0 }
      ∃ t, exec (.replayEnd k p) s = .next t ∧ t.mem = s.mem ∧ (after.urgent = 0 → t.chip.pc k.val p.val = after) ∧
        (after.urgent ≠ 0 → after.paying = false → after.mayRefresh = true → (s.chip.chc k.val).retry.length < 64 →
          (t.chip.pc k.val p.val).replaying = false ∧ (t.chip.pc k.val p.val).inRef = true)) ∧
    (∀ r0 r1 : RetrainAttempt, (s.chip.pc k.val 0).state = .retrainHold → (s.chip.pc k.val 1).state = .retrainHold →
      (s.chip.chc k.val).trnBusy = false → k.val < 64 →
      ∃ t, exec (.retrainEnd k r0 r1) s = .next t ∧ t.mem = s.mem ∧
        ∀ p : PcIx, let r := if p.val = 0 then r0 else r1
          let pc := s.chip.pc k.val p.val
          (pc.nearCmdOk r = true → (∀ l, l < 38 → pc.nearFails r l = false) → pc.ruledOut = false →
            (t.chip.pc k.val p.val).state = .normal ∧
            ((t.chip.pc k.val p.val).replaying = true ↔ pc.fails ≠ 0 ∨ (s.chip.chc k.val).retains p.val = true) ∧
            ∀ l, l < 23 → (t.chip.pc k.val p.val).setting (128 + l) =
              { pc.setting (128 + l) with delay := middle (nearWindow (pc.nearCentre 2 l) (r.cmd.lane l)) }) ∧
          (pc.nearCmdOk r = false ∨ pc.ruledOut = true → (t.chip.pc k.val p.val).state = .rescue ∧ (t.chip.pc k.val p.val).rescueStep = 1 ∧
            (t.chip.pc k.val p.val).laneMap = pc.laneMap))

/-- How a pseudo-channel comes into and out of service. In boot step 8 a training that finds every lane at 8 Gb/s puts it into service at
that rate, one that finds them only at 4 Gb/s at that rate (0x64), and one whose command path fails at both rates fences it; under TRAIN a
training that fails at 8 Gb/s begins a rescue. In a rescue, a training that fails fences it with its blocks lost (0x66) and the lane map it
had; with one that succeeds the work under way is completed first, then with reserve banks for its banks their racking begins at 4 Gb/s, and
with none it serves on at 4 Gb/s (0x64). When every bank has been racked it is fenced with nothing lost (0x65). PC_FENCE fences one whose
rescue a command-path failure has ended. Rules: R238, R239, R409, R414, R415, R419, R420, R421, R720. -/
def Obligations.RescueAndFence : Prop :=
  ∀ (s : State) (k : ChcIx) (p : PcIx), s.chip.live = true → (s.chip.chc k.val).trnBusy = false →
    let pc := s.chip.pc k.val p.val
    let finds (a : TrainAttempt) : Prop := a.cmdOk = true ∧ ∀ l, l < 38 → a.sweepFails l = false ∧ a.confirmFails l = false
    (∀ at8 at4 : TrainAttempt, s.chip.Calm → pc.state = .training →
      (s.chip.inStep 8 = true → ∃ t, exec (.pcTrainingEnd k p at8 at4) s = .next t ∧ t.mem = s.mem ∧
        ((t.chip.pc k.val p.val).state = .normal ∨ (t.chip.pc k.val p.val).state = .fenced) ∧
        (finds at8 → pc.lost8 = false → (t.chip.pc k.val p.val).state = .normal ∧ (t.chip.pc k.val p.val).rate4 = false ∧
          (t.chip.pc k.val p.val).timerOn = true) ∧
        (at8.cmdOk = false → finds at4 → pc.lost4 = false → (t.chip.pc k.val p.val).state = .normal ∧ (t.chip.pc k.val p.val).rate4 = true ∧
          (t.chip.pc k.val p.val).timerOn = true ∧ (t.chip.flt.evs.get {} (fltChc k.val)).line = true) ∧
        (at8.cmdOk = false → at4.cmdOk = false → (t.chip.pc k.val p.val).state = .fenced ∧ t.chip.boot.pcFenced = s.chip.boot.pcFenced + 1) ∧
        ((∃ k' p', k' < 72 ∧ p' < 2 ∧ ¬ (k' = k.val ∧ p' = p.val) ∧ (s.chip.pc k' p').state = .training) → t.chip.boot.step = 8)) ∧
      (s.chip.inStep 8 = false → k.val < 64 → ∃ t, exec (.pcTrainingEnd k p at8 at4) s = .next t ∧ t.mem = s.mem ∧
        (finds at8 → pc.lost8 = false → (t.chip.pc k.val p.val).state = .normal ∧ (t.chip.pc k.val p.val).rate4 = false) ∧
        (at8.cmdOk = false ∨ pc.lost8 = true → (t.chip.pc k.val p.val).state = .rescue ∧ (t.chip.pc k.val p.val).rescueStep = 1 ∧
          (t.chip.pc k.val p.val).rate4 = true ∧ (t.chip.pc k.val p.val).laneMap = 0))) ∧
    (∀ a : TrainAttempt, s.chip.Calm → pc.state = .rescue → pc.rescueStep = 1 →
      (a.cmdOk = false ∨ pc.ruledOut = true → ∃ t, exec (.rescueTrainEnd k p a) s = .next t ∧ t.mem = s.mem ∧
        (t.chip.pc k.val p.val).state = .fenced ∧ (t.chip.pc k.val p.val).laneMap = pc.laneMap ∧ (t.chip.flt.evs.get {} (fltChc k.val)).line = true) ∧
      (finds a → pc.ruledOut = false → k.val < 64 → ∃ t, exec (.rescueTrainEnd k p a) s = .next t ∧ t.mem = s.mem ∧
        (t.chip.pc k.val p.val).rate4 = true ∧
        (s.chip.underWay k.val p.val = true → (t.chip.pc k.val p.val).state = .rescue ∧ (t.chip.pc k.val p.val).rescueStep = 2) ∧
        (s.chip.underWay k.val p.val = false → (∀ e ∈ (s.chip.slice k.val).lines, s.chip.standsAt k.val p.val (e.2.rowLoc k.val) = false) →
          s.chip.sliceDead k.val = false →
          (s.chip.subEntries (s.chip.bareBanks k.val p.val) ≠ [] →
            (t.chip.pc k.val p.val).state = .rescue ∧ (t.chip.pc k.val p.val).rescueStep = 3) ∧
          (s.chip.subEntries (s.chip.bareBanks k.val p.val) = [] → s.chip.bareBanks k.val p.val ≠ [] →
            (t.chip.pc k.val p.val).state = .normal)))) ∧
    (s.chip.Calm → s.chip.rescueOver k.val p.val = true → ∃ t, exec (.rescueRackDone k p) s = .next t ∧ (t.chip.pc k.val p.val).state = .fenced ∧
      (t.chip.flt.evs.get {} (fltChc k.val)).line = true ∧ t.mem = s.mem) ∧
    ((s.chip.onPc k.val p.val Pc.fence).Calm → pc.fenceDue = true → ∃ t, exec (.pcFence k p) s = .next t ∧ (t.chip.pc k.val p.val).state = .fenced ∧
      (t.chip.flt.evs.get {} (fltChc k.val)).line = true ∧ t.mem = s.mem)

/-- Compare runs and calibration passes. TRN_START captures the written parameters and starts a run on a pseudo-channel in training;
TRN_RUN_END shows each lane's mismatches with the pattern, and the lanes that had any. CAL_PASS_START starts a pass of both directions, and
MODE and MON_OFS are to go to the core die; a window whose density of ones leaves 0.4 to 0.6 ends its direction invalid, one before the
eighth is kept, and with the eighth the direction ends accepted or unstable; after 40 ms the directions still running end with outcome 2; a
pass whose pseudo-channel may not run it ends skipped. Rules: R404, R405, R407, R425, R426, R427, R434, R440. -/
def Obligations.RunsAndPasses : Prop :=
  ∀ (s : State) (k : ChcIx), s.chip.live = true → s.chip.Calm →
    (∀ v : Word, s.chip.frameHidden (.chc k) = false → (s.chip.chc k.val).trnBusy = false →
      (s.chip.pc k.val (natBits v.toNat 4 1)).mayCompare = true → natBits v.toNat 12 2 ≠ 3 →
      ∃ t, exec (.trnStart k v) s = .next t ∧ (t.chip.chc k.val).trnBusy = true ∧ (t.chip.chc k.val).trnDone = false ∧
        (t.chip.chc k.val).trnFail = 0 ∧ (t.chip.chc k.val).runCtl = (t.chip.chc k.val).trnCtl ∧
        natBits (t.chip.chc k.val).runCtl 4 1 = natBits v.toNat 4 1 ∧ natBits (t.chip.chc k.val).runCtl 12 2 = natBits v.toNat 12 2 ∧
        (t.chip.chc k.val).runPat = (s.chip.chc k.val).patLo + (s.chip.chc k.val).patHi * 2 ^ 32 ∧ t.chip.ports = s.chip.ports) ∧
    (let h := s.chip.chc k.val
     ∀ recv : List (Fin 38 × Nat × BitVec 16), h.trnBusy = true → (h.pc (natBits h.runCtl 4 1)).alert = false →
      (∀ l, l < 38 → (h.pc (natBits h.runCtl 4 1)).mrs.has (0x50 + l) = false) →
      ∃ t, exec (.trnRunEnd k recv) s = .next t ∧ (t.chip.chc k.val).trnBusy = false ∧ (t.chip.chc k.val).trnDone = true ∧ t.mem = s.mem ∧
        ∀ l, l < runLanes h.runCtl →
          let n := runCount h.runCtl h.runPat recv l
          (t.chip.chc k.val).trnCnts.get 0 l = (if natBits h.runCtl 12 2 = 1 then min max16 n else min max32 n) ∧
          natBit (t.chip.chc k.val).trnFail l = (n != 0)) ∧
    ∀ p : PcIx, let pc := s.chip.pc k.val p.val
      (s.chip.boot.st = .ready → natBits (s.chip.chc k.val).calCfg.live 0 8 ≠ 0 → s.chip.calMayRun k.val p.val = true → pc.cal = none →
        ∃ t, exec (.calPassStart k p) s = .next t ∧ t.chip.pc k.val p.val = Pc.monModes { pc.modeWritten with
          cal := some { startUs := s.chip.us, monD := (s.chip.chc k.val).monD, monV := (s.chip.chc k.val).monV } }) ∧
      (∀ (x : CalPass) (wr : Bool) (stats : List (Fin 38 × MonLane)), pc.cal = some x → x.stopped = false →
        s.chip.calMayRun k.val p.val = true → x.rd.outcome = 0 → x.wr.outcome = 0 → (∀ l ∈ pc.lanesInUse, ∃ y ∈ stats, y.1.val = l) →
        let dir := if wr then x.wr else x.rd
        let win := (stats.filter (fun y => pc.lanesInUse.contains y.1.val)).map (fun y => (y.1.val, windowStats wr y.2))
        let dir' : CalDir := { dir with wins := dir.wins ++ [win] }
        let even := ∀ e ∈ win, 4 * 2 ^ 20 ≤ 10 * e.2.2.2 ∧ 10 * e.2.2.2 ≤ 6 * 2 ^ 20
        ∃ t y, exec (.monitorWindowEnd k p wr stats) s = .next t ∧ t.mem = s.mem ∧ (t.chip.pc k.val p.val).cal = some y ∧
          (if wr then y.rd = x.rd else y.wr = x.wr) ∧
          (even → dir.wins.length < 7 → (if wr then y.wr else y.rd) = dir') ∧
          (¬ even → (if wr then y.wr else y.rd) = { dir' with outcome := 4 } ∧
            (t.chip.chc k.val).cntCalRef = bump32 (s.chip.chc k.val).cntCalRef) ∧
          (even → dir.wins.length = 7 → dir'.accepted x pc (flagNat wr) = none → (if wr then y.wr else y.rd) = { dir' with outcome := 3 } ∧
            (t.chip.chc k.val).cntCalRef = bump32 (s.chip.chc k.val).cntCalRef) ∧
          (even → dir.wins.length = 7 → (dir'.accepted x pc (flagNat wr)).isSome = true →
            (if wr then y.wr else y.rd) = { dir' with outcome := 1 } ∧
            (t.chip.chc k.val).cntCalAcc = bump32 (s.chip.chc k.val).cntCalAcc)) ∧
      (∀ x : CalPass, pc.cal = some x → x.stopped = false → s.chip.calMayRun k.val p.val = true →
        ∃ t, exec (.calLowTraffic k p) s = .next t ∧ t.mem = s.mem ∧ (t.chip.pc k.val p.val).cal = none ∧
          (t.chip.pc k.val p.val).outcome = max (if x.rd.outcome = 0 then 2 else x.rd.outcome) (if x.wr.outcome = 0 then 2 else x.wr.outcome)) ∧
      (∀ x : CalPass, pc.cal = some x → (x.stopped = true ∨ s.chip.calMayRun k.val p.val = false) →
        ∃ t, exec (.calSkipped k p) s = .next t ∧ t.mem = s.mem ∧ (t.chip.pc k.val p.val).cal = none ∧ (t.chip.pc k.val p.val).outcome = 5)

/-- Scrub and racking. SCRUB_ROW makes the row that a pass in progress has reached due: one held by a test, a rescue or heat waits; where
the press runs nothing and selects it, the 16 reads of the row go to where it stands, class 7 is charged and the pass goes on to the next
row, and the pass holds those 16 reads outstanding. RACK_ROW of a racking that the press selects, the first of the queue where none is under
way, asks for its row's line lock; with the lock held it sends the row's 16 reads, AGED, to where the row stands, or, on a fenced pseudo-
channel, poisoned writes to its target; and each block read goes on to the target as READ_BURST_RETURN decodes it. None of these changes a
cell. Rules: R298, R343, R459, R464, R465, R475, R476, R478. -/
def Obligations.ScrubAndRack : Prop :=
  ∀ (s : State) (d : Fin 16), s.chip.live = true →
    let free (l : Phys) : Prop :=
      (∀ n, (s.chip.slice n).out = []) ∧ (∀ n, n < 64 → s.chip.halted (fltDct n) = false) ∧ (s.chip.pc l.k l.p).fifo = []
    (let w := (s.chip.die d.val).scrubAt d.val
     let since := if (s.chip.die d.val).scrubDue then (s.chip.die d.val).scrubSince else s.chip.keep
     let due : DieCtx := { s.chip.die d.val with scrubDue := true, scrubSince := since }
     s.chip.boot.st = .ready → natBits (s.chip.press d.val).scrubCfg.live 0 8 ≠ 0 → s.chip.dieWorks d.val = true →
      (s.chip.die d.val).scrubOn = true → (s.chip.die d.val).scrubRow < 49152 → (s.chip.die d.val).scrubLc < 4 →
      s.chip.served (bankIndex w) = true →
      (s.chip.scrubHeld d.val = true → ∃ t, exec (.scrubRow d) s = .next t ∧ t.mem = s.mem ∧ t.chip.die d.val = due ∧
        t.chip.slices = s.chip.slices ∧ t.chip.chcs = s.chip.chcs) ∧
      (∀ p, s.chip.scrubHeld d.val = false → s.chip.pressOfDie d.val = some p → s.chip.pressIdle p = true →
        (s.chip.onDie d.val (fun _ => due)).selectWork p = some (.scrub d.val) →
        ∃ t, exec (.scrubRow d) s = .next t ∧ t.mem = s.mem ∧
          t.chip.die d.val = { due.scrubNext with scrubDue := false, scrubOut := due.scrubOut + 16 } ∧
          t.chip.cls 7 = (s.chip.cls 7).charge s.chip.bwr.inForce 16 ∧ (t.chip.press p).cntChunk = (s.chip.press p).cntChunk.bump ∧
          (free (s.chip.locate w 0) →
            let f := (t.chip.pc (s.chip.locate w 0).k (s.chip.locate w 0).p).fifo
            f.map (·.loc) = (below 16).map (s.chip.locate w) ∧ ∀ m ∈ f, m.write = false ∧ m.home = w ∧ m.origin = .scrub d.val))) ∧
    (∀ p : Fin 16, (s.chip.die d.val).rowOut = none → (s.chip.die d.val).lockWait = none → s.chip.dieWorks d.val = true →
      s.chip.pressOfDie d.val = some p.val → s.chip.pressIdle p.val = true → s.chip.selectWork p.val = some (.rack d.val) →
      (∀ j, (s.chip.die d.val).cur = some j → s.chip.rackLocked d.val j = false → ∃ t, exec (.rackRow p d) s = .next t ∧ t.mem = s.mem ∧
        t.chip.die d.val = { s.chip.die d.val with lockWait := some j.rowLoc }) ∧
      (∀ j rest, (s.chip.die d.val).cur = none → (s.chip.die d.val).queue = j :: rest → ∃ t, exec (.rackRow p d) s = .next t ∧ t.mem = s.mem ∧
        t.chip.die d.val = { s.chip.die d.val with cur := some j, queue := rest, lockWait := some j.rowLoc })) ∧
    (∀ (p : Fin 16) (j : RackJob), s.chip.pressOfDie d.val = some p.val → (s.chip.die d.val).cur = some j → j.bank < 2048 →
      (s.chip.die d.val).rowOut = none → (s.chip.die d.val).lockWait = none →
      (s.chip.dieWorks d.val = true ∨ s.chip.dieFinishes d.val = true) → s.chip.rackLocked d.val j = true →
      ∃ t, exec (.rackRow p d) s = .next t ∧ t.mem = s.mem ∧ (t.chip.die d.val).rowOut = some ⟨j.bank, j.row, 16⟩ ∧
        (j.poison = false → free (s.chip.locate j.rowLoc 0) →
          let f := (t.chip.pc (s.chip.locate j.rowLoc 0).k (s.chip.locate j.rowLoc 0).p).fifo
          f.map (·.loc) = (below 16).map (s.chip.locate j.rowLoc) ∧
          ∀ m ∈ f, m.write = false ∧ m.level = 2 ∧ m.home = j.rowLoc ∧ m.origin = .rackRead d.val) ∧
        (j.poison = true → free (j.target 0) →
          let f := (t.chip.pc (j.target 0).k (j.target 0).p).fifo
          f.map (·.loc) = (below 16).map j.target ∧ ∀ m ∈ f, m.write = true ∧ m.poison = true ∧ m.home = j.rowLoc ∧ m.origin = .rack d.val)) ∧
    (∀ (k : ChcIx) (p : PcIx) (noise : List (Fin 36 × BitVec 16)) (b : Burst) (rest : List Burst) (j : RackJob), s.chip.Calm →
      (s.chip.pc k.val p.val).bursts = b :: rest → b.access.origin = .rackRead d.val → (s.chip.die d.val).cur = some j → j.bank < 2048 →
      free (j.target b.access.loc.j) →
      let dq := if b.fwd then (b.data, b.check) else s.chip.receive k.val p.val b.access.loc b.data b.check noise
      let r := decode b.access.loc (s.chip.pc k.val p.val).erased dq.1 dq.2
      ∃ t m, exec (.readBurstReturn k p noise) s = .next t ∧ t.mem = s.mem ∧
        (t.chip.pc (j.target b.access.loc.j).k (j.target b.access.loc.j).p).fifo = [m] ∧ m.write = true ∧ m.loc = j.target b.access.loc.j ∧
        m.home = j.rowLoc ∧ m.poison = r.outcome.status.flagged ∧ (m.poison = false → m.data = r.data))

/-! ### Presses and classes -/

/-- A press at work. At a chunk boundary in normal mode it takes the job packets that have come and selects its next work. A job that is
cancelled ends ABORTED; with a row of the chunk in rescue it ends RETRY, with one unserved CAPACITY_LOST; with one under test it waits, and
with no room in the read buffer for its sources; else the chunk runs and its class is charged. A scrub context reads its row, and a racking
context asks for its row's line lock. Granule data fills the read buffer. A chunk with nothing outstanding is complete: DONE advances to its
end, and a job that has reached its length ends and answers its port. The answer of every ended job carries its data. Rules: R109, R300,
R329, R330, R339, R340, R343. -/
def Obligations.PressRunsChunks : Prop :=
  ∀ (s : State) (p : PressIx), s.chip.live = true →
    (∀ (i : Nat) (j : JobCtx), s.chip.pressIdle p.val = true → (s.chip.press p.val).mode = .normal →
      let c := (if s.chip.auto 11 = true then s.chip.onPress p.val Press.applyShadows else s.chip).onPress p.val Press.takeJobs
      c.selectWork p.val = some (.job i) → (c.press p.val).ctxs.look i = some j →
      let ops := (s.chip.chunkOps p.val j).1 ++ (s.chip.chunkOps p.val j).2
      let ends (t : State) (st : Status) (arg : Nat) : Prop := t.chip.xbr.pkts = s.chip.xbr.pkts ++
          [⟨.rsp, epPress p.val, j.port, .jobRsp j.port j.tag st arg (jobData j.done 5 j.result j.lostblk)⟩] ∧
        (t.chip.press p.val).ctxs.look i = some { j with ended := true, status := st, waitTest := false, waitBuf := false }
      ∃ t, exec (.chunkBoundary p) s = .next t ∧ (t.chip.press p.val).jobRr = i ∧ t.mem = s.mem ∧
        (j.cancel = true → ends t .aborted 0) ∧
        (j.cancel = false → (∃ g ∈ ops, s.chip.inRescue g.row = true) → ends t .retry
          (maxOf ((ops.filter (fun g => s.chip.inRescue g.row)).map (fun g => s.chip.retryHint g.row.c g.row.p)))) ∧
        (j.cancel = false → (∀ g ∈ ops, s.chip.inRescue g.row = false) →
          ((∃ g ∈ ops, s.chip.served (bankIndex g.row) = false) → ends t .capacityLost 0) ∧
          ((∀ g ∈ ops, s.chip.served (bankIndex g.row) = true) → (∃ g ∈ ops, s.chip.underTest g.row = true) →
            (t.chip.press p.val).ctxs.look i = some { j with waitTest := true, waitBuf := false } ∧ (t.chip.press p.val).chunk = none) ∧
          ((∀ g ∈ ops, s.chip.served (bankIndex g.row) = true ∧ s.chip.underTest g.row = false) →
            (s.chip.chunkOps p.val j).1 ≠ [] → (s.chip.press p.val).rdbufFree < 16 →
            (t.chip.press p.val).ctxs.look i = some { j with waitBuf := true, waitTest := false } ∧ (t.chip.press p.val).chunk = none) ∧
          ((∀ g ∈ ops, s.chip.served (bankIndex g.row) = true ∧ s.chip.underTest g.row = false) →
            ((s.chip.chunkOps p.val j).1 = [] ∨ 16 ≤ (s.chip.press p.val).rdbufFree) →
            (∃ k, (t.chip.press p.val).chunk = some k ∧ k.ctx = i ∧ k.first = j.dst + j.done ∧ k.len = j.nextLen ∧ k.status = .ok ∧ k.lost = 0) ∧
            (t.chip.press p.val).ctxs.look i = some { j with running := true, waitTest := false, waitBuf := false } ∧
            t.chip.cls j.cls = (s.chip.cls j.cls).charge s.chip.bwr.inForce j.kind.units))) ∧
    (∀ d, s.chip.pressIdle p.val = true → (s.chip.press p.val).mode = .normal →
      let c := (if s.chip.auto 11 = true then s.chip.onPress p.val Press.applyShadows else s.chip).onPress p.val Press.takeJobs
      (c.selectWork p.val = some (.scrub d) → ∃ t, exec (.chunkBoundary p) s = .next t ∧ t.mem = s.mem ∧
        t.chip.die d = { (s.chip.die d).scrubNext with scrubDue := false, scrubOut := (s.chip.die d).scrubOut + 16 } ∧
        t.chip.cls 7 = (s.chip.cls 7).charge s.chip.bwr.inForce 16) ∧
      (∀ j, c.selectWork p.val = some (.rack d) → ((s.chip.die d).cur.toList ++ (s.chip.die d).queue).head? = some j →
        ∃ t, exec (.chunkBoundary p) s = .next t ∧ t.mem = s.mem ∧ (t.chip.die d).cur = some j ∧ (t.chip.die d).lockWait = some j.rowLoc)) ∧
    (∀ (k : Chunk) (res : List BlkRes) (rest : List (List BlkRes)), (s.chip.press p.val).chunk = some k → (s.chip.press p.val).arrive = res :: rest →
      ∃ t k', exec (.granuleDataArrive p) s = .next t ∧ (t.chip.press p.val).arrive = rest ∧ (t.chip.press p.val).chunk = some k' ∧
        k'.reads = k.reads - 1 ∧ k'.buf = res.foldl (fun b r => b.put r.ix r) k.buf ∧
        k'.lost = k.lost + (res.filter (·.status.flagged)).length ∧ t.mem = s.mem) ∧
    (∀ (k : Chunk) (j : JobCtx), (s.chip.press p.val).chunk = some k → k.todo = [] → k.issued = false → k.reads = 0 →
      (s.chip.press p.val).ctxs.look k.ctx = some j →
      ∃ t j', exec (.chunkComplete p) s = .next t ∧ (t.chip.press p.val).chunk = none ∧
        (t.chip.press p.val).cntChunk = (s.chip.press p.val).cntChunk.bump ∧ (t.chip.press p.val).ctxs.look k.ctx = some j' ∧
        j'.done = k.first + k.len - j.dst ∧ j'.lostblk = satAdd max32 j.lostblk k.lost ∧ j'.status = j.status.merge k.status ∧
        (j'.done < j.len → j'.ended = j.ended ∧ t.chip.xbr.pkts = s.chip.xbr.pkts) ∧
        (j.len ≤ j'.done → j'.ended = true ∧ t.chip.xbr.pkts = s.chip.xbr.pkts ++
          [⟨.rsp, epPress p.val, j.port, .jobRsp j.port j.tag j'.status 0 (jobData j'.done 5 j'.result j'.lostblk)⟩]))

/-- Ageing and budgets. AGE_PROMOTION makes an access that has waited 2 us, or its job, AGED, in its packets too; each is counted once, a
granule operation by its blocks. At BUDGET_WINDOW_BOUNDARY every class starts a new window; a set committed since is in force from there on;
the factor is what BWR can deliver over the sum of the rates, at most 1, and each class has its share as its budget, or none applies where
no set is in force. With BWR bypassed, or before boot step 10, only the counters start anew. That the count takes a granule operation by its
blocks is the model's reading (DEDUCED, log entry 54). Rules: R261, R262, R281, R284, R290, R309. -/
def Obligations.ClassesAgeAndRenew : Prop :=
  ∀ s : State, s.chip.live = true →
    (∀ (n : PortIx) (tag : Fin 1024) (r : Req), (s.chip.port n.val).req? tag.val = some r → r.phase = .active →
      (isJob r.op = false → r.aged = true → exec (.agePromotion (.request n tag)) s = .next s) ∧
      (isJob r.op = false → r.aged = false → ∃ t, exec (.agePromotion (.request n tag)) s = .next t ∧ t.mem = s.mem ∧
        t.chip.bwr.cntAged = satAdd max32 s.chip.bwr.cntAged 1 ∧
        (∀ x ∈ t.chip.xbr.pkts, ∀ q, x.body = .part q → q.port = n.val → q.tag = tag.val → q.aged = true)) ∧
      (∀ p i j, isJob r.op = true → s.chip.jobOf n.val tag.val = some (p, i, j) → (s.chip.press p).ctxs.look i = some j →
        j.released = true → j.noted = false → ∃ t, exec (.agePromotion (.request n tag)) s = .next t ∧ t.mem = s.mem ∧
          t.chip.bwr.cntAged = (if j.counted then s.chip.bwr.cntAged else satAdd max32 s.chip.bwr.cntAged 1) ∧
          (t.chip.press p).ctxs.look i = some { j with reqAged := true, counted := true })) ∧
    (∀ (p : PressIx) (g : GranOp), s.chip.granOut p.val = some g →
      (g.aged = true → exec (.agePromotion (.granule p)) s = .next s) ∧
      (g.aged = false → ∃ t, exec (.agePromotion (.granule p)) s = .next t ∧ t.mem = s.mem ∧
        t.chip.bwr.cntAged = satAdd max32 s.chip.bwr.cntAged g.blocks.length ∧
        (∀ x ∈ t.chip.xbr.pkts, ∀ g', x.body = .gran g' → g'.press = p.val → g'.aged = true))) ∧
    (∀ (p : PressIx) (i : Fin 64) (j : JobCtx), (s.chip.press p.val).ctxs.look i.val = some j → j.released = true → j.ended = false →
      j.running = false → ∃ t, exec (.agePromotion (.job p i)) s = .next t ∧ t.mem = s.mem ∧
        t.chip.bwr.cntAged = (if j.counted then s.chip.bwr.cntAged else satAdd max32 s.chip.bwr.cntAged 1) ∧
        (t.chip.press p.val).ctxs.look i.val = some { j with aged := true, counted := true }) ∧
    (∃ t, exec .budgetWindowBoundary s = .next t ∧ t.mem = s.mem ∧ t.chip.ports = s.chip.ports ∧
      t.chip.bwr.cfg = (if s.chip.auto 12 then s.chip.bwr.cfg.apply else s.chip.bwr.cfg) ∧
      (∀ k, k < 8 → (t.chip.cls k).counter = 0) ∧
      (s.chip.bwr.bypass = true ∨ s.chip.boot.step < 10 → ∀ k, k < 8 → (t.chip.cls k).budget = 0xFFFF ∧ (t.chip.cls k).overBud = false) ∧
      (10 ≤ s.chip.boot.step → s.chip.bwr.bypass = false →
        t.chip.bwr.deliver = t.chip.deliverable ∧ t.chip.bwr.pendSet = none ∧
        (s.chip.bwr.pendSet = none → t.chip.bwr.inForce = s.chip.bwr.inForce) ∧
        (∀ gs, s.chip.bwr.pendSet = some gs → (t.chip.bwr.inForce = true ↔ ∃ g ∈ gs, g ≠ 0)) ∧
        t.chip.bwr.factor = (if t.chip.bwr.inForce then min 4096 (4096 * t.chip.deliverable / t.chip.bwr.sum) else 4096) ∧
        ∀ k, k < 8 →
          (t.chip.cls k).guar = (match s.chip.bwr.pendSet with | some gs => gs.getD k 0 | none => (s.chip.cls k).guar) ∧
          (t.chip.cls k).budget = (if t.chip.bwr.inForce then t.chip.bwr.budgetOf s.chip.rackActive t.chip.bwr.factor k (t.chip.cls k).guar
            else 0xFFFF) ∧
          (t.chip.cls k).overBud = (t.chip.bwr.inForce && (t.chip.cls k).budget == 0)))

/-! ### Heat, supplies and faults -/

/-- Samples and evaluations. THM_SAMPLE starts a zone's conversions. THM_EVALUATION of good readings takes the highest as the zone's
temperature; from it and what the zone was follow the warning, the refresh band of a core die, and the throttle step: 2 at or above THROT, 1
from a higher step below THROT less 4 degrees. A reading at or above SHUT starts a shutdown besides: the grace begins, THERMTRIP_N falls and
the fatal condition 0x24 lasts. The keeper's sample takes readings while a shutdown holds the stack, where a reading that is late, missing
or out of range breaks its sensor, and in boot from the end of step 2 to that of step 4, where it breaks none and starts a shutdown from 108
degrees. Rules: R493, R496, R498, R503, R504, R505, R515, R527. -/
def Obligations.ThermalFollowsReadings : Prop :=
  ∀ s : State, s.chip.Calm →
    (∀ z : Fin 34, s.chip.thmRuns = true → ∃ t, exec (.thmSample z) s = .next t ∧ t.chip.zone z.val = { s.chip.zone z.val with conv := true } ∧
      t.mem = s.mem) ∧
    (∀ (z : Fin 34) (rs : List Reading), s.chip.thmRuns = true → (s.chip.zone z.val).conv = true → s.chip.inStep 8 = false →
      rs.length = (zoneSensors z.val).length → (∀ i ∈ zoneSensors z.val, (s.chip.sensor i).broken = false ∧ (s.chip.sensor i).same < 63) →
      (∀ r ∈ rs, r.late = false ∧ outOfRange (Reading.celsius4 r.temp) = false) →
      let temp := maxTemp (rs.map (fun r => Reading.celsius4 r.temp))
      ∃ t, exec (.thmEvaluation z rs) s = .next t ∧ t.mem = s.mem ∧ (t.chip.zone z.val).temp = temp ∧ (t.chip.zone z.val).conv = false ∧
        (t.chip.zone z.val).warn = nextWarn s.chip.thm.lim (s.chip.zone z.val).warn temp ∧
        (t.chip.zone z.val).band = (if z.val < 18 then nextBand (s.chip.zone z.val).band temp else 0) ∧
        (z.val < 26 →
          ((s.chip.zone z.val).step ≤ 1 → 4 * (s.chip.thm.lim.throt : Int) ≤ temp → (t.chip.zone z.val).step = 2) ∧
          ((s.chip.zone z.val).step = 0 → temp < 4 * (s.chip.thm.lim.throt : Int) → (t.chip.zone z.val).step = 0) ∧
          (2 ≤ (s.chip.zone z.val).step → temp < 4 * ((s.chip.thm.lim.throt : Int) - 4) → (t.chip.zone z.val).step = 1)) ∧
        (temp < 4 * (s.chip.thm.lim.shut : Int) → t.chip.thm.shut = .none) ∧
        (4 * (s.chip.thm.lim.shut : Int) ≤ temp → t.chip.thm.shut = .grace ∧ t.chip.thm.tripLow = true ∧ t.chip.thm.rearm = s.chip.thm.lim.rearm ∧
          ∃ i ∈ zoneSensors z.val, (⟨3, 0x24, i⟩ : Event) ∈ (t.chip.flt.evs.get {} 5).levels)) ∧
    (∀ rs : List Reading, s.chip.thm.shut = .released → ∃ t, exec (.keeperSample rs) s = .next t ∧ t.mem = s.mem ∧ t.chip.thm.shut = .released ∧
      ∀ i, i < 52 →
        (rs[i]? = none → (t.chip.sensor i).broken = true) ∧
        (∀ r, rs[i]? = some r →
          (r.late = true ∨ outOfRange (Reading.celsius4 r.temp) = true → (t.chip.sensor i).broken = true) ∧
          (r.late = false → (t.chip.sensor i).temp = Reading.celsius4 r.temp) ∧
          (r.late = false → outOfRange (Reading.celsius4 r.temp) = false → (s.chip.sensor i).same < 63 →
            (t.chip.sensor i).broken = (s.chip.sensor i).broken))) ∧
    (∀ rs : List Reading, s.chip.boot.pwrgd = true → 3 ≤ s.chip.boot.step → s.chip.boot.step ≤ 4 → s.chip.thm.shut = .none →
      (s.chip.boot.st = .booting ∨ s.chip.boot.st = .safe) →
      ∃ t, exec (.keeperSample rs) s = .next t ∧ t.mem = s.mem ∧
        ((∀ r ∈ rs, Reading.celsius4 r.temp < 432) → t.chip.thm.shut = .none ∧
          ∀ i r, i < 52 → rs[i]? = some r → r.late = false → (t.chip.sensor i).temp = Reading.celsius4 r.temp ∧
            (t.chip.sensor i).broken = (s.chip.sensor i).broken) ∧
        ((∃ i r, i < 52 ∧ rs[i]? = some r ∧ r.late = false ∧ outOfRange (Reading.celsius4 r.temp) = false ∧ 432 ≤ Reading.celsius4 r.temp) →
          t.chip.thm.shut = .grace ∧ t.chip.thm.tripLow = true))

/-- The end of a shutdown's grace releases the internal rails: the cells and the main domain are lost, THERMTRIP_N stays low, and the stack
waits for re-arm. A rail out of range loses the cells and what the slices hold, and nothing of the ports. VPROG's level is what the fuse
commands see. After a shutdown the stack is held until RESET_N has been low and every working sensor reads below REARM; REARM_RELEASE then
starts boot, THERMTRIP_N rises and the sensors' broken marks go, and while a working sensor is at or above REARM it changes nothing. Rules:
R498, R515, R518, R689, R694. -/
def Obligations.RailsLoseMemoryAndRearmHolds : Prop :=
  ((∀ s : State, s.chip.graceOver = true → ∃ t, exec .shutdownGraceEnd s = .next t ∧ t.mem = [] ∧ t.epoch = s.epoch + 1 ∧ t.chip.ports = [] ∧
     t.chip.slices = [] ∧ t.chip.chcs = [] ∧ t.chip.boot.st = .rearmWait ∧ t.chip.thm.shut = .released ∧ t.chip.thm.tripLow = s.chip.thm.tripLow ∧
     t.chip.live = false ∧ t.pending = s.pending) ∧
   (∀ s : State, s.chip.boot.pwrgd = true → ∃ t, exec .railOutOfRange s = .next t ∧ t.mem = [] ∧ t.epoch = s.epoch + 1 ∧ t.chip.ports = s.chip.ports ∧
     t.chip.chcs = s.chip.chcs ∧ ∀ k, (t.chip.slice k).lines = [] ∧ (t.chip.slice k).evbs = [] ∧ (t.chip.slice k).granWait = [] ∧
       (t.chip.slice k).out = []) ∧
   (∀ (s : State) (a b : Bool), exec (.vprogLevelChange a b) s = .next { s with chip := { s.chip with
     fus := { s.chip.fus with vprogOk := a && b } } })) ∧
  ((∀ s : State, s.chip.boot.pwrgd = true → s.chip.thm.shut = .released → s.chip.thm.lowSeen = true → s.chip.boot.resetN = true →
     (∀ i, i < 52 → (s.chip.sensor i).broken = false → (s.chip.sensor i).temp < 4 * (s.chip.thm.rearm : Int)) →
     exec .rearmRelease s = .next { s with chip := { s.chip with
       boot := { s.chip.boot with step := 3, st := .booting }, thm := { s.chip.thm with
         shut := .none, tripLow := false, sensors := s.chip.thm.sensors.map (fun (i, x) => (i, { x with broken := false, same := 0 })) } } }) ∧
   (∀ (s : State) (i : Nat), i < 52 → (s.chip.sensor i).broken = false → 4 * (s.chip.thm.rearm : Int) ≤ (s.chip.sensor i).temp →
     exec .rearmRelease s = .next s))

/-- Capture, fetch and acknowledgement. ERROR_LINE_CAPTURE captures a line that is high and was not, with the parity error of a crossbar
endpoint where one arises. EVENT_FETCH of a capture outside a blanking window records a corrected or contained event, or counts it on a
block that holds a record, and empties the block's register, or leaves there a fatal condition that began behind the event, for a new rise
of the line (DEDUCED, log entry 57); with an acknowledgement in the same cycle the record is a new one, where no level condition keeps the
line high (DEDUCED, log entry 54); under a window it only marks the block as consequential; a fatal event puts the stack into the fault
state: ALIVE low, every enabled port DOWN with reason 11 if it was not (the model's reading, log entry 49), the slices empty. FLT_ACK
removes the record of each block it names whose line is low, and counts each whose line is high; FLT_FIRST_CLR opens the log of the first
event anew, while FLT holds no posted write. A window closes oldest first. ALIVE toggles while the stack is well. Rules: R563, R564, R565,
R568, R569, R570, R576, R577, R580, R584, R587, R723. -/
def Obligations.FaultsAreCollected : Prop :=
  ∀ s : State, s.chip.live = true →
    (∀ (b : Fin 256), s.chip.flt.on = true → s.chip.lineHigh b.val = true → b.val ∉ s.chip.flt.high →
      ∃ t, exec (.errorLineCapture [b] []) s = .next t ∧
        t.chip.flt.caps = s.chip.flt.caps ++ [⟨b.val, s.chip.flt.grp, s.chip.us, s.chip.flt.covered b.val, []⟩] ∧
        t.chip.flt.high = s.chip.flt.high ++ [b.val] ∧ t.mem = s.mem) ∧
    (∀ (e : Fin 113), s.chip.flt.on = true → s.chip.ignored 8 = false → 8 ∉ s.chip.flt.high →
      ∃ t, exec (.errorLineCapture [8] [.xbrParity e]) s = .next t ∧
        t.chip.flt.evs.get {} 8 = (s.chip.flt.evs.get {} 8).take ⟨3, 0x30, e.val⟩ false ∧ 8 ∈ t.chip.flt.high) ∧
    (∀ (b : Fin 256) (ack : Bool) (cap : Capture) (e : Event), s.chip.flt.caps.find? (fun x => x.blk == b.val) = some cap →
      (s.chip.flt.evs.get {} b.val).pend = some e →
      let r := s.chip.flt.evs.get {} b.val
      let refused := ack && !s.chip.ignored b.val && !r.levels.isEmpty
      let old := if ack && !refused then none else s.chip.flt.recs.look b.val
      ∃ t, exec (.eventFetch ⟨b, ack⟩) s = .next t ∧ (t.chip.flt.evs.get {} b.val).pend = r.owed ∧
        (∀ f, r.owed = some f → b.val ∉ t.chip.flt.high) ∧ cap ∉ t.chip.flt.caps ∧ t.mem = s.mem ∧
        t.chip.flt.cntAckRef = (if refused then bump32 s.chip.flt.cntAckRef else s.chip.flt.cntAckRef) ∧
        (cap.blank = false → e.cls ≠ 3 → e.asksReset = false → t.chip.flt.fault = false ∧
          t.chip.flt.recs.look b.val = some (match old with
            | some r' => { r' with multi := satAdd max16 r'.multi (1 + r.count) } | none => ⟨e, min max16 r.count⟩) ∧
          (e.cls = 1 → t.chip.flt.cntCe = satAdd max32 s.chip.flt.cntCe (1 + r.count)) ∧
          (e.cls = 2 → t.chip.flt.cntUc = satAdd max32 s.chip.flt.cntUc (1 + r.count))) ∧
        (cap.blank = true → e.cls ≠ 3 → b.val ∈ t.chip.flt.conseq ∧ t.chip.flt.recs.look b.val = old ∧
          t.chip.flt.cntConseq = satAdd max32 s.chip.flt.cntConseq (1 + r.count)) ∧
        (e.cls = 3 → t.chip.flt.fault = true ∧ t.chip.flt.alive = false ∧ t.chip.boot.st = .fault ∧ t.chip.boot.cause = 8 ∧ t.chip.live = false ∧
          (∀ i, (t.chip.port i) = (s.chip.port i).silence) ∧ ∀ k, (t.chip.slice k).lines = [])) ∧
    (s.chip.mgt.posted.has (frameNo .flt) = false → ∀ (k : Fin 8) (v : Word), ∃ t, exec (.fltAck k v) s = .next t ∧ t.mem = s.mem ∧ t.chip.ports = s.chip.ports ∧
      t.chip.flt.evs = s.chip.flt.evs ∧
      (let high := ((below 32).filter (fun i => natBit v.toNat i && s.chip.lineHigh (32 * k.val + i))).length
       t.chip.flt.cntAckRef = if high = 0 then s.chip.flt.cntAckRef else satAdd max32 s.chip.flt.cntAckRef high) ∧
      ∀ b, t.chip.flt.recs.look b = (if b / 32 = k.val ∧ natBit v.toNat (b % 32) = true ∧ s.chip.lineHigh b = false then none
        else s.chip.flt.recs.look b)) ∧
    (s.chip.mgt.posted.has (frameNo .flt) = false → ∃ t, exec .fltFirstClr s = .next t ∧ t = { s with chip := { s.chip with flt := t.chip.flt } } ∧ t.chip.flt.first = none ∧
      t.chip.flt.firstFrom = s.chip.flt.grp ∧ t.chip.flt.recs = s.chip.flt.recs ∧ t.chip.flt.caps = s.chip.flt.caps) ∧
    (∀ w rest, s.chip.flt.windows = w :: rest → ∃ t, exec .blankingWindowClose s = .next t ∧ t.chip.flt.windows = rest ∧
      t.chip.flt.recs = s.chip.flt.recs ∧ t.mem = s.mem) ∧
    (s.chip.flt.aliveOn = true → exec .aliveToggle s = .next { s with chip := { s.chip with flt := { s.chip.flt with alive := !s.chip.flt.alive } } })

/-! ### Management -/

/-- Packets come in on three paths. SIDEBAND_SEGMENT of the management port joins the packet being received; its last segment makes it a
whole packet, which MGT takes: the register commands to the state machine, others to Ilael's queue; a segment out of turn, or segment 0
while a command of the sideband is unanswered, drops what has come and raises 0x2C. A private write of I3C is taken likewise when nothing of
that path is outstanding, else it is not acknowledged; a private read takes the reply, which is gone when all of it has been read. REGACC
hands one register access to the state machine, and one while an access is outstanding raises 0x2C. Rules: R61, R641, R645, R646, R648,
R650. -/
def Obligations.PacketsComeIn : Prop :=
  ∀ s : State, s.chip.live = true →
    (∀ (n : PortIx) (index : BitVec 7) (last : Bool) (data : BitVec 64), s.chip.Calm → s.chip.sbPath n.val = true →
      (index.toNat = s.chip.mgt.sbNext → ¬ (index.toNat = 0 ∧ s.chip.mgt.sbBusy = true) →
        let bs := s.chip.mgt.sbBytes ++ leBytes 8 data.toNat
        let m : MgtPkt := { path := 1, bytes := bs }
        (last = false → ∃ t, exec (.sidebandSegment n index last data) s = .next t ∧ t.mem = s.mem ∧
          t.chip.mgt = { s.chip.mgt with sbNext := index.toNat + 1, sbBytes := bs }) ∧
        (last = true → s.chip.mgt.inReset = false → ∃ t, exec (.sidebandSegment n index last data) s = .next t ∧ t.mem = s.mem ∧
          t.chip.mgt = { s.chip.mgt with
            sbNext := 0, sbBytes := [], sbBusy := true
            rsm := s.chip.mgt.rsm ++ (if isHwCmd m.cmd then [m] else []), queue := s.chip.mgt.queue ++ (if isHwCmd m.cmd then [] else [m]) })) ∧
      (index.toNat ≠ s.chip.mgt.sbNext ∨ (index.toNat = 0 ∧ s.chip.mgt.sbBusy = true) → ∃ t, exec (.sidebandSegment n index last data) s = .next t ∧ t.mem = s.mem ∧
        t.chip.mgt = { s.chip.mgt with sbNext := 0, sbBytes := [] } ∧
        t.chip.flt.evs.get {} 7 = (s.chip.flt.evs.get {} 7).take ⟨1, 0x2C, 1⟩ false)) ∧
    (∀ bytes : List Byte, s.chip.Calm → s.chip.i3cOn = true → s.chip.mgt.inReset = false →
      let m : MgtPkt := { path := 2, bytes := bytes }
      ∃ t, exec (.i3cPrivateWrite bytes) s = .next t ∧ t.mem = s.mem ∧
        (s.chip.mgt.i3c.addr.isSome = true → s.chip.mgt.i3c.busy = false → s.chip.mgt.i3c.reply = none → t.chip.mgt = { s.chip.mgt with
          i3c := { s.chip.mgt.i3c with acked := true, busy := true }
          rsm := s.chip.mgt.rsm ++ (if isHwCmd m.cmd then [m] else []), queue := s.chip.mgt.queue ++ (if isHwCmd m.cmd then [] else [m]) }) ∧
        (s.chip.mgt.i3c.addr = none ∨ s.chip.mgt.i3c.busy = true ∨ s.chip.mgt.i3c.reply ≠ none →
          t.chip.mgt = { s.chip.mgt with i3c := { s.chip.mgt.i3c with acked := false } })) ∧
    (∀ (count : Nat) (bs : List Byte), s.chip.i3cOn = true → s.chip.mgt.i3c.addr.isSome = true → s.chip.mgt.i3c.reply = some bs →
      exec (.i3cPrivateRead count) s = .next (s.onChip (fun c => c.onI3c (fun i =>
        { i with acked := true, out := bs.take count, reply := if bs.length ≤ count then none else some bs })))) ∧
    (∀ v : BitVec 64, s.chip.mgt.jtagBusy = false → ∃ t m, exec (.regaccUpdate v) s = .next t ∧
      t.chip.mgt.jtagBusy = true ∧ t.chip.mgt.rsm = s.chip.mgt.rsm ++ [m] ∧ m.path = 3 ∧ m.cmd = (if natBit v.toNat 63 then 0x02 else 0x01) ∧
      m.par 0 4 = 4 * natBits v.toNat 34 22 ∧ m.par 4 (if natBit v.toNat 63 then 4 else 2) = (if natBit v.toNat 63 then natBits v.toNat 0 32 else 1) ∧
      m.formFault = none) ∧
    (∀ v : BitVec 64, s.chip.mgt.jtagBusy = true → ∃ t, exec (.regaccUpdate v) s = .next t ∧ t.chip.mgt = s.chip.mgt ∧
      t.chip.flt.evs.get {} 7 = (s.chip.flt.evs.get {} 7).take ⟨1, 0x2C, 2⟩ false)

/-- The I3C target. ENTDAA gives an address to a target without one, which answers its provisional ID, BCR and DCR and asks no longer for
Hot-Join; SETNEWDA changes the address and RSTDAA takes it; ENEC and DISEC switch its requests; the GET codes answer a target with an
address. With an address and its requests enabled it requests its most urgent pending interrupt; without an address and with Hot-Join
enabled it raises Hot-Join. BOOTSTAT captures BOOT_DETAIL over BOOT_STATUS; the end of the hold-off lets P0 claims be compared again. Rules:
R539, R647, R649, R653. -/
def Obligations.TargetAnswersAndAsks : Prop :=
  (∀ s : State, s.chip.i3cOn = true →
    let i := s.chip.mgt.i3c
    let sets (x : Instr) (j : I3c) : Prop := exec x s = .next (s.onChip (fun c => { c with mgt := { c.mgt with i3c := j } }))
    (∀ a, i.addr = none → sets (.i3cCcc (.entdaa a)) { i with
      acked := true, addr := some a.toNat, hotJoin := false, out := beBytes 6 s.chip.provId ++ [0x06, 0x00] }) ∧
    (∀ a, i.addr.isSome = true → sets (.i3cCcc (.setnewda a)) { i with acked := true, addr := some a.toNat }) ∧
    sets (.i3cCcc .rstdaa) { i with acked := true, addr := none } ∧
    (∀ ibi hj, sets (.i3cCcc (.enec ibi hj)) { i with acked := true, ibiEn := i.ibiEn || ibi, hjOff := i.hjOff && !hj }) ∧
    (∀ ibi hj, sets (.i3cCcc (.disec ibi hj)) { i with acked := true, ibiEn := i.ibiEn && !ibi, hjOff := i.hjOff || hj }) ∧
    (i.addr.isSome = true → sets (.i3cCcc .getpid) { i with acked := true, out := beBytes 6 s.chip.provId } ∧
      sets (.i3cCcc .getbcr) { i with acked := true, out := [0x06] } ∧ sets (.i3cCcc .getdcr) { i with acked := true, out := [0x00] } ∧
      sets (.i3cCcc .getmwl) { i with acked := true, out := beBytes 2 512 } ∧
      sets (.i3cCcc .getmrl) { i with acked := true, out := beBytes 2 512 ++ [3] } ∧
      ∃ t, exec (.i3cCcc .getstatus) s = .next t ∧ t.chip.mgt.i3c = { i with acked := true, out := beBytes 2 (Config.i3cStatus s.chip.free) }) ∧
    (∀ n, sets (.i3cCcc (.setmwl n)) { i with acked := i.addr.isSome } ∧ sets (.i3cCcc (.setmrl n)) { i with acked := i.addr.isSome }) ∧
    (∀ a, i.addr.isSome = true → sets (.i3cCcc (.entdaa a)) { i with acked := false }) ∧
    (∀ a, i.addr = none → sets (.i3cCcc (.setnewda a)) { i with acked := false } ∧ sets (.i3cCcc .getpid) { i with acked := false }) ∧
    sets (.i3cCcc .other) { i with acked := false } ∧
    (i.addr.isSome = true → i.ibiEn = true →
      (∀ a b, i.ibi3 = some (a, b) → sets .i3cIbiRequest { i with ibi3 := none, lastIbi := some (3, a, b) }) ∧
      (∀ a b, i.ibi3 = none → i.ibi2 = some (a, b) → sets .i3cIbiRequest { i with ibi2 := none, lastIbi := some (2, a, b) }) ∧
      (∀ a b, i.ibi3 = none → i.ibi2 = none → i.ibi1 = some (a, b) → sets .i3cIbiRequest { i with ibi1 := none, lastIbi := some (1, a, b) })) ∧
    (i.addr = none → i.hjOff = false → sets .hotJoinRequest { i with hotJoin := true })) ∧
  (∀ s : State, s.chip.boot.pwrgd = true → s.chip.thm.shut ≠ .released → exec .bootstatCapture s = .next (s.onChip (fun c =>
    { c with mgt := { c.mgt with bootstat := c.bootDetail * 2 ^ 32 + c.bootStatus } }))) ∧
  (∀ s : State, s.chip.live = true → exec .credHoldoffEnd s = .next (s.onChip (fun c => { c with mgt := { c.mgt with holdoff := false } })))

/-- MGT itself. A packet that has waited 1 us at the SBI raises the level event 0x2D, with detail 0 for I3C and 1 for the sideband; the
watchdog raises the contained event 0x08 at MGT. The end of MGT's block reset empties Ilael's queue and answers every command in it
INTERRUPTED (5), in their order, and after them the long command, whose work goes on: each in-band command gets its reply packet, and a path
that holds one reply shows that of its last. Rules: R594, R595. -/
def Obligations.MgtResetsAndAnswers : Prop :=
  ∀ s : State, s.chip.live = true →
    (∀ i3c : Bool, (∃ k ∈ s.chip.mgt.sbWait, k.path = if i3c then 2 else 1) → ∃ t, exec (.sbiMgtTimeout i3c) s = .next t ∧
      (⟨1, 0x2D, if i3c then 0 else 1⟩ : Event) ∈ (t.chip.flt.evs.get {} 7).levels ∧ t.chip.mgt = s.chip.mgt ∧ t.mem = s.mem) ∧
    (s.chip.mgt.inReset = false → ∃ t, exec .mgtWdog s = .next t ∧ t.chip.mgt = s.chip.mgt ∧ t.mem = s.mem ∧
      t.chip.flt.evs.get {} 2 = (s.chip.flt.evs.get {} 2).take ⟨2, 0x08, 0⟩ false) ∧
    (s.chip.Calm → s.chip.mgt.inReset = true → ∃ t, exec .mgtResetEnd s = .next t ∧ t.mem = s.mem ∧
      t.chip.mgt.inReset = false ∧ t.chip.mgt.queue = [] ∧ t.chip.mgt.rsm = s.chip.mgt.rsm ∧ t.chip.flt.resetEnd = some s.chip.keep ∧
      t.chip.mgt.long = s.chip.mgt.long.map (fun l => { l with pkt := { l.pkt with path := 5 } }) ∧
      let ks : List MgtPkt := s.chip.mgt.queue ++ (s.chip.mgt.long.map (·.pkt)).toList
      let last (path : Nat) : Option MgtPkt := (ks.filter (fun k => k.path == path)).getLast?
      let answer (k : MgtPkt) : List Byte := replyBytes k 5 0 []
      t.chip.xbr.pkts = s.chip.xbr.pkts ++ (ks.filter (fun k => k.path == 0)).map
        (fun k => ⟨.mgt, epMgt, k.port, .mgmtRsp k.port k.tag .ok 0 (answer k)⟩) ∧
      (∀ k, last 1 = some k → t.chip.mgt.sbOut = sbMsgs (answer k) ∧ t.chip.mgt.sbBusy = false) ∧
      (∀ k, last 2 = some k → t.chip.mgt.i3c.reply = some (answer k) ∧ t.chip.mgt.i3c.busy = false) ∧
      (∀ k, last 3 = some k → t.chip.mgt.jtagReg = jtagDone s.chip.mgt.jtagReg [] ∧ t.chip.mgt.jtagBusy = false) ∧
      (∀ k, last 4 = some k → t.chip.mgt.ilaelOut = answer k))

/-- The checks of a command, in their order. A packet of bad form is answered BAD_CMD or BAD_PARAM with the offset of its first bad
parameter; one not granted is refused DENIED (detail MGT), and a refused comparison is counted and begins the hold-off; a command of Ilael's
before READY is answered NOT_READY with BOOT_STATUS; a long one while another runs is refused BUSY (reason 1). None of them has any effect
besides. A reserved CMD is answered BAD_CMD. Rules: R643, R644, R652, R653, R655, R656. -/
def Obligations.CommandsAreChecked : Prop :=
  (∀ (i : Instr) (s : State) (via : Via) (cmd : Nat) (m : MgtPkt) (c : Chip), asCommand i = some (via, cmd) → s.chip.Calm →
    s.chip.Takes via cmd m c →
    let answers (rc arg : Nat) : Prop := ∃ t, exec i s = .next t ∧ Replied s.chip t.chip m rc arg [] ∧ t.mem = s.mem ∧ t.fuses = s.fuses ∧
      t.book = s.book ∧ t.chip.mgt.queue = c.mgt.queue ∧ t.chip.mgt.rsm = c.mgt.rsm ∧ t.chip.mgt.long = s.chip.mgt.long ∧
      t.chip.ports = s.chip.ports ∧ t.chip.slices = s.chip.slices ∧ t.chip.presses = s.chip.presses ∧ t.chip.chcs = s.chip.chcs ∧
      t.chip.dies = s.chip.dies ∧ t.chip.bwr = s.chip.bwr ∧ t.chip.thm = s.chip.thm ∧ t.chip.fus = s.chip.fus ∧ t.chip.nvm = s.chip.nvm
    (∀ rc a, m.formFault = some (rc, some a) → answers rc a) ∧
    (∀ cmp, m.formFault = none → s.chip.privilege m = .refused cmp → ∃ t, exec i s = .next t ∧
      t.chip.xbr.pkts = s.chip.xbr.pkts ++ [⟨.mgt, epMgt, m.port, .mgmtRsp m.port m.tag .denied 6 []⟩] ∧
      t.chip.mgt.fails = (if cmp then min max16 (s.chip.mgt.fails + 1) else s.chip.mgt.fails) ∧
      t.chip.mgt.holdoff = (cmp || s.chip.mgt.holdoff) ∧ t.chip.mgt.long = s.chip.mgt.long ∧ t.mem = s.mem ∧ t.fuses = s.fuses) ∧
    (∀ l, m.formFault = none → s.chip.privilege m = .granted l → isHwCmd cmd = false → s.chip.ilaelReady cmd = false →
      answers 3 s.chip.bootStatus) ∧
    (∀ l x, s.chip.Grants via cmd m c l → isLongCmd cmd = true → s.chip.mgt.long = some x → answers 6 1)) ∧
  (∀ (s : State) (via : Via) (code : Byte) (m : MgtPkt) (c : Chip), s.chip.live = true → s.chip.Calm → reservedCode code.toNat = true →
    s.chip.take via code.toNat reservedCode = some (m, c) →
    ∃ t, exec (.reservedCmd via code) s = .next t ∧ Replied s.chip t.chip m 1 0 [] ∧ t.mem = s.mem ∧ t.chip.fus = s.chip.fus)

/-- The immediate commands that read. REG_READ of one word answers what the register shows, 0 where nothing is; GET_INFO the identity,
BOOT_STATUS, the level and the path; CAPACITY the capacity report; FUSE_READ the words with their marginal masks, secret words as 0;
READ_LOG of counters the image, of another log and NVM_READ of an area the payloads of its slots as the book has them; both are refused
NVM_FAILED (0x11) while the book is closed. They change no cell, fuse or record; FUSE_READ leaves the last word it read in the fuse array's
read buffer (DEDUCED, log entry 56). Rules: R603, R615, R626, R656. -/
def Obligations.ReadingCommandsAnswer : Prop :=
  ∀ (s : State) (via : Via) (m : MgtPkt) (c : Chip) (l : Nat), s.chip.Calm →
    let answers (i : Instr) (rc arg : Nat) (data : List Byte) : Prop := ∃ t, exec i s = .next t ∧ Replied s.chip t.chip m rc arg data ∧
      t.mem = s.mem ∧ t.fuses = s.fuses ∧ t.book = s.book ∧ t.chip.ports = s.chip.ports ∧ t.chip.fus = s.chip.fus ∧ t.chip.thm = s.chip.thm
    let start := m.par 4 4
    let slots (a : Nat) : List (Option (List Byte)) :=
      (upFrom start (readCount start (areaPlace a).2)).map (fun x => (s.book.read s.chip.nvm.reloc a x).map (·.payload))
    (s.chip.Grants via 0x01 m c l → m.par 4 2 = 1 →
      (∀ f o, target (m.par 0 4) = some (f, o) → answers (.regRead via) 0 (if c.frameHidden f then 1 else 0) (leBytes 4 (c.regValue f o))) ∧
      (target (m.par 0 4) = none → answers (.regRead via) 0 0 [0, 0, 0, 0])) ∧
    (s.chip.Grants via 0x03 m c l → answers (.getInfo via) 0 0 (leBytes 4 (s.chip.fus.eff.get 0 0) ++ leBytes 4 (s.chip.fus.eff.get 0 1) ++
      leBytes 4 (s.chip.fus.eff.get 0 2) ++ leBytes 4 (s.chip.fus.eff.get 0 3) ++ leBytes 4 s.chip.bootStatus ++ leBytes 4 0x00010000 ++
      leBytes 4 s.chip.boot.patchVersion ++ leBytes 1 l ++ leBytes 1 m.path ++ leBytes 1 (if m.path = 0 then m.port else 0) ++ [0])) ∧
    (s.chip.Grants via 0x3B m c l → answers (.capacity via) 0 0 s.chip.capacityReport) ∧
    (s.chip.Grants via 0x2A m c l → ∃ t, exec (.fuseRead via) s = .next t ∧ Replied s.chip t.chip m 0 0
        ((upFrom (m.par 0 2) (m.par 2 2)).flatMap (fun w =>
          if secretWord w then leBytes 8 0 else leBytes 4 (s.fuses.norm w) ++ leBytes 4 (s.fuses.norm w ^^^ s.fuses.strict w))) ∧
      t.mem = s.mem ∧ t.fuses = s.fuses ∧ t.book = s.book ∧ t.chip.ports = s.chip.ports ∧ t.chip.thm = s.chip.thm ∧
      t.chip.fus = { s.chip.fus with rdBuf := s.fuses.norm (m.par 0 2 + m.par 2 2 - 1) }) ∧
    (s.chip.Grants via 0x22 m c l →
      (s.chip.nvmOpen = false → answers (.readLog via) 6 0x11 []) ∧
      (s.chip.nvmOpen = true → m.par 0 1 < 5 → answers (.readLog via) 0 0 (slotReply 0 (m.par 0 1) start
        ((upFrom start (readCount start (logRange (m.par 0 1)).2)).map
          (fun x => some (imagePayload s.chip.nvm.counters ((logRange (m.par 0 1)).1 + x)))))) ∧
      (s.chip.nvmOpen = true → 5 ≤ m.par 0 1 → answers (.readLog via) 0 0 (slotReply (s.chip.nvm.headOf (logArea (m.par 0 1))) (m.par 0 1) start
        (slots (logArea (m.par 0 1)))))) ∧
    (s.chip.Grants via 0x30 m c l →
      (s.chip.nvmOpen = false → answers (.nvmRead via) 6 0x11 []) ∧
      (s.chip.nvmOpen = true → answers (.nvmRead via) 0 0 (slotReply (s.chip.nvm.headOf (m.par 0 1)) (m.par 0 1) start (slots (m.par 0 1)))))

/-- The immediate commands that set. REG_WRITE to a posted frame is held there until the frame applies it, or discarded with ARG 1 and
counted while one is held; elsewhere it acts, at the window selector of XBR and at each register whose fields a write does no more than set,
and on a frame under test it does not, with ARG 2. SET_WINDOW writes its window and no other; SET_THERMAL sets the limits where they are
legal, and is refused LOCKED (4) or OUT_OF_LIMITS (0x0F): these two rest on R203, R502 and R658, which they state in part. COMMIT_GUARANTEES
takes a set whose sum BWR can deliver, in force from the next window boundary, and answers OVERCOMMIT (7) to one that it cannot, as to any
while BWR is bypassed. Rules: R286, R287, R670. -/
def Obligations.SettingCommandsAct : Prop :=
  ∀ (s : State) (via : Via) (m : MgtPkt) (c : Chip) (l : Nat), s.chip.Calm →
    (s.chip.Grants via 0x02 m c l →
      (∀ f o, target (m.par 0 4) = some (f, o) → isPosted f = true → ∃ t, exec (.regWrite via) s = .next t ∧ t.mem = s.mem ∧
        (s.chip.mgt.posted.has (frameNo f) = false → Replied s.chip t.chip m 0 0 [] ∧
          t.chip.mgt.posted = s.chip.mgt.posted.put (frameNo f) ⟨o, m.par 4 4⟩ ∧ t.chip.mgt.drops = s.chip.mgt.drops) ∧
        (s.chip.mgt.posted.has (frameNo f) = true → Replied s.chip t.chip m 0 1 [] ∧ t.chip.mgt.posted = s.chip.mgt.posted ∧
          t.chip.mgt.drops.get 0 (frameNo f) = bump32 (s.chip.mgt.drops.get 0 (frameNo f)))) ∧
      (∀ f o k, target (m.par 0 4) = some (f, o) → isPosted f = false → rwMask f o = some k → s.chip.inStep 9 = false →
        s.chip.frameHidden f = false → ∃ t, exec (.regWrite via) s = .next t ∧ Replied s.chip t.chip m 0 0 [] ∧ t.mem = s.mem ∧
          t.chip.regValue f o = m.par 4 4 &&& k ∧ t.chip.mgt.posted = s.chip.mgt.posted) ∧
      (∀ f o, target (m.par 0 4) = some (f, o) → isPosted f = false → s.chip.frameHidden f = true →
        ∃ t, exec (.regWrite via) s = .next t ∧ Replied s.chip t.chip m 0 2 [] ∧ t.mem = s.mem ∧ t.chip.mgt.posted = s.chip.mgt.posted ∧
          t.chip.ports = s.chip.ports ∧ t.chip.slices = s.chip.slices ∧ t.chip.chcs = s.chip.chcs ∧ t.chip.presses = s.chip.presses) ∧
      (target (m.par 0 4) = some (.xbr, 0x208) → ∃ t, exec (.regWrite via) s = .next t ∧ Replied s.chip t.chip m 0 0 [] ∧
        t.chip.addr.winSel = m.par 4 4 % 64 ∧ t.chip.addr.wins = s.chip.addr.wins ∧ t.chip.mgt.posted = s.chip.mgt.posted ∧ t.mem = s.mem) ∧
      (target (m.par 0 4) = none → ∃ t, exec (.regWrite via) s = .next t ∧ Replied s.chip t.chip m 0 0 [] ∧ t.mem = s.mem ∧
        t.chip.mgt.posted = s.chip.mgt.posted ∧ t.chip.ports = s.chip.ports ∧ t.chip.chcs = s.chip.chcs ∧ t.chip.thm = s.chip.thm)) ∧
    (s.chip.Grants via 0x3A m c l → ∃ t, exec (.setWindow via) s = .next t ∧ Replied s.chip t.chip m 0 0 [] ∧ t.mem = s.mem ∧
      t.chip.window (m.par 0 1) = ⟨natBit (m.par 1 1) 0, m.par 4 4, m.par 8 4, natBits (m.par 1 1) 1 2, m.par 16 16⟩ ∧
      ∀ w, w ≠ m.par 0 1 → t.chip.window w = s.chip.window w) ∧
    (s.chip.Grants via 0x38 m c l →
      let lim : Limits := ⟨m.par 0 1, m.par 1 1, m.par 2 1, m.par 3 1⟩
      ∃ t, exec (.setThermal via) s = .next t ∧ t.mem = s.mem ∧
        (s.chip.thm.lock.v = 1 → Replied s.chip t.chip m 6 4 [] ∧ t.chip.thm = s.chip.thm) ∧
        (s.chip.thm.lock.v ≠ 1 → limitsOk lim s.chip.thm.fused = false → Replied s.chip t.chip m 6 0x0F [] ∧ t.chip.thm = s.chip.thm) ∧
        (s.chip.thm.lock.v ≠ 1 → limitsOk lim s.chip.thm.fused = true → Replied s.chip t.chip m 0 0 [] ∧
          t.chip.thm = { s.chip.thm with lim := lim })) ∧
    (s.chip.Grants via 0x39 m c l →
      let gs := (below 8).map (fun k => m.par (2 * k) 2)
      let sum := gs.foldl (· + ·) 0
      let data (cap : Nat) : List Byte := leBytes 2 cap ++ leBytes 2 sum ++ padBytes 4 []
      ∃ t, exec (.commitGuarantees via) s = .next t ∧ t.mem = s.mem ∧
        (s.chip.bwr.bypass = false → sum ≤ s.chip.bwr.deliver → Replied s.chip t.chip m 0 0 (data s.chip.bwr.deliver) ∧
          t.chip.bwr = { s.chip.bwr with pendSet := some gs } ∧
          (10 ≤ s.chip.boot.step → ∃ u, exec .budgetWindowBoundary t = .next u ∧
            ∀ k, k < 8 → (t.chip.cls k).guar = (s.chip.cls k).guar ∧ (u.chip.cls k).guar = m.par (2 * k) 2)) ∧
        (s.chip.bwr.bypass = false → s.chip.bwr.deliver < sum → Replied s.chip t.chip m 7 0 (data s.chip.bwr.deliver) ∧
          t.chip.bwr = s.chip.bwr) ∧
        (s.chip.bwr.bypass = true → Replied s.chip t.chip m 7 0 (data 0) ∧ t.chip.bwr = s.chip.bwr)) ∧
    (∀ f w, s.chip.live = true → s.chip.mgt.posted.look (frameNo f) = some w →
      ∃ t, exec (.postedWriteApply f) s = .next t ∧ t.chip.mgt.posted.look (frameNo f) = none)

/-- The long commands that go on with the work of the stack. TRAIN of a channel in service begins its drain, and is refused TARGET_STATE
(0x0B) where a pseudo-channel it names is held; CALIBRATE starts a pass on every pseudo-channel it names that may run one; CAL_STORE queues
the set's records under the next generation, and NVM_WRITE its record; both are refused NVM_FAILED (0x11) while the book is closed, and BUSY
(1) within a second of the last CAL_STORE, or of the last write of that slot. Each stands as the long command running. What TRAIN drains and
when it starts are the model's readings (log entry 41). Rules: R416, R434, R437, R624, R636, R655. -/
def Obligations.LongCommandsStart : Prop :=
  ∀ (s : State) (via : Via) (m : MgtPkt) (c : Chip) (l : Nat), s.chip.Calm → s.chip.mgt.long = none →
    (s.chip.Grants via 0x10 m c l →
      let k := m.par 0 2
      let mask := m.par 2 1
      ((∀ p, p < 2 → names mask p = true →
          (s.chip.pc k p).state ≠ .retrainHold ∧ (s.chip.pc k p).state ≠ .rescue ∧ (s.chip.pc k p).state ≠ .fenced) →
        s.chip.boot.field = none → (s.chip.chc k).test = .normal → (s.chip.chc k).bistFail = false → s.chip.testFailed (176 + k) = false →
        ∃ t q, exec (.train via) s = .next t ∧ t.chip.mgt.long = some ⟨0x10, m, .train k mask s.chip.keep q⟩ ∧ t.mem = s.mem ∧
          ((t.chip.chc k).test = .quiescing ∨ (t.chip.chc k).test = .quiesced)) ∧
      ((∃ p, p < 2 ∧ names mask p = true ∧
          ((s.chip.pc k p).state = .retrainHold ∨ (s.chip.pc k p).state = .rescue ∨ (s.chip.pc k p).state = .fenced)) →
        ∃ t, exec (.train via) s = .next t ∧ Replied s.chip t.chip m 6 0x0B [] ∧ t.chip.chcs = s.chip.chcs ∧ t.chip.mgt.long = none)) ∧
    (s.chip.Grants via 0x11 m c l →
      let k := m.par 0 2
      let mask := m.par 2 1
      (∀ p, p < 2 → names mask p = true → s.chip.calMayRun k p = true ∧ (s.chip.pc k p).cal = none) → (∃ p, p < 2 ∧ names mask p = true) →
      ∃ t, exec (.calibrate via) s = .next t ∧ t.chip.mgt.long = some ⟨0x11, m, .calibrate k mask⟩ ∧ t.mem = s.mem ∧
        ∀ p, p < 2 → t.chip.pc k p =
          (if names mask p then Pc.monModes { (s.chip.pc k p).modeWritten with cal := some {
            startUs := s.chip.us, byCmd := true, monD := (s.chip.chc k).monD, monV := (s.chip.chc k).monV } } else s.chip.pc k p)) ∧
    (s.chip.Grants via 0x12 m c l → ∃ t, exec (.calStore via) s = .next t ∧ t.mem = s.mem ∧ t.book = s.book ∧
      (s.chip.nvmOpen = false → Replied s.chip t.chip m 6 0x11 []) ∧
      (s.chip.nvmOpen = true → s.chip.calTooSoon = true → Replied s.chip t.chip m 6 1 []) ∧
      (s.chip.nvmOpen = true → s.chip.calTooSoon = false →
        let gen := (s.chip.nvm.calGen + 1) % 2 ^ 32
        t.chip.mgt.long = some ⟨0x12, m, .calStore gen 0⟩ ∧
        t.chip.nvm = Nvm.kick { s.chip.nvm with userQ := s.chip.nvm.userQ ++ s.chip.calStoreReqs gen })) ∧
    (s.chip.Grants via 0x31 m c l → ∃ t, exec (.nvmWrite via) s = .next t ∧ t.mem = s.mem ∧ t.book = s.book ∧
      (s.chip.nvmOpen = false → Replied s.chip t.chip m 6 0x11 []) ∧
      (s.chip.nvmOpen = true → m.par 0 1 ≠ 8 → m.par 0 1 ≠ 9 → Replied s.chip t.chip m 6 0x10 []) ∧
      (s.chip.nvmOpen = true → (m.par 0 1 = 8 ∨ m.par 0 1 = 9) → s.chip.slotRecent (m.par 0 1) (m.par 4 4) = true →
        Replied s.chip t.chip m 6 1 [] ∧ t.chip.nvm = s.chip.nvm ∧ t.chip.mgt.long = none) ∧
      (s.chip.nvmOpen = true → (m.par 0 1 = 8 ∨ m.par 0 1 = 9) → s.chip.slotRecent (m.par 0 1) (m.par 4 4) = false →
        t.chip.mgt.long = some ⟨0x31, m, .nvmWrite false⟩ ∧
        t.chip.nvm = Nvm.kick { s.chip.nvm with userQ := s.chip.nvm.userQ ++ [{
          area := m.par 0 1, slot := some (m.par 4 4), body := byteSlice m.params 8 48
          gen := if m.par 0 1 = 8 then (s.chip.nvm.patchGen + 1) % 2 ^ 32 else 0, what := .patchWrite }] }))

/-- An in-field test from QUIESCE to RESUME. QUIESCE of a target in service begins its quiescing; when its work is done QUIESCE_COMPLETE
replies OK. RUN_BIST of the quiesced target begins its first step, a scan test with the secrets zeroised. BIST_PHASE_END of a step before
the tests begins the next; the logic test of a data channel is judged by the signature and the count fused for its type; the test of slice
arrays, whose one step it is, ends PASS with the target still quiesced, or FAIL or INCOMPLETE with the slice failed and 0x2A raised. RESUME
returns a quiesced target to service, a job of a press whose cancel was recorded in the test ending first. RUN_BIST and RESUME of a target
not quiesced are refused NOT_QUIESCED (0x0A). Rules: R342, R462, R532, R533, R551, R552, R553, R555, R557, R534. -/
def Obligations.FieldTestsRun : Prop :=
  ∀ (s : State), s.chip.Calm →
    (∀ (via : Via) (m : MgtPkt) (c : Chip) (l : Nat) (f : FieldKind), fieldKind (m.par 0 2) = some f →
      (s.chip.Grants via 0x19 m c l → s.chip.mgt.long = none → s.chip.targetHeld f = false → s.chip.targetFailed f (m.par 0 2) = false →
        s.chip.boot.field = none → ∃ t, exec (.quiesce via) s = .next t ∧ t.mem = s.mem ∧
          t.chip.boot.field = some { block := m.par 0 2, phase := 1, q := s.chip.keep, e := m.par 4 4 } ∧
          t.chip.mgt.long = some ⟨0x19, m, .quiesce (m.par 0 2)⟩) ∧
      (∀ ok : Bool, s.chip.Grants via 0x18 m c l → s.chip.mgt.long = none →
        (s.chip.isQuiesced (m.par 0 2) = false → ∃ t, exec (.runBist via ok) s = .next t ∧ Replied s.chip t.chip m 6 0x0A [] ∧
          t.chip.boot = s.chip.boot ∧ t.chip.fus = s.chip.fus) ∧
        (s.chip.isQuiesced (m.par 0 2) = true → s.chip.targetFailed f (m.par 0 2) = false → s.chip.boot.saveRamFail = false →
          (f.scans = true → ok = true) → ∃ t x, exec (.runBist via ok) s = .next t ∧ t.mem = s.mem ∧ t.chip.boot.field = some x ∧
            x.block = m.par 0 2 ∧ x.step = 0 ∧ x.phase = f.phases.getD 0 4 ∧ x.res = 1 ∧ x.pats = 0 ∧
            t.chip.boot.cntRuns = min max16 (s.chip.boot.cntRuns + 1) ∧ t.chip.mgt.long = some ⟨0x18, m, .bist (m.par 0 2)⟩ ∧
            (f.scans = true → t.chip.fus.zeroised = true ∧ t.chip.fus.cred = 0 ∧ t.chip.fus.key0 = 0 ∧ t.chip.fus.key1 = 0 ∧
              t.chip.fus.rdBuf = 0))) ∧
      (s.chip.Grants via 0x1A m c l →
        (s.chip.isQuiesced (m.par 0 2) = false → ∃ t, exec (.resume via) s = .next t ∧ Replied s.chip t.chip m 6 0x0A [] ∧
          t.chip.boot.field = s.chip.boot.field) ∧
        (s.chip.isQuiesced (m.par 0 2) = true → ∃ t, exec (.resume via) s = .next t ∧
          t.chip.boot.field = none ∧ t.mem = s.mem ∧
          ((∀ p, f = .press p → ∀ e ∈ (s.chip.press p).runnable, e.2.cancel = false) → Replied s.chip t.chip m 0 0 []) ∧
          (∀ k, f = .data k → (s.chip.chc k).bistFail = false →
            (t.chip.chc k).test = .normal ∧ t.chip.slice k = (s.chip.slice k).backToService) ∧
          (∀ k, f = .arrays k → t.chip.slice k = (s.chip.slice k).backToService) ∧
          (∀ p, f = .press p → (s.chip.press p).mode ≠ .failed → (t.chip.press p).mode = .normal) ∧
          (∀ p i j, f = .press p → (s.chip.press p).runnable.filter (fun e => e.2.cancel) = [(i, j)] → (s.chip.press p).ctxs.look i = some j →
            (t.chip.press p).ctxs.look i = some { j with ended := true, status := .aborted, waitTest := false, waitBuf := false })))) ∧
    (∀ (x : FieldTest) (f : FieldKind), s.chip.live = true → s.chip.boot.field = some x → fieldKind x.block = some f →
      (x.phase = 1 → s.chip.quiesceWork f = true → ∃ t, exec .quiesceComplete s = .next t ∧ t.mem = s.mem ∧
        t.chip.boot.field = some { x with phase := 2 } ∧
        (∀ l b, s.chip.mgt.inReset = false → s.chip.mgt.long = some l → l.job = .quiesce b →
          t.chip.mgt.long = none ∧ Replied s.chip t.chip l.pkt 0 0 [])) ∧
      (∀ (run : BistRun) (v0 v1 : CheckerRun),
        (x.phase = 3 → ∃ t y, exec (.bistPhaseEnd run v0 v1) s = .next t ∧ t.mem = s.mem ∧ t.chip.boot.field = some y ∧ y.block = x.block ∧
          y.step = x.step + 1 ∧ y.phase = f.phases.getD (x.step + 1) 6 ∧ y.since = s.chip.keep) ∧
        (∀ k, f = .data k → x.phase = 4 → x.step = 2 → x.res = 1 → ∃ t y, exec (.bistPhaseEnd run v0 v1) s = .next t ∧ t.mem = s.mem ∧
          t.chip.boot.field = some y ∧ y.block = x.block ∧ y.step = 3 ∧ y.phase = 4 ∧
          y.res = (if run.signature.toNat ≠ s.chip.fus.eff.get 0 50 then 2
            else if run.count.toNat = s.chip.fus.eff.get 0 51 ∧ run.complete = true then 1 else 3)) ∧
        (∀ k l b, f = .arrays k → x.phase = 4 → x.step = 0 → x.res = 1 → x.pats = 0 → s.chip.mgt.inReset = false →
          s.chip.mgt.long = some l → l.job = .bist b →
          ∃ t y, exec (.bistPhaseEnd run v0 v1) s = .next t ∧ t.mem = s.mem ∧ t.chip.boot.field = some y ∧ y.phase = 2 ∧
            t.chip.mgt.long = none ∧
            (run.bad = false ∧ run.range = true ∧ run.complete = true → Replied s.chip t.chip l.pkt 0 0 [] ∧
              t.chip.boot.results.get {} x.block = { result := 1, field := true, patterns := run.patterns.toNat } ∧
              t.chip.slice k = s.chip.slice k) ∧
            (run.bad = true ∨ run.range = false ∨ run.complete = false → let res := if run.bad then 2 else 3
              Replied s.chip t.chip l.pkt 8 res [] ∧
              t.chip.boot.results.get {} x.block = { result := res, field := true, patterns := run.patterns.toNat } ∧
              t.chip.slice k = { s.chip.slice k with failed := true, mode := .bypassFailed } ∧
              t.chip.flt.evs.get {} 6 = (s.chip.flt.evs.get {} 6).take ⟨1, 0x2A, x.block⟩ false))))

/-- Retirement. RETIRE_ROW of a row of a served bank that holds no remap entry takes the lowest free usable entry, RETIRE_BANK the entry
that packing chooses; each marks it as racking, queues the racking on the bank's die behind the others, puts RETIRE_STARTED into the error
ring, and replies with the entry. Both are refused NVM_FAILED (0x11) while the book is closed, NOT_RETIRABLE (8) on a bank unserved or
remapped, BUSY (1) with 64 pending on the die, and NO_SPARE (9) with no entry left. Rules: R208, R469, R470, R471, R472. -/
def Obligations.RetirementsTakeEntries : Prop :=
  ∀ (s : State) (via : Via) (m : MgtPkt) (c : Chip) (l : Nat) (i : Instr) (isRow : Bool), s.chip.Calm →
    (i = .retireRow via ∧ isRow = true ∧ s.chip.Grants via 0x20 m c l ∨ i = .retireBank via ∧ isRow = false ∧ s.chip.Grants via 0x21 m c l) →
    let bank := m.par 0 2
    let entry : Option Nat := if isRow then s.chip.freeRow bank else s.chip.packEntry
    let open' : Prop := s.chip.nvmOpen = true ∧ s.chip.notRetirable bank = false ∧ (s.chip.die (bank / 128)).pending < 64
    let refuses (reason : Nat) : Prop := ∃ t, exec i s = .next t ∧ Replied s.chip t.chip m 6 reason [] ∧ t.chip.addr = s.chip.addr ∧
      t.chip.dies = s.chip.dies ∧ t.mem = s.mem
    (s.chip.nvmOpen = false → refuses 0x11) ∧
    (s.chip.nvmOpen = true → s.chip.notRetirable bank = true → refuses 8) ∧
    (s.chip.nvmOpen = true → s.chip.notRetirable bank = false → 64 ≤ (s.chip.die (bank / 128)).pending → refuses 1) ∧
    (open' → entry = none → refuses 9) ∧
    (∀ e, open' → entry = some e → ∃ t j, exec i s = .next t ∧ Replied s.chip t.chip m 0 e [] ∧ t.mem = s.mem ∧
      (t.chip.die (bank / 128)).queue = (s.chip.die (bank / 128)).queue ++ [j] ∧ j.bank = bank ∧ j.entry = e ∧ j.logged = false ∧
      t.chip.ring = s.chip.ring.push s.chip.us
        { type := 0x03, cls := 0, source := 2, row := j.row, bank := bank, arg0 := if isRow then 0 else 1, arg1 := e } ∧
      (isRow = true → j.row = m.par 4 4 ∧ t.chip.rowmapE e = { valid := true, racking := true, row := m.par 4 4 } ∧
        ∀ x, x ≠ e → t.chip.rowmapE x = s.chip.rowmapE x) ∧
      (isRow = false → j.row = 0 ∧ t.chip.remapE e = { valid := true, cause := 3, racking := true, bank := bank } ∧
        ∀ x, x ≠ e → t.chip.remapE x = s.chip.remapE x))

/-- Fuse commands. FUSE_PROGRAM starts on the bits of its mask that read 0 at the normal reference, REINFORCE on those that read 1 there and
0 at the strict, FUSE_SEAL on the region's SEAL; with no bit to pulse the command ends OK at once, and each is refused with the first reason
of R611 or R614 that holds. A pulse changes its word's one fuse as it reads; both fuses of each bit get theirs, in REINFORCE those of every
weak bit before any is read. After it the command goes on, or fails with the bit's number where neither fuse took, raising 0x12, or at its
last bit ends OK, with the bits programmed as ARG, or with the region locked and shown SEALED_GOOD for a seal. While EN is 0 no pulse goes
on (DEDUCED, log entry 56). Rules: R610, R611, R612, R613, R614. -/
def Obligations.FusesAreProgrammed : Prop :=
  ∀ s : State, s.chip.Calm →
    (∀ (via : Via) (m : MgtPkt) (c : Chip) (l : Nat), s.chip.mgt.long = none →
      (s.chip.Grants via 0x28 m c l →
        let w := m.par 0 2
        let reinforce := m.par 2 1 == 1
        let bits := if reinforce then weakBits (s.fuses.get {} w) else programBits (s.fuses.get {} w) (m.par 4 4)
        ∃ t, exec (.fuseProgram via) s = .next t ∧ t.fuses = s.fuses ∧ t.mem = s.mem ∧
          (∀ r, s.chip.programRefused w reinforce = some r → Replied s.chip t.chip m 6 r [] ∧ t.chip.fus = s.chip.fus) ∧
          (s.chip.programRefused w reinforce = none → bits = [] → Replied s.chip t.chip m 0 0 [] ∧ t.chip.fus = s.chip.fus) ∧
          (s.chip.programRefused w reinforce = none → bits ≠ [] → t.chip.mgt.long = some ⟨0x28, m, .fuse⟩ ∧
            t.chip.fus = { s.chip.fus with cmd := some {
              word := w, bits := bits, reinforce := reinforce, blind := if reinforce then bits else [] } })) ∧
      (s.chip.Grants via 0x29 m c l → ∃ t, exec (.fuseSeal via) s = .next t ∧ t.fuses = s.fuses ∧ t.mem = s.mem ∧
        (∀ r, s.chip.sealRefused s.fuses (m.par 0 1) = some r → Replied s.chip t.chip m 6 r [] ∧ t.chip.fus = s.chip.fus) ∧
        (s.chip.sealRefused s.fuses (m.par 0 1) = none → t.chip.mgt.long = some ⟨0x29, m, .fuse⟩ ∧
          t.chip.fus = { s.chip.fus with cmd := some { word := 64 * m.par 0 1 + 62, bits := [0], sealing := true } }))) ∧
    (∀ (normal strict : Bool) (x : FuseCmd) (b : Nat) (lc : LongCmd), s.chip.live = true → s.chip.thm.shut = .none →
      s.chip.fus.en = true → s.chip.mgt.inReset = false →
      s.chip.fus.cmd = some x → x.bit = some b → s.chip.mgt.long = some lc → lc.job = .fuse →
      let a := s.fuses.pulse x.word (x.phase % 2) b normal strict
      ∃ t, exec (.fusePulseEnd normal strict) s = .next t ∧ t.fuses = a ∧ t.mem = s.mem ∧ t.chip.fus.cntPulse = bump32 s.chip.fus.cntPulse ∧
        (∀ w, w ≠ x.word → t.fuses.norm w = s.fuses.norm w ∧ t.fuses.strict w = s.fuses.strict w) ∧
        (∀ y, x.next (a.get {} x.word) = .goesOn y → t.chip.fus.cmd = some y ∧ t.chip.mgt.long = some lc) ∧
        (x.blind = [] → x.phase = 0 → x.bits.head? = some b → t.chip.fus.cmd = some { x with phase := 1 }) ∧
        (∀ e later, x.blind = b :: e :: later → t.chip.fus.cmd = some (if x.phase = 0 then { x with phase := 1 }
          else { x with blind := e :: later, phase := 0 })) ∧
        (∀ bit, x.next (a.get {} x.word) = .bitFails bit → t.chip.fus.cmd = none ∧ t.chip.mgt.long = none ∧
          Replied s.chip t.chip lc.pkt 8 (32 * x.word + bit) [] ∧
          t.chip.flt.evs.get {} 3 = (s.chip.flt.evs.get {} 3).take ⟨1, 0x12, 32 * x.word + bit⟩ false) ∧
        (∀ y, x.next (a.get {} x.word) = .ends y → t.chip.fus.cmd = none ∧ t.chip.mgt.long = none ∧
          Replied s.chip t.chip lc.pkt 0 (if x.sealing then 0 else y.pulsed) [] ∧
          t.chip.fus.locked = (if x.sealing then s.chip.fus.locked ||| 2 ^ (x.word / 64) else s.chip.fus.locked) ∧
          t.chip.fus.state = (if x.sealing then s.chip.fus.state ||| 4 ^ (x.word / 64) else s.chip.fus.state))) ∧
    (∀ normal strict : Bool, s.chip.fus.en = false → exec (.fusePulseEnd normal strict) s = .next s)

/-! ### Cellar book, registers -/

/-- The end of a record write. Read back, the record stands in its copy of the book, and a journal's head and JSEQ go on; not read back,
that copy has no valid record and the same write is tried again in the same copy, and after its third failure the slot is relocated to the
spare slot after the last one taken, its directory slot queued; the write is counted, and no other record changes while it is tried. The
life counters. A second adds one to the counter of seconds, to the temperature bin and the band counter of each die and to the base die's
temperature bin, and opens new limits for the journals; a window of 64 ms adds one to the bin of each bank's ACTs and counts them from 0
again; COUNTER_FLUSH sets every counter slot to be written. Rules: R619, R622, R623, R624, R627, R628, R629, R630. -/
def Obligations.CellarBookIsWritten : Prop :=
  (∀ (s : State) (w : NvmWrite), s.chip.on = true → s.chip.nvm.cur = some w →
     let x := s.chip.writeRecord s.book w
     (∀ ok : Bool, ok = true ∨ w.tries < 2 → ∃ t, exec (.nvmRecordWriteEnd ok) s = .next t ∧ t.book.look x.1 = some (if ok then some x.2 else none) ∧
       (∀ y, y ≠ x.1 → t.book.look y = s.book.look y) ∧ t.mem = s.mem ∧ t.fuses = s.fuses) ∧
     (s.chip.Calm → s.chip.thm.shut = .none →
       (∃ t, exec (.nvmRecordWriteEnd true) s = .next t ∧ t.chip.nvm.cntWrite = bump32 s.chip.nvm.cntWrite ∧
         (isJournal w.req.area = true → w.req.what = .nothing →
           t.chip.nvm.heads.get 0 w.req.area = (s.chip.nvm.heads.get 0 w.req.area + 1) % (areaPlace w.req.area).2 ∧
           t.chip.nvm.jseq.get 0 w.req.area = (s.chip.nvm.jseq.get 0 w.req.area + 1) % 2 ^ 32) ∧
         (w.req.what = .calStore → w.req.slot = some 0 → t.chip.nvm.calGen = w.req.gen ∧ t.chip.nvm.calEnd = some s.chip.keep) ∧
         (w.req.what = .nothing → s.chip.nvm.pop = none → t.chip.nvm.cur = none)) ∧
       (w.tries < 2 → ∃ t, exec (.nvmRecordWriteEnd false) s = .next t ∧ t.chip.nvm.cur = some { w with
         tries := w.tries + 1, place := some (x.1, x.2.seq) } ∧ t.chip.nvm.cntWrite = bump32 s.chip.nvm.cntWrite) ∧
       (w.tries = 2 → w.req.area ≠ 0 → s.chip.nvm.reloc.length < 180 →
         let slot := (areaPlace w.req.area).1 + s.chip.writeSlot w.req
         (∀ e ∈ s.chip.nvm.reloc, e.1 ≠ slot ∧ e.2 < 32767) →
         ∃ t spare, exec (.nvmRecordWriteEnd false) s = .next t ∧ 28762 ≤ spare ∧ (∀ e ∈ s.chip.nvm.reloc, e.2 < spare) ∧
           t.chip.nvm.reloc = s.chip.nvm.reloc ++ [(slot, spare)] ∧ t.chip.nvm.cur = some { req := w.req } ∧ t.mem = s.mem ∧
           t.chip.nvm.dirQ = s.chip.nvm.dirQ ++ [{ area := 0, slot := some (1 + s.chip.nvm.reloc.length / 12), body := [] }]))) ∧
  (∀ s : State, s.chip.live = true → s.chip.nvm.up = true → s.chip.nvm.failed = false →
     ((∀ d, d < 18 → (s.chip.zone d).band < 3) → ∃ t, exec .lifeCounterSecond s = .next t ∧ t.chip.nvm.secCnt = [] ∧ t.mem = s.mem ∧ t.book = s.book ∧
       t.chip.nvm.counters.get 0 (lifeIx 0 0) = bump32 (s.chip.nvm.counters.get 0 (lifeIx 0 0)) ∧
       (∀ d, d < 18 → let i := lifeIx 1 (16 * d + tempBin (s.chip.zone d).temp)
         t.chip.nvm.counters.get 0 i = bump32 (s.chip.nvm.counters.get 0 i)) ∧
       (∀ temp, s.chip.baseMax = some temp → let i := lifeIx 1 (16 * 18 + tempBin temp)
         t.chip.nvm.counters.get 0 i = bump32 (s.chip.nvm.counters.get 0 i)) ∧
       ∀ d, d < 18 → t.chip.nvm.counters.get 0 (lifeIx 27 (3 * d + (s.chip.zone d).band)) =
         bump32 (s.chip.nvm.counters.get 0 (lifeIx 27 (3 * d + (s.chip.zone d).band)))) ∧
     (∃ t, exec .actHistWindow s = .next t ∧ t.mem = s.mem ∧ t.book = s.book ∧ (∀ k p, (t.chip.pc k p).acts = []) ∧
       ∀ b, b < 2304 → let i := lifeIx 32 (16 * b + actBin ((s.chip.pc (b / 32) ((b / 16) % 2)).acts.get 0 (b % 16)))
         t.chip.nvm.counters.get 0 i = bump32 (s.chip.nvm.counters.get 0 i)) ∧
     (s.chip.thm.shut = .none → s.chip.auto 14 = false →
       exec .counterFlush s = .next (s.onChip (fun c => { c with nvm := Nvm.kick { c.nvm with cntPend := 3128 } }))))

/-- Registers in a block that serves. A write of a register whose fields it only sets is read back in those fields, 0 elsewhere; nothing
outside the register's block changes. One where no register is, of a read-only frame, or of a block in a test, changes nothing; one that
comes to a posted frame which holds a write is discarded and counted. A frame applies the write it held as a write of that register. A
strobe applies the shadows of the groups of its mask and of no other, but for a block in a test. The first write of a WL field holds and a
later one changes nothing. A record enters the error ring as the eight words of R481; at 1,024 unread ones the oldest is overwritten and
counted; ERR_RING_RDPTR moves forward by what is unread at most. FUS_LOCK_SET adds locks; test mode is entered unless it is locked or a port
is active. A read of a low word latches the high word, which the high word then shows; one of FLT_STATUS0 latches the other seven words.
CHC_LANE_MAP and the setting in force that CHC_CAL_SEL names take a write while their pseudo-channel trains, and leave it out otherwise,
LANE_MUX following at once or with the next REFab; a stored point takes it always, and no setting in force changes. Rules: R17, R440, R481,
R482, R483, R549, R596, R608, R669, R670, R671, R676. -/
def Obligations.RegistersTakeWrites : Prop :=
  (∀ s : State, s.chip.live = true →
     (∀ (f : Frame) (off : BitVec 12) (v : Word), s.chip.Calm → s.chip.inStep 9 = false → isPosted f = true →
       s.chip.mgt.posted.has (frameNo f) = true →
       exec (.registerWrite f off v) s = .next (s.onChip (fun c => { c with mgt := { c.mgt with
         drops := c.mgt.drops.put (frameNo f) (bump32 (c.mgt.drops.get 0 (frameNo f))) } }))) ∧
     (∀ (f : Frame) (off : BitVec 12) (v : Word), s.chip.Calm → s.chip.inStep 9 = false → (isPosted f = true →
       s.chip.mgt.posted.has (frameNo f) = false) →
       (∀ o m, resolve f off.toNat = some o → rwMask f o = some m → s.chip.frameHidden f = false →
         ∃ t, exec (.registerWrite f off v) s = .next t ∧ t = { s with chip := t.chip } ∧ OnlyBlock f s.chip t.chip ∧
           t.chip.regValue f o = v.toNat &&& m) ∧
       (resolve f off.toNat = none ∨ f = .id ∨ f = .clk ∨ f = .rst ∨ s.chip.frameHidden f = true →
         exec (.registerWrite f off v) s = .next s)) ∧
     (∀ (f : Frame) (off : BitVec 12) (v : Word), s.chip.Calm → s.chip.inStep 9 = false →
       (∀ w, s.chip.mgt.posted.look (frameNo f) = some w → resolve f off.toNat = some w.off → w.v = v.toNat →
         ∃ t, exec (.postedWriteApply f) s = .next t ∧
           exec (.registerWrite f off v) (s.onChip (fun c => { c with mgt := { c.mgt with posted := c.mgt.posted.del (frameNo f) } })) = .next t ∧
           ∀ m, rwMask f w.off = some m → t.chip.mgt.posted.look (frameNo f) = none)) ∧
     (∀ mask : BitVec 16, s.chip.mgt.posted.has (frameNo .mgt) = false → ∃ t, exec (.mgtUpdStrobe mask) s = .next t ∧ t.mem = s.mem ∧
       (∀ n, n < 32 → (mask.getLsbD 13 = false → t.chip.port n =
           if mask.getLsbD (n / 16) then { s.chip.port n with cfg := (s.chip.port n).cfg.apply } else s.chip.port n) ∧
         (t.chip.port n).cfg = (if mask.getLsbD (n / 16) then (s.chip.port n).cfg.apply else (s.chip.port n).cfg) ∧
         t.chip.port n = { s.chip.port n with cfg := (t.chip.port n).cfg, slots := (t.chip.port n).slots }) ∧
       (∀ k, k < 72 → let h := s.chip.chc k; let x := t.chip.chc k
         if mask.getLsbD (2 + k / 8) = true ∧ s.chip.scanned (176 + k) = false then
           x.schedCfg = h.schedCfg.apply ∧ x.refCfg = h.refCfg.apply ∧ x.rdCfg = h.rdCfg.apply ∧ x.calCfg = h.calCfg.apply ∧
             x.eccCfg = h.eccCfg.apply
         else x = h) ∧
       (∀ k, k < 64 → t.chip.slice k =
         if mask.getLsbD (2 + k / 8) = true ∧ s.chip.scanned (112 + k) = false then { s.chip.slice k with cfg := (s.chip.slice k).cfg.apply }
         else s.chip.slice k) ∧
       (∀ p, p < 16 → t.chip.press p =
         if mask.getLsbD 11 = true ∧ s.chip.scanned (248 + p) = false then
           { s.chip.press p with cfg := (s.chip.press p).cfg.apply, scrubCfg := (s.chip.press p).scrubCfg.apply }
         else s.chip.press p) ∧
       t.chip.bwr = (if mask.getLsbD 12 then { s.chip.bwr with cfg := s.chip.bwr.cfg.apply, thr := s.chip.bwr.thr.apply } else s.chip.bwr) ∧
       t.chip.thm.cfg = (if mask.getLsbD 13 = true ∧ s.chip.thm.cfg.dirty = true then s.chip.thm.cfg.apply else s.chip.thm.cfg) ∧
       t.chip.nvm = (if mask.getLsbD 14 then { s.chip.nvm with cfg := s.chip.nvm.cfg.apply } else s.chip.nvm)) ∧
     (∀ (f : Frame) (off : BitVec 12) (v : Word), (isPosted f = true → s.chip.mgt.posted.has (frameNo f) = false) →
       let first (w : Wl) : Wl := if w.done then w else ⟨v.toNat % 2, true⟩
       let sets (g : Chip → Chip) : Prop := exec (.wlFieldWrite f off v) s = .next (s.onChip g)
       (f = .mgt → resolve f off.toNat = some 0x0C → sets (fun c => { c with mgt := { c.mgt with lock := first c.mgt.lock } })) ∧
       (f = .thm → resolve f off.toNat = some 0x0C → sets (fun c => { c with thm := { c.thm with lock := first c.thm.lock } })) ∧
       (f = .fus → resolve f off.toNat = some 0x08 → sets (fun c => { c with fus := { c.fus with progLock := first c.fus.progLock } })) ∧
       (f = .bst → resolve f off.toNat = some 0x10 → sets (fun c => { c with boot := { c.boot with testLock := first c.boot.testLock } })) ∧
       (f = .xbr → resolve f off.toNat = some 0x200 → s.chip.addr.waiting = false → sets (fun c => { c with addr :=
         if c.addr.reqSet then c.addr else { c.addr with req := v.toNat / 16 % 4, reqSet := true } })) ∧
       ((∀ o, resolve f off.toNat = some o → isWl f o = false) → exec (.wlFieldWrite f off v) s = .next s)) ∧
     (∀ (r : Ring) (us : Nat) (a : RingArgs), a.type < 2 ^ 8 → a.cls < 2 ^ 2 → a.source < 2 ^ 8 → a.port < 2 ^ 5 → a.tag < 2 ^ 10 →
       a.row < 2 ^ 16 → a.bank < 2 ^ 11 → a.block < 2 ^ 4 → let q := r.push us a
       q.recs.look r.wr = some [r.seq % 2 ^ 32, us % 2 ^ 32, us / 2 ^ 32 % 2 ^ 16 + 2 ^ 16 * a.type + 2 ^ 24 * a.cls,
         a.source + 2 ^ 8 * a.port + 2 ^ 13 * a.tag, a.row + 2 ^ 16 * a.bank + 2 ^ 27 * a.block,
         a.arg0 % 2 ^ 32, a.arg1 % 2 ^ 32, a.arg2 % 2 ^ 32] ∧
       (∀ i, i ≠ r.wr → q.recs.look i = r.recs.look i) ∧ q.wr = (r.wr + 1) % 1024 ∧ q.seq = (r.seq + 1) % 2 ^ 32 ∧
       (r.unread < 1024 → q.unread = r.unread + 1 ∧ q.rd = r.rd ∧ q.ovwr = r.ovwr) ∧
       (r.unread = 1024 → q.unread = 1024 ∧ q.rd = (r.rd + 1) % 1024 ∧ q.ovwr = bump32 r.ovwr) ∧
       (s.chip.ringRec a).ring = s.chip.ring.push s.chip.us a) ∧
     (∀ v : Word, s.chip.mgt.posted.has (frameNo .err) = false → s.chip.mgt.posted.has (frameNo .fus) = false →
       (∃ t, exec (.errRingRdptrWrite v) s = .next t ∧ t = { s with chip := { s.chip with ring := t.chip.ring } } ∧ t.chip.ring = (
         let d := (v.toNat % 1024 + 1024 - s.chip.ring.rd) % 1024
         if d ≤ s.chip.ring.unread then { s.chip.ring with rd := v.toNat % 1024, unread := s.chip.ring.unread - d } else s.chip.ring)) ∧
       exec (.fusLockSet v) s = .next (s.onChip (fun c => { c with fus := { c.fus with locked := c.fus.locked ||| v.toNat % 256 } }))) ∧
     (s.chip.mgt.posted.has (frameNo .bst) = false → s.chip.boot.testLock.v = 0 → (∀ n, n < 32 → (s.chip.port n).state ≠ .active) →
       exec .bstTestModeEnter s = .next (s.onChip (fun c => { c with boot := { c.boot with testMode := true } }))) ∧
     (s.chip.mgt.posted.has (frameNo .bst) = false →
       s.chip.boot.testLock.v ≠ 0 ∨ (∃ n, n < 32 ∧ (s.chip.port n).state = .active) → exec .bstTestModeEnter s = .next s) ∧
     (∀ (f : Frame) (off : BitVec 12) (o : Nat), resolve f off.toNat = some o → s.chip.frameHidden f = false →
       ∃ t, exec (.rllLowRead f off) s = .next t ∧ t = { s with chip := t.chip } ∧ OnlyBlock f s.chip t.chip ∧
         (∀ k i, f = .dct k → i < 9 → o = 0x20 + 8 * i →
           t.chip.regValue f (o + 4) = ((s.chip.slice k.val).cnts.getD i {}).count / 2 ^ 32) ∧
         (∀ k, f = .chc k → o = 0x20 → t.chip.regValue f (o + 4) = (s.chip.chc k.val).cntAct.count / 2 ^ 32) ∧
         (∀ p, f = .prs p → o = 0x20 → t.chip.regValue f (o + 4) = (s.chip.press p.val).cntChunk.count / 2 ^ 32) ∧
         (∀ i, f = .bwr → i < 8 → o = 0x48 + 16 * i → t.chip.regValue f (o + 4) = (s.chip.cls i).bytes / 2 ^ 32) ∧
         (∀ x, f = .flt → o = 0x0C → s.chip.flt.first = some x → x.done = true → t.chip.regValue f (o + 4) = x.time / 2 ^ 32 % 2 ^ 16) ∧
         (∀ i, f = .flt → o = 0x40 → 0 < i → i < 8 → t.chip.regValue f (o + 4 * i) = wordOf s.chip.lineHigh i))) ∧
  (∀ (s : State) (k : ChcIx), s.chip.live = true → s.chip.frameHidden (.chc k) = false →
     (∀ (p : PcIx) (v : Word),
       ((s.chip.pc k.val p.val).mayCompare = true → ∃ t x, exec (.chcLaneMapWrite k p v) s = .next t ∧
         (t.chip.pc k.val p.val).laneMap = x ∧
         (let pc : Pc := { s.chip.pc k.val p.val with laneMap := x }
          t.chip.pc k.val p.val = if pc.trains then { pc with laneMux := pc.muxWord, mrPend := pc.mrPend.del 0x40 }
            else { pc with changes := pc.changes ++ [⟨[], [(0x40, pc.muxWord)]⟩] }) ∧
         (∀ b, b < 32 → natBit x b = (b % 8 != 6 && natBit v.toNat b)) ∧ ∀ q, q ≠ p.val → t.chip.pc k.val q = s.chip.pc k.val q) ∧
       ((s.chip.pc k.val p.val).mayCompare = false → exec (.chcLaneMapWrite k p v) s = .next s)) ∧
     (∀ v : Word, let x : Setting := ⟨natBits v.toNat 0 7, natBits v.toNat 8 6⟩
       (∀ p key, (s.chip.chc k.val).calSelected = some (0, p, key) → (s.chip.pc k.val p).mayCompare = true →
         ∃ t, exec (.chcCalValWrite k v) s = .next t ∧ t.chip.pc k.val p = { s.chip.pc k.val p with
           inForce := (s.chip.pc k.val p).inForce.put key x
           changes := (t.chip.pc k.val p).changes, mrPend := (t.chip.pc k.val p).mrPend } ∧
           ∀ y ∈ (t.chip.pc k.val p).changes, ∀ e ∈ y.set, e.1 ≠ key) ∧
       (∀ p key, (s.chip.chc k.val).calSelected = some (0, p, key) → (s.chip.pc k.val p).mayCompare = false →
         exec (.chcCalValWrite k v) s = .next s) ∧
       ((s.chip.chc k.val).calSelected = none → exec (.chcCalValWrite k v) s = .next s) ∧
       (∀ n p key, (s.chip.chc k.val).calSelected = some (n + 1, p, key) → ∃ t, exec (.chcCalValWrite k v) s = .next t ∧
         t.chip.pc k.val p = { s.chip.pc k.val p with
           points := (s.chip.pc k.val p).points.put (pointKey (n + 1) key) x, inForce := (t.chip.pc k.val p).inForce } ∧
         ∀ i, i < 256 → (t.chip.pc k.val p).setting i = (s.chip.pc k.val p).setting i)))

/-- The clears, in a block that serves and whose frame is not in a test. Each sets the counters of its block to 0, and changes nothing else
but what goes with a counter: the latched high word of a 64-bit count and the part of a microsecond that a time has counted (the model's
choices, log entry 29). PORT_CNT_CLR waits while the port's clock is stopped (R666). PORT_ADM_CLR sets the peak to what is outstanding and
clears the log of the last rejection. Those of a posted frame are stated for one that holds no write. Rules: R83, R184, R260, R308, R309,
R346, R395, R489, R519, R560, R597, R638. -/
def Obligations.ClearsClear : Prop :=
  ∀ s : State, s.chip.live = true →
    let sets (i : Instr) (f : Chip → Chip) : Prop := exec i s = .next (s.onChip f)
    (∀ n : PortIx,
      sets (.portCntClr n) (·.onPort n.val (fun p => if p.copies.isNone then
        { p with cntCrc := 0, cntReplay := 0, cntLinkdown := 0, cntRetrain := 0, cntDiscard := 0 } else { p with clrPend := true })) ∧
      (∃ x y, x.us = 0 ∧ y.us = 0 ∧ sets (.portAdmClr n) (·.onPort n.val (fun p => { p with
        peak := p.tagsOut, waitJob := x, waitRsp := y, cntBadop := 0, cntDenied := 0, cntUnmapped := 0, cntCredViol := 0
        rejHdr0 := 0, rejDetail := 0, rejStatus := 0 }))) ∧
      (∃ x, x.us = 0 ∧ sets (.portOrdClr n) (·.onPort n.val (fun p => { p with
        cntSeqGap := 0, waitOrder := x, cntSplit := 0, e2eCheck := 0, e2eFail := 0, e2eOutCnt := 0, strikes := 0 })))) ∧
    (∀ k : SliceIx, s.chip.frameHidden (.dct k) = false → ∃ x : Slice, x.cnts.map (·.count) = [0, 0, 0, 0, 0, 0, 0, 0, 0] ∧ x.waitCq.us = 0 ∧
      sets (.dctClr k) (·.onSlice k.val (fun y => { y with
        cntRdHit := x.cntRdHit, cntRdMiss := x.cntRdMiss, cntWrHit := x.cntWrHit, cntWrMiss := x.cntWrMiss, cntPrompt := x.cntPrompt
        cntAlu := x.cntAlu, cntWbSect := x.cntWbSect, cntRefHit := x.cntRefHit, cntEvict := x.cntEvict
        cntPromptFb := 0, cntSramCe := 0, cntSramUe := 0, cntDiscard := 0, waitCq := x.waitCq }))) ∧
    (∃ t, exec .bwrClr s = .next t ∧ t = s.onChip (fun c => { c with bwr := { c.bwr with cntAged := 0, cls := t.chip.bwr.cls } }) ∧
      ∀ i, t.chip.cls i = { s.chip.cls i with bytes := 0, latch := (t.chip.cls i).latch, demote := 0 }) ∧
    (∃ x : Tab WaitCnt, (∀ i, (x.get {} i).us = 0) ∧ sets .xbrArbClr (fun c => { c with xbr := { c.xbr with stall := x } })) ∧
    (∀ p : PressIx, s.chip.frameHidden (.prs p) = false → ∃ x y z, x.count = 0 ∧ y.us = 0 ∧ z.us = 0 ∧
      sets (.prsClr p) (·.onPress p.val (fun q => { q with
        cntChunk := x, cntJobEnd := 0, cntJobAbort := 0, cntLostblk := 0, waitRdbuf := y, waitTest := z }))) ∧
    (∀ k : ChcIx, s.chip.frameHidden (.chc k) = false →
      (∃ x y, x.count = 0 ∧ y.us = 0 ∧ sets (.chcClr k) (·.onChc k.val (fun h => { h with
        cntAct := x, cntRef := 0, cntRefDebt := 0, cntNr1 := 0, cntNr2 := 0, cntAlert := 0, cntReplayFail := 0, cntRetrain := 0
        cntFwd := 0, waitQ := y }))) ∧
      sets (.chcTrnClr k) (·.onChc k.val (fun h => { h with cntCalAcc := 0, cntCalRef := 0, cntLane := 0 })) ∧
      sets (.chcEccClr k) (·.onChc k.val (fun h => { h with
        cntCorr := 0, cntChkonly := 0, cntRewrite := 0, cntPoisoned := 0, cntMisdir := 0, cntUndec := 0 }))) ∧
    (s.chip.mgt.posted = [] →
    sets .errClr (fun c => { c with ring := { c.ring with ovwr := 0 } }) ∧
    sets .thmClr (fun c => { c with thm := { c.thm with cntThrot := 0, cntWarn := 0 } }) ∧
    sets .bstClr (fun c => { c with boot := { c.boot with cntRuns := 0, cntFails := 0 } }) ∧
    sets .fusClr (fun c => { c with fus := { c.fus with cntPulse := 0, cntFail := 0 } }) ∧
    sets .nvmClr (fun c => { c with nvm := { c.nvm with cntWrite := 0, cntBad := 0, cntDrop := 0 } }) ∧
    sets .fltConseqClr (fun c => { c with flt := { c.flt with conseq := [] } }) ∧
    sets .fltClr (fun c => { c with flt := { c.flt with cntCe := 0, cntUc := 0, cntConseq := 0, cntAckRef := 0 } }))

/-! ### What stays as it was -/

/-- Events that belong to one port or one channel controller touch nothing else: no other port or controller, no other part of the block, no
cell, fuse or record. Events that belong to one unit of the base die (FLT, MGT with the SBI, THM, NVM's counters, FUS's registers) touch
nothing but that unit, and where a write to its frame is discarded, the count of those. Rules: R63, R64, R83, R309, R596, R670. -/
def Obligations.EventsStayInTheirUnit : Prop :=
  (∀ (i : Instr) (s t : State), exec i s = .next t →
     (∀ n, portOf i = some n → t = { s with chip := { s.chip with ports := t.chip.ports } } ∧ ∀ m, m ≠ n → t.chip.port m = s.chip.port m) ∧
     (∀ k, channelOf i = some k → t = { s with chip := { s.chip with chcs := t.chip.chcs } } ∧ ∀ j, j ≠ k → t.chip.chc j = s.chip.chc j)) ∧
  (∀ (i : Instr) (s t : State), exec i s = .next t →
     let counted : Mgt := { s.chip.mgt with drops := t.chip.mgt.drops }
     (isFltEvent i = true → t = { s with chip := { s.chip with flt := t.chip.flt, mgt := counted } }) ∧
     (isMgtEvent i = true → t = { s with chip := { s.chip with mgt := t.chip.mgt, free := t.chip.free } }) ∧
     (isThmEvent i = true → t = { s with chip := { s.chip with thm := t.chip.thm, mgt := counted } }) ∧
     (isNvmEvent i = true → t = { s with chip := { s.chip with nvm := t.chip.nvm, mgt := counted } }) ∧
     (isFusEvent i = true → t = { s with chip := { s.chip with fus := t.chip.fus, mgt := counted } }))

/-! ### The slice ALU -/

/-- The ALU of a slice. An ATOM puts the value of its function of the old operand into the operand's bytes, leaves every other bit of the
block, and gives the old operand; its ten functions are those of R311, signed ones on two's complement. An ACCUM adds element by element;
INT32_ADD and INT64_ADD wrap modulo 2^32 and 2^64; BF16_ADD and FP32_ADD are the sums of 7 and of 23 fraction bits: the canonical quiet NaN
for a NaN operand and for infinities of unlike sign; an infinity with a finite number or with itself; +0 for an exact zero, but -0 for two
of them; otherwise the finite number nearest the exact sum, ties to the even one, with the sum's sign, and beyond the largest the infinity
of that sign. It is the same in either order, and +0 leaves a finite non-zero number. A masked write takes the enabled bytes of the payload
and keeps the others. Rules: R311, R315, R316. -/
def Obligations.AluComputes : Prop :=
  (∀ (fn w boff a b : Nat) (d : Block), (w = 4 ∨ w = 8 ∨ w = 16) → boff + w ≤ 64 → fn ≤ 9 →
    (atomBlock fn w boff a b d).2 = blkField d boff w ∧
    blkField (atomBlock fn w boff a b d).1 boff w = atomFn fn w (blkField d boff w) (a % 2 ^ (8 * w)) (b % 2 ^ (8 * w)) ∧
    ∀ i, i < 8 * boff ∨ 8 * (boff + w) ≤ i → (atomBlock fn w boff a b d).1.getLsbD i = d.getLsbD i) ∧
  (∀ (ty i : Nat) (d p : Block), ty < 4 → i < 64 / accumWidth ty →
    blkField (accumBlock ty d p) (accumWidth ty * i) (accumWidth ty) =
      accumElem ty (blkField d (accumWidth ty * i) (accumWidth ty)) (blkField p (accumWidth ty * i) (accumWidth ty))) ∧
  (∀ (w : Nat) (m a b : BitVec (8 * w)), w = 4 ∨ w = 8 ∨ w = 16 →
    let fn (k : Nat) : BitVec (8 * w) := BitVec.ofNat (8 * w) (atomFn k w m.toNat a.toNat b.toNat)
    (∀ k, k ≤ 9 → atomFn k w m.toNat a.toNat b.toNat < 2 ^ (8 * w)) ∧
    fn 0 = m + a ∧ fn 1 = (if a.toInt < m.toInt then a else m) ∧ fn 2 = (if m.toInt < a.toInt then a else m) ∧
    fn 3 = (if a.toNat < m.toNat then a else m) ∧ fn 4 = (if m.toNat < a.toNat then a else m) ∧
    fn 5 = m &&& a ∧ fn 6 = m ||| a ∧ fn 7 = m ^^^ a ∧ fn 8 = a ∧ fn 9 = (if m = a then b else m)) ∧
  (accumWidth 0 = 2 ∧ accumWidth 1 = 4 ∧ accumWidth 2 = 4 ∧ accumWidth 3 = 8) ∧
  (∀ x y : Nat, accumElem 0 x y = fpAdd 7 x y ∧ accumElem 1 x y = fpAdd 23 x y) ∧
  (∀ m p : BitVec 32, BitVec.ofNat 32 (accumElem 2 m.toNat p.toNat) = m + p) ∧
  (∀ m p : BitVec 64, BitVec.ofNat 64 (accumElem 3 m.toNat p.toNat) = m + p) ∧
  (∀ fb x y, (fb = 7 ∨ fb = 23) → x < 2 ^ (fb + 9) → y < 2 ^ (fb + 9) →
    fpAdd fb x y = fpAdd fb y x ∧
    (255 * 2 ^ fb < x % 2 ^ (fb + 8) → fpAdd fb x y = fpNan fb) ∧
    (x % 2 ^ (fb + 8) < 255 * 2 ^ fb → x % 2 ^ (fb + 8) ≠ 0 → fpAdd fb x 0 = x) ∧
    let inf := 255 * 2 ^ fb
    let minus := 2 ^ (fb + 8)
    let finite (v : Nat) : Prop := v < 2 ^ (fb + 9) ∧ v % 2 ^ (fb + 8) < inf
    -- the value of a finite number, in units of the least subnormal
    let val (v : Nat) : Int :=
      let f := v % 2 ^ fb
      let e := v / 2 ^ fb % 256
      (if v < minus then 1 else -1) * ((if e = 0 then f else (2 ^ fb + f) * 2 ^ (e - 1) : Nat) : Int)
    (fpNan 7 = 0x7FC0 ∧ fpNan 23 = 0x7FC00000) ∧
    fpAdd fb inf (minus + inf) = fpNan fb ∧ fpAdd fb inf inf = inf ∧ fpAdd fb (minus + inf) (minus + inf) = minus + inf ∧
    (finite y → fpAdd fb inf y = inf ∧ fpAdd fb (minus + inf) y = minus + inf) ∧
    (finite x → finite y →
      let sum := val x + val y
      let z := fpAdd fb x y
      (sum = 0 → z = if x = minus ∧ y = minus then minus else 0) ∧
      (sum ≠ 0 → (z < minus ↔ 0 < sum)) ∧
      ((2 ^ (fb + 2) - 1) * 2 ^ 252 ≤ sum.natAbs → z % minus = inf) ∧
      (sum ≠ 0 → sum.natAbs < (2 ^ (fb + 2) - 1) * 2 ^ 252 → finite z ∧ ∀ v, finite v →
        (val z - sum).natAbs ≤ (val v - sum).natAbs ∧
        ((val v - sum).natAbs = (val z - sum).natAbs → val v ≠ val z → z % 2 = 0)))) ∧
  (∀ (m : BitVec 64) (d p : Block) (i : Nat), i < 512 →
    (mergeBlock m d p).getLsbD i = if m.getLsbD (i / 8) then p.getLsbD i else d.getLsbD i)
end

