-- ==== Sys2Proof/Laws/Tab.lean ====
section
/-! SUPPORT. The laws of sparse tables: what a read gives after a write, a change or a removal. -/

namespace Sys2Proof

/-- The entry just written is read back. -/
@[simp] theorem Tab.get_put_same {α : Type} (d v : α) (t : Tab α) (i : Nat) : Tab.get d (Tab.put t i v) i = v := by
  induction t with
  | nil => simp [Tab.put, Tab.get]
  | cons h t ih =>
    obtain ⟨k, w⟩ := h
    simp only [Tab.put]
    split
    · simp [Tab.get, *]
    · split <;> simp_all [Tab.get]

/-- Writing an entry leaves every other as it was. -/
theorem Tab.get_put_other {α : Type} (d v : α) (t : Tab α) {i j : Nat} (h : j ≠ i) :
    Tab.get d (Tab.put t i v) j = Tab.get d t j := by
  induction t with
  | nil => simp [Tab.put, Tab.get, h]
  | cons x t ih =>
    obtain ⟨k, w⟩ := x
    simp only [Tab.put]
    split
    · subst_vars; simp [Tab.get, h]
    · split
      · simp [Tab.get, h]
      · simp [Tab.get, ih]

/-- Reading any entry after a write. -/
theorem Tab.get_put {α : Type} (d v : α) (t : Tab α) (i j : Nat) :
    Tab.get d (Tab.put t i v) j = if j = i then v else Tab.get d t j := by
  split
  · subst_vars; simp
  · exact Tab.get_put_other d v t ‹_›

/-- A second write of an entry replaces the first. -/
@[simp] theorem Tab.put_put {α : Type} (t : Tab α) (i : Nat) (v w : α) : Tab.put (Tab.put t i v) i w = Tab.put t i w := by
  induction t with
  | nil => simp [Tab.put]
  | cons x t ih =>
    obtain ⟨k, u⟩ := x
    simp only [Tab.put]
    split
    · simp [Tab.put, *]
    · split <;> simp_all [Tab.put]

/-- The entry just changed is the old one changed. -/
@[simp] theorem Tab.get_upd_same {α : Type} (d : α) (t : Tab α) (i : Nat) (f : α → α) :
    Tab.get d (Tab.upd d t i f) i = f (Tab.get d t i) := by simp [Tab.upd]

/-- Changing an entry leaves every other as it was. -/
theorem Tab.get_upd_other {α : Type} (d : α) (t : Tab α) {i j : Nat} (f : α → α) (h : j ≠ i) :
    Tab.get d (Tab.upd d t i f) j = Tab.get d t j := by simp [Tab.upd, Tab.get_put_other _ _ _ h]

/-- Reading any entry after a change. -/
theorem Tab.get_upd {α : Type} (d : α) (t : Tab α) (i j : Nat) (f : α → α) :
    Tab.get d (Tab.upd d t i f) j = if j = i then f (Tab.get d t i) else Tab.get d t j := by
  simp [Tab.upd, Tab.get_put]

/-- A written key is listed. -/
@[simp] theorem Tab.has_put_same {α : Type} (t : Tab α) (i : Nat) (v : α) : Tab.has (Tab.put t i v) i = true := by
  induction t with
  | nil => simp [Tab.put, Tab.has]
  | cons h t ih =>
    obtain ⟨k, w⟩ := h
    simp only [Tab.put]
    split
    · simp_all [Tab.has]
    · split <;> simp_all [Tab.has]

/-- A removed key reads the default. -/
@[simp] theorem Tab.get_del_same {α : Type} (d : α) (t : Tab α) (i : Nat) : Tab.get d (Tab.del t i) i = d := by
  induction t with
  | nil => simp [Tab.del, Tab.get]
  | cons h t ih =>
    obtain ⟨k, w⟩ := h
    simp only [Tab.del]
    split <;> simp_all [Tab.get]

/-- Removing a key leaves every other as it was. -/
theorem Tab.get_del_other {α : Type} (d : α) (t : Tab α) {i j : Nat} (h : j ≠ i) : Tab.get d (Tab.del t i) j = Tab.get d t j := by
  induction t with
  | nil => simp [Tab.del]
  | cons x t ih =>
    obtain ⟨k, w⟩ := x
    simp only [Tab.del]
    split
    · subst_vars; simp [Tab.get, h, ih]
    · simp [Tab.get, ih]

/-- A listed key looks up what a read gives. -/
theorem Tab.get_of_look {α : Type} (d v : α) (t : Tab α) (i : Nat) (h : Tab.look t i = some v) : Tab.get d t i = v := by
  induction t with
  | nil => simp [Tab.look] at h
  | cons x t ih =>
    obtain ⟨k, w⟩ := x
    simp only [Tab.look] at h
    simp only [Tab.get]
    split at h
    · simp_all
    · simp_all

/-- Mapping the entries of a table maps what a read gives, where the default maps to itself. -/
theorem Tab.get_map {α β : Type} (d : α) (e : β) (f : α → β) (t : Tab α) (i : Nat) (h : f d = e) :
    Tab.get e (List.map (fun x => (x.1, f x.2)) t) i = f (Tab.get d t i) := by
  induction t with
  | nil => simp [Tab.get, h]
  | cons x t ih => obtain ⟨k, w⟩ := x; simp only [List.map_cons, Tab.get]; split <;> simp_all

/-- What every entry of a table and the default satisfy, every value read from it satisfies. -/
theorem Tab.get_all {α : Type} (P : α → Prop) (d : α) (t : Tab α) (i : Nat) (ht : ∀ e ∈ t, P e.2) (hd : P d) : P (Tab.get d t i) := by
  induction t with
  | nil => exact hd
  | cons e t ih =>
    have h1 := ht e (by simp)
    have h2 := ih (fun x hx => ht x (by simp [hx]))
    simp only [Tab.get] at h2 ⊢
    split
    · exact h1
    · exact h2

/-- The numbers from `n` on, `k` of them. -/
@[simp] theorem mem_upFrom {n k i : Nat} : i ∈ upFrom n k ↔ n ≤ i ∧ i < n + k := by
  induction k generalizing n with
  | zero => simp [upFrom]
  | succ k ih => simp only [upFrom, List.mem_cons, ih]; omega

/-- The numbers below `k`. -/
@[simp] theorem mem_below {k i : Nat} : i ∈ below k ↔ i < k := by simp [below]

/-- A fold over steps that change nothing changes nothing. -/
theorem foldl_id {α β : Type} (f : α → β → α) (l : List β) (a : α) (h : ∀ x ∈ l, f a x = a) : l.foldl f a = a := by
  induction l with
  | nil => rfl
  | cons x t ih =>
    rw [List.foldl_cons, h x (List.mem_cons_self ..)]
    exact ih (fun y hy => h y (List.mem_cons_of_mem _ hy))

end Sys2Proof
end

