-- ==== Sys2Proof/Laws/State.lean ====
section
/-! SUPPORT. One lemma per field and per update of the state: what a change of one part leaves of the others. -/

namespace Sys2Proof.Machine

@[simp] theorem State.onChip_pending (s : State) (f : Chip → Chip) : (s.onChip f).pending = s.pending := rfl
@[simp] theorem State.onChip_mem (s : State) (f : Chip → Chip) : (s.onChip f).mem = s.mem := rfl
@[simp] theorem State.onChip_epoch (s : State) (f : Chip → Chip) : (s.onChip f).epoch = s.epoch := rfl
@[simp] theorem State.onChip_fuses (s : State) (f : Chip → Chip) : (s.onChip f).fuses = s.fuses := rfl
@[simp] theorem State.onChip_book (s : State) (f : Chip → Chip) : (s.onChip f).book = s.book := rfl
@[simp] theorem State.onChip_chip (s : State) (f : Chip → Chip) : (s.onChip f).chip = f s.chip := rfl
@[simp] theorem State.onChip_onChip (s : State) (f g : Chip → Chip) : (s.onChip f).onChip g = s.onChip (fun c => g (f c)) := rfl

@[simp] theorem Chip.onPort_keep (c : Chip) (n : Nat) (f : Port → Port) : (c.onPort n f).keep = c.keep := rfl
@[simp] theorem Chip.onPort_free (c : Chip) (n : Nat) (f : Port → Port) : (c.onPort n f).free = c.free := rfl
@[simp] theorem Chip.onPort_slices (c : Chip) (n : Nat) (f : Port → Port) : (c.onPort n f).slices = c.slices := rfl
@[simp] theorem Chip.onPort_presses (c : Chip) (n : Nat) (f : Port → Port) : (c.onPort n f).presses = c.presses := rfl
@[simp] theorem Chip.onPort_chcs (c : Chip) (n : Nat) (f : Port → Port) : (c.onPort n f).chcs = c.chcs := rfl
@[simp] theorem Chip.onPort_dies (c : Chip) (n : Nat) (f : Port → Port) : (c.onPort n f).dies = c.dies := rfl
@[simp] theorem Chip.onPort_xbr (c : Chip) (n : Nat) (f : Port → Port) : (c.onPort n f).xbr = c.xbr := rfl
@[simp] theorem Chip.onPort_addr (c : Chip) (n : Nat) (f : Port → Port) : (c.onPort n f).addr = c.addr := rfl
@[simp] theorem Chip.onPort_bwr (c : Chip) (n : Nat) (f : Port → Port) : (c.onPort n f).bwr = c.bwr := rfl
@[simp] theorem Chip.onPort_flt (c : Chip) (n : Nat) (f : Port → Port) : (c.onPort n f).flt = c.flt := rfl
@[simp] theorem Chip.onPort_ring (c : Chip) (n : Nat) (f : Port → Port) : (c.onPort n f).ring = c.ring := rfl
@[simp] theorem Chip.onPort_boot (c : Chip) (n : Nat) (f : Port → Port) : (c.onPort n f).boot = c.boot := rfl
@[simp] theorem Chip.onPort_thm (c : Chip) (n : Nat) (f : Port → Port) : (c.onPort n f).thm = c.thm := rfl
@[simp] theorem Chip.onPort_fus (c : Chip) (n : Nat) (f : Port → Port) : (c.onPort n f).fus = c.fus := rfl
@[simp] theorem Chip.onPort_nvm (c : Chip) (n : Nat) (f : Port → Port) : (c.onPort n f).nvm = c.nvm := rfl
@[simp] theorem Chip.onPort_mgt (c : Chip) (n : Nat) (f : Port → Port) : (c.onPort n f).mgt = c.mgt := rfl
@[simp] theorem Chip.onPort_port_same (c : Chip) (n : Nat) (f : Port → Port) : (c.onPort n f).port n = f (c.port n) := by
  simp [Chip.onPort, Chip.port]
theorem Chip.onPort_port (c : Chip) (n m : Nat) (f : Port → Port) : (c.onPort n f).port m = if m = n then f (c.port n) else c.port m := by
  simp [Chip.onPort, Chip.port, Tab.get_upd]
@[simp] theorem Chip.onPort_slice (c : Chip) (n m : Nat) (f : Port → Port) : (c.onPort n f).slice m = c.slice m := rfl
@[simp] theorem Chip.onPort_press (c : Chip) (n m : Nat) (f : Port → Port) : (c.onPort n f).press m = c.press m := rfl
@[simp] theorem Chip.onPort_chc (c : Chip) (n m : Nat) (f : Port → Port) : (c.onPort n f).chc m = c.chc m := rfl
@[simp] theorem Chip.onPort_die (c : Chip) (n m : Nat) (f : Port → Port) : (c.onPort n f).die m = c.die m := rfl

@[simp] theorem Chip.onSlice_keep (c : Chip) (n : Nat) (f : Slice → Slice) : (c.onSlice n f).keep = c.keep := rfl
@[simp] theorem Chip.onSlice_free (c : Chip) (n : Nat) (f : Slice → Slice) : (c.onSlice n f).free = c.free := rfl
@[simp] theorem Chip.onSlice_ports (c : Chip) (n : Nat) (f : Slice → Slice) : (c.onSlice n f).ports = c.ports := rfl
@[simp] theorem Chip.onSlice_presses (c : Chip) (n : Nat) (f : Slice → Slice) : (c.onSlice n f).presses = c.presses := rfl
@[simp] theorem Chip.onSlice_chcs (c : Chip) (n : Nat) (f : Slice → Slice) : (c.onSlice n f).chcs = c.chcs := rfl
@[simp] theorem Chip.onSlice_dies (c : Chip) (n : Nat) (f : Slice → Slice) : (c.onSlice n f).dies = c.dies := rfl
@[simp] theorem Chip.onSlice_xbr (c : Chip) (n : Nat) (f : Slice → Slice) : (c.onSlice n f).xbr = c.xbr := rfl
@[simp] theorem Chip.onSlice_addr (c : Chip) (n : Nat) (f : Slice → Slice) : (c.onSlice n f).addr = c.addr := rfl
@[simp] theorem Chip.onSlice_bwr (c : Chip) (n : Nat) (f : Slice → Slice) : (c.onSlice n f).bwr = c.bwr := rfl
@[simp] theorem Chip.onSlice_flt (c : Chip) (n : Nat) (f : Slice → Slice) : (c.onSlice n f).flt = c.flt := rfl
@[simp] theorem Chip.onSlice_ring (c : Chip) (n : Nat) (f : Slice → Slice) : (c.onSlice n f).ring = c.ring := rfl
@[simp] theorem Chip.onSlice_boot (c : Chip) (n : Nat) (f : Slice → Slice) : (c.onSlice n f).boot = c.boot := rfl
@[simp] theorem Chip.onSlice_thm (c : Chip) (n : Nat) (f : Slice → Slice) : (c.onSlice n f).thm = c.thm := rfl
@[simp] theorem Chip.onSlice_fus (c : Chip) (n : Nat) (f : Slice → Slice) : (c.onSlice n f).fus = c.fus := rfl
@[simp] theorem Chip.onSlice_nvm (c : Chip) (n : Nat) (f : Slice → Slice) : (c.onSlice n f).nvm = c.nvm := rfl
@[simp] theorem Chip.onSlice_mgt (c : Chip) (n : Nat) (f : Slice → Slice) : (c.onSlice n f).mgt = c.mgt := rfl
@[simp] theorem Chip.onSlice_slice_same (c : Chip) (n : Nat) (f : Slice → Slice) : (c.onSlice n f).slice n = f (c.slice n) := by
  simp [Chip.onSlice, Chip.slice]
theorem Chip.onSlice_slice (c : Chip) (n m : Nat) (f : Slice → Slice) : (c.onSlice n f).slice m = if m = n then f (c.slice n) else c.slice m := by
  simp [Chip.onSlice, Chip.slice, Tab.get_upd]
@[simp] theorem Chip.onSlice_port (c : Chip) (n m : Nat) (f : Slice → Slice) : (c.onSlice n f).port m = c.port m := rfl
@[simp] theorem Chip.onSlice_press (c : Chip) (n m : Nat) (f : Slice → Slice) : (c.onSlice n f).press m = c.press m := rfl
@[simp] theorem Chip.onSlice_chc (c : Chip) (n m : Nat) (f : Slice → Slice) : (c.onSlice n f).chc m = c.chc m := rfl
@[simp] theorem Chip.onSlice_die (c : Chip) (n m : Nat) (f : Slice → Slice) : (c.onSlice n f).die m = c.die m := rfl

@[simp] theorem Chip.onPress_keep (c : Chip) (n : Nat) (f : Press → Press) : (c.onPress n f).keep = c.keep := rfl
@[simp] theorem Chip.onPress_free (c : Chip) (n : Nat) (f : Press → Press) : (c.onPress n f).free = c.free := rfl
@[simp] theorem Chip.onPress_ports (c : Chip) (n : Nat) (f : Press → Press) : (c.onPress n f).ports = c.ports := rfl
@[simp] theorem Chip.onPress_slices (c : Chip) (n : Nat) (f : Press → Press) : (c.onPress n f).slices = c.slices := rfl
@[simp] theorem Chip.onPress_chcs (c : Chip) (n : Nat) (f : Press → Press) : (c.onPress n f).chcs = c.chcs := rfl
@[simp] theorem Chip.onPress_dies (c : Chip) (n : Nat) (f : Press → Press) : (c.onPress n f).dies = c.dies := rfl
@[simp] theorem Chip.onPress_xbr (c : Chip) (n : Nat) (f : Press → Press) : (c.onPress n f).xbr = c.xbr := rfl
@[simp] theorem Chip.onPress_addr (c : Chip) (n : Nat) (f : Press → Press) : (c.onPress n f).addr = c.addr := rfl
@[simp] theorem Chip.onPress_bwr (c : Chip) (n : Nat) (f : Press → Press) : (c.onPress n f).bwr = c.bwr := rfl
@[simp] theorem Chip.onPress_flt (c : Chip) (n : Nat) (f : Press → Press) : (c.onPress n f).flt = c.flt := rfl
@[simp] theorem Chip.onPress_ring (c : Chip) (n : Nat) (f : Press → Press) : (c.onPress n f).ring = c.ring := rfl
@[simp] theorem Chip.onPress_boot (c : Chip) (n : Nat) (f : Press → Press) : (c.onPress n f).boot = c.boot := rfl
@[simp] theorem Chip.onPress_thm (c : Chip) (n : Nat) (f : Press → Press) : (c.onPress n f).thm = c.thm := rfl
@[simp] theorem Chip.onPress_fus (c : Chip) (n : Nat) (f : Press → Press) : (c.onPress n f).fus = c.fus := rfl
@[simp] theorem Chip.onPress_nvm (c : Chip) (n : Nat) (f : Press → Press) : (c.onPress n f).nvm = c.nvm := rfl
@[simp] theorem Chip.onPress_mgt (c : Chip) (n : Nat) (f : Press → Press) : (c.onPress n f).mgt = c.mgt := rfl
@[simp] theorem Chip.onPress_press_same (c : Chip) (n : Nat) (f : Press → Press) : (c.onPress n f).press n = f (c.press n) := by
  simp [Chip.onPress, Chip.press]
theorem Chip.onPress_press (c : Chip) (n m : Nat) (f : Press → Press) : (c.onPress n f).press m = if m = n then f (c.press n) else c.press m := by
  simp [Chip.onPress, Chip.press, Tab.get_upd]
@[simp] theorem Chip.onPress_port (c : Chip) (n m : Nat) (f : Press → Press) : (c.onPress n f).port m = c.port m := rfl
@[simp] theorem Chip.onPress_slice (c : Chip) (n m : Nat) (f : Press → Press) : (c.onPress n f).slice m = c.slice m := rfl
@[simp] theorem Chip.onPress_chc (c : Chip) (n m : Nat) (f : Press → Press) : (c.onPress n f).chc m = c.chc m := rfl
@[simp] theorem Chip.onPress_die (c : Chip) (n m : Nat) (f : Press → Press) : (c.onPress n f).die m = c.die m := rfl

@[simp] theorem Chip.onChc_keep (c : Chip) (n : Nat) (f : Chc → Chc) : (c.onChc n f).keep = c.keep := rfl
@[simp] theorem Chip.onChc_free (c : Chip) (n : Nat) (f : Chc → Chc) : (c.onChc n f).free = c.free := rfl
@[simp] theorem Chip.onChc_ports (c : Chip) (n : Nat) (f : Chc → Chc) : (c.onChc n f).ports = c.ports := rfl
@[simp] theorem Chip.onChc_slices (c : Chip) (n : Nat) (f : Chc → Chc) : (c.onChc n f).slices = c.slices := rfl
@[simp] theorem Chip.onChc_presses (c : Chip) (n : Nat) (f : Chc → Chc) : (c.onChc n f).presses = c.presses := rfl
@[simp] theorem Chip.onChc_dies (c : Chip) (n : Nat) (f : Chc → Chc) : (c.onChc n f).dies = c.dies := rfl
@[simp] theorem Chip.onChc_xbr (c : Chip) (n : Nat) (f : Chc → Chc) : (c.onChc n f).xbr = c.xbr := rfl
@[simp] theorem Chip.onChc_addr (c : Chip) (n : Nat) (f : Chc → Chc) : (c.onChc n f).addr = c.addr := rfl
@[simp] theorem Chip.onChc_bwr (c : Chip) (n : Nat) (f : Chc → Chc) : (c.onChc n f).bwr = c.bwr := rfl
@[simp] theorem Chip.onChc_flt (c : Chip) (n : Nat) (f : Chc → Chc) : (c.onChc n f).flt = c.flt := rfl
@[simp] theorem Chip.onChc_ring (c : Chip) (n : Nat) (f : Chc → Chc) : (c.onChc n f).ring = c.ring := rfl
@[simp] theorem Chip.onChc_boot (c : Chip) (n : Nat) (f : Chc → Chc) : (c.onChc n f).boot = c.boot := rfl
@[simp] theorem Chip.onChc_thm (c : Chip) (n : Nat) (f : Chc → Chc) : (c.onChc n f).thm = c.thm := rfl
@[simp] theorem Chip.onChc_fus (c : Chip) (n : Nat) (f : Chc → Chc) : (c.onChc n f).fus = c.fus := rfl
@[simp] theorem Chip.onChc_nvm (c : Chip) (n : Nat) (f : Chc → Chc) : (c.onChc n f).nvm = c.nvm := rfl
@[simp] theorem Chip.onChc_mgt (c : Chip) (n : Nat) (f : Chc → Chc) : (c.onChc n f).mgt = c.mgt := rfl
@[simp] theorem Chip.onChc_chc_same (c : Chip) (n : Nat) (f : Chc → Chc) : (c.onChc n f).chc n = f (c.chc n) := by
  simp [Chip.onChc, Chip.chc]
theorem Chip.onChc_chc (c : Chip) (n m : Nat) (f : Chc → Chc) : (c.onChc n f).chc m = if m = n then f (c.chc n) else c.chc m := by
  simp [Chip.onChc, Chip.chc, Tab.get_upd]
@[simp] theorem Chip.onChc_port (c : Chip) (n m : Nat) (f : Chc → Chc) : (c.onChc n f).port m = c.port m := rfl
@[simp] theorem Chip.onChc_slice (c : Chip) (n m : Nat) (f : Chc → Chc) : (c.onChc n f).slice m = c.slice m := rfl
@[simp] theorem Chip.onChc_press (c : Chip) (n m : Nat) (f : Chc → Chc) : (c.onChc n f).press m = c.press m := rfl
@[simp] theorem Chip.onChc_die (c : Chip) (n m : Nat) (f : Chc → Chc) : (c.onChc n f).die m = c.die m := rfl

@[simp] theorem Chip.onDie_keep (c : Chip) (n : Nat) (f : DieCtx → DieCtx) : (c.onDie n f).keep = c.keep := rfl
@[simp] theorem Chip.onDie_free (c : Chip) (n : Nat) (f : DieCtx → DieCtx) : (c.onDie n f).free = c.free := rfl
@[simp] theorem Chip.onDie_ports (c : Chip) (n : Nat) (f : DieCtx → DieCtx) : (c.onDie n f).ports = c.ports := rfl
@[simp] theorem Chip.onDie_slices (c : Chip) (n : Nat) (f : DieCtx → DieCtx) : (c.onDie n f).slices = c.slices := rfl
@[simp] theorem Chip.onDie_presses (c : Chip) (n : Nat) (f : DieCtx → DieCtx) : (c.onDie n f).presses = c.presses := rfl
@[simp] theorem Chip.onDie_chcs (c : Chip) (n : Nat) (f : DieCtx → DieCtx) : (c.onDie n f).chcs = c.chcs := rfl
@[simp] theorem Chip.onDie_xbr (c : Chip) (n : Nat) (f : DieCtx → DieCtx) : (c.onDie n f).xbr = c.xbr := rfl
@[simp] theorem Chip.onDie_addr (c : Chip) (n : Nat) (f : DieCtx → DieCtx) : (c.onDie n f).addr = c.addr := rfl
@[simp] theorem Chip.onDie_bwr (c : Chip) (n : Nat) (f : DieCtx → DieCtx) : (c.onDie n f).bwr = c.bwr := rfl
@[simp] theorem Chip.onDie_flt (c : Chip) (n : Nat) (f : DieCtx → DieCtx) : (c.onDie n f).flt = c.flt := rfl
@[simp] theorem Chip.onDie_ring (c : Chip) (n : Nat) (f : DieCtx → DieCtx) : (c.onDie n f).ring = c.ring := rfl
@[simp] theorem Chip.onDie_boot (c : Chip) (n : Nat) (f : DieCtx → DieCtx) : (c.onDie n f).boot = c.boot := rfl
@[simp] theorem Chip.onDie_thm (c : Chip) (n : Nat) (f : DieCtx → DieCtx) : (c.onDie n f).thm = c.thm := rfl
@[simp] theorem Chip.onDie_fus (c : Chip) (n : Nat) (f : DieCtx → DieCtx) : (c.onDie n f).fus = c.fus := rfl
@[simp] theorem Chip.onDie_nvm (c : Chip) (n : Nat) (f : DieCtx → DieCtx) : (c.onDie n f).nvm = c.nvm := rfl
@[simp] theorem Chip.onDie_mgt (c : Chip) (n : Nat) (f : DieCtx → DieCtx) : (c.onDie n f).mgt = c.mgt := rfl
@[simp] theorem Chip.onDie_die_same (c : Chip) (n : Nat) (f : DieCtx → DieCtx) : (c.onDie n f).die n = f (c.die n) := by
  simp [Chip.onDie, Chip.die]
theorem Chip.onDie_die (c : Chip) (n m : Nat) (f : DieCtx → DieCtx) : (c.onDie n f).die m = if m = n then f (c.die n) else c.die m := by
  simp [Chip.onDie, Chip.die, Tab.get_upd]
@[simp] theorem Chip.onDie_port (c : Chip) (n m : Nat) (f : DieCtx → DieCtx) : (c.onDie n f).port m = c.port m := rfl
@[simp] theorem Chip.onDie_slice (c : Chip) (n m : Nat) (f : DieCtx → DieCtx) : (c.onDie n f).slice m = c.slice m := rfl
@[simp] theorem Chip.onDie_press (c : Chip) (n m : Nat) (f : DieCtx → DieCtx) : (c.onDie n f).press m = c.press m := rfl
@[simp] theorem Chip.onDie_chc (c : Chip) (n m : Nat) (f : DieCtx → DieCtx) : (c.onDie n f).chc m = c.chc m := rfl

@[simp] theorem Chip.onPc_keep (c : Chip) (k p : Nat) (f : Pc → Pc) : (c.onPc k p f).keep = c.keep := rfl
@[simp] theorem Chip.onPc_free (c : Chip) (k p : Nat) (f : Pc → Pc) : (c.onPc k p f).free = c.free := rfl
@[simp] theorem Chip.onPc_ports (c : Chip) (k p : Nat) (f : Pc → Pc) : (c.onPc k p f).ports = c.ports := rfl
@[simp] theorem Chip.onPc_slices (c : Chip) (k p : Nat) (f : Pc → Pc) : (c.onPc k p f).slices = c.slices := rfl
@[simp] theorem Chip.onPc_presses (c : Chip) (k p : Nat) (f : Pc → Pc) : (c.onPc k p f).presses = c.presses := rfl
@[simp] theorem Chip.onPc_dies (c : Chip) (k p : Nat) (f : Pc → Pc) : (c.onPc k p f).dies = c.dies := rfl
@[simp] theorem Chip.onPc_xbr (c : Chip) (k p : Nat) (f : Pc → Pc) : (c.onPc k p f).xbr = c.xbr := rfl
@[simp] theorem Chip.onPc_addr (c : Chip) (k p : Nat) (f : Pc → Pc) : (c.onPc k p f).addr = c.addr := rfl
@[simp] theorem Chip.onPc_bwr (c : Chip) (k p : Nat) (f : Pc → Pc) : (c.onPc k p f).bwr = c.bwr := rfl
@[simp] theorem Chip.onPc_flt (c : Chip) (k p : Nat) (f : Pc → Pc) : (c.onPc k p f).flt = c.flt := rfl
@[simp] theorem Chip.onPc_ring (c : Chip) (k p : Nat) (f : Pc → Pc) : (c.onPc k p f).ring = c.ring := rfl
@[simp] theorem Chip.onPc_boot (c : Chip) (k p : Nat) (f : Pc → Pc) : (c.onPc k p f).boot = c.boot := rfl
@[simp] theorem Chip.onPc_thm (c : Chip) (k p : Nat) (f : Pc → Pc) : (c.onPc k p f).thm = c.thm := rfl
@[simp] theorem Chip.onPc_fus (c : Chip) (k p : Nat) (f : Pc → Pc) : (c.onPc k p f).fus = c.fus := rfl
@[simp] theorem Chip.onPc_nvm (c : Chip) (k p : Nat) (f : Pc → Pc) : (c.onPc k p f).nvm = c.nvm := rfl
@[simp] theorem Chip.onPc_mgt (c : Chip) (k p : Nat) (f : Pc → Pc) : (c.onPc k p f).mgt = c.mgt := rfl
@[simp] theorem Chc.onPc_pc_same (h : Chc) (p : Nat) (f : Pc → Pc) : (h.onPc p f).pc p = f (h.pc p) := by simp [Chc.onPc, Chc.pc]
theorem Chc.onPc_pc (h : Chc) (p q : Nat) (f : Pc → Pc) : (h.onPc p f).pc q = if q = p then f (h.pc p) else h.pc q := by
  simp [Chc.onPc, Chc.pc, Tab.get_upd]
@[simp] theorem Chip.onPc_pc_same (c : Chip) (k p : Nat) (f : Pc → Pc) : (c.onPc k p f).pc k p = f (c.pc k p) := by
  simp [Chip.onPc, Chip.pc]
theorem Chip.onPc_pc (c : Chip) (k p l q : Nat) (f : Pc → Pc) :
    (c.onPc k p f).pc l q = if l = k ∧ q = p then f (c.pc k p) else c.pc l q := by
  unfold Chip.onPc Chip.pc
  rw [Chip.onChc_chc]
  by_cases h : l = k
  · subst h
    by_cases h2 : q = p
    · subst h2; simp
    · simp [Chc.onPc_pc, h2]
  · simp [h]
@[simp] theorem Chip.onPort_pc (c : Chip) (n k p : Nat) (f : Port → Port) : (c.onPort n f).pc k p = c.pc k p := rfl
@[simp] theorem Chip.onSlice_pc (c : Chip) (n k p : Nat) (f : Slice → Slice) : (c.onSlice n f).pc k p = c.pc k p := rfl
@[simp] theorem Chip.onPress_pc (c : Chip) (n k p : Nat) (f : Press → Press) : (c.onPress n f).pc k p = c.pc k p := rfl
@[simp] theorem Chip.onDie_pc (c : Chip) (n k p : Nat) (f : DieCtx → DieCtx) : (c.onDie n f).pc k p = c.pc k p := rfl

@[simp] theorem Chip.raise_keep (c : Chip) (b : Nat) (e : Event) : (c.raise b e).keep = c.keep := rfl
@[simp] theorem Chip.raise_free (c : Chip) (b : Nat) (e : Event) : (c.raise b e).free = c.free := rfl
@[simp] theorem Chip.raise_ports (c : Chip) (b : Nat) (e : Event) : (c.raise b e).ports = c.ports := rfl
@[simp] theorem Chip.raise_slices (c : Chip) (b : Nat) (e : Event) : (c.raise b e).slices = c.slices := rfl
@[simp] theorem Chip.raise_presses (c : Chip) (b : Nat) (e : Event) : (c.raise b e).presses = c.presses := rfl
@[simp] theorem Chip.raise_chcs (c : Chip) (b : Nat) (e : Event) : (c.raise b e).chcs = c.chcs := rfl
@[simp] theorem Chip.raise_dies (c : Chip) (b : Nat) (e : Event) : (c.raise b e).dies = c.dies := rfl
@[simp] theorem Chip.raise_xbr (c : Chip) (b : Nat) (e : Event) : (c.raise b e).xbr = c.xbr := rfl
@[simp] theorem Chip.raise_addr (c : Chip) (b : Nat) (e : Event) : (c.raise b e).addr = c.addr := rfl
@[simp] theorem Chip.raise_bwr (c : Chip) (b : Nat) (e : Event) : (c.raise b e).bwr = c.bwr := rfl
@[simp] theorem Chip.raise_ring (c : Chip) (b : Nat) (e : Event) : (c.raise b e).ring = c.ring := rfl
@[simp] theorem Chip.raise_boot (c : Chip) (b : Nat) (e : Event) : (c.raise b e).boot = c.boot := rfl
@[simp] theorem Chip.raise_thm (c : Chip) (b : Nat) (e : Event) : (c.raise b e).thm = c.thm := rfl
@[simp] theorem Chip.raise_fus (c : Chip) (b : Nat) (e : Event) : (c.raise b e).fus = c.fus := rfl
@[simp] theorem Chip.raise_nvm (c : Chip) (b : Nat) (e : Event) : (c.raise b e).nvm = c.nvm := rfl
@[simp] theorem Chip.raise_mgt (c : Chip) (b : Nat) (e : Event) : (c.raise b e).mgt = c.mgt := rfl

@[simp] theorem Chip.raise_port (c : Chip) (b n : Nat) (e : Event) : (c.raise b e).port n = c.port n := rfl
@[simp] theorem Chip.raise_chc (c : Chip) (b k : Nat) (e : Event) : (c.raise b e).chc k = c.chc k := rfl
@[simp] theorem Chip.raise_slice (c : Chip) (b k : Nat) (e : Event) : (c.raise b e).slice k = c.slice k := rfl
@[simp] theorem Chip.raise_pc (c : Chip) (b k p : Nat) (e : Event) : (c.raise b e).pc k p = c.pc k p := rfl

/-- An event that a block raises while it holds none is held. -/
theorem Chip.raise_pend (c : Chip) (b : Nat) (e : Event) (h : (c.flt.evs.get {} b).pend = none) :
    ((c.raise b e).flt.evs.get {} b).pend = some e := by
  simp [Chip.raise, EvReg.take, h]

end Sys2Proof.Machine
end

