-- ==== Sys2Proof/Laws/Settle.lean ====
section
/-! SUPPORT. What follows an event (`Chip.settle`): nothing where the block is calm; and calm depends on a few fields alone. -/

namespace Sys2Proof.Machine

/-- A field test that goes on only by events of its own stands still at any other. -/
theorem Chip.fieldTick_of_still (c : Chip) (h : ∀ t, c.boot.field = some t → t.still = true) : c.fieldTick = c := by
  have hs : ∀ t, c.boot.field = some t → c.fieldStop = c := by
    intro t ht
    have := h t ht
    simp only [FieldTest.still, Bool.and_eq_true, Bool.not_eq_true'] at this
    have e : c.fieldAbort = c := by
      unfold Chip.fieldAbort
      rw [ht]
      dsimp only
      split <;> simp_all
    unfold Chip.fieldStop
    rw [e, e]
  unfold Chip.fieldTick
  split
  · rfl
  · rename_i t ht
    have h1 := h t ht
    simp only [FieldTest.still, Bool.and_eq_true] at h1
    split
    · rename_i k hk
      rw [hk] at h1
      have : (t.phase = 1) = False := by simpa using h1.2
      simp only [this, if_false]
      exact hs t ht
    · exact hs t ht

/-- A long command that goes on only by events of its own stands still at any other. -/
theorem Chip.longTick_of_still (c : Chip) (h : ∀ l, c.mgt.long = some l → l.job.still = true) : c.longTick = c := by
  unfold Chip.longTick
  split <;> first | rfl | (rename_i hl; have := h _ hl; simp [LongJob.still] at this)

/-- A pseudo-channel that is still: no step of its rescue follows an event, and its pass goes on. -/
theorem Chip.ticks_of_still (c : Chip) (k : Nat) (h : (c.chc k).still = true) :
    c.rescueTick k 0 = c ∧ c.rescueTick k 1 = c ∧ c.calTick k 0 = c ∧ c.calTick k 1 = c ∧ c.runTick k = c := by
  simp only [Chc.still, Bool.and_eq_true] at h
  obtain ⟨⟨h0, h1⟩, hr⟩ := h
  have resc : ∀ p, ((c.chc k).pc p).still (c.chc k).test = true → c.rescueTick k p = c := by
    intro p hp
    simp only [Pc.still, Bool.and_eq_true, Bool.not_eq_true'] at hp
    have : ((c.pc k p).state == .rescue && (c.pc k p).rescueStep == 2) = false := hp.1
    simp [Chip.rescueTick, this]
  have cal : ∀ p, ((c.chc k).pc p).still (c.chc k).test = true → c.calTick k p = c := by
    intro p hp
    simp only [Pc.still, Bool.and_eq_true] at hp
    have h2 := hp.2
    unfold Chip.calTick
    split
    · rename_i x hx
      have hx' : ((c.chc k).pc p).cal = some x := hx
      rw [hx'] at h2
      have h3 : (x.stopped || c.calMayRun k p) = true := h2
      rw [h3, if_pos rfl]
    · rfl
  refine ⟨resc 0 h0, resc 1 h1, cal 0 h0, cal 1 h1, ?_⟩
  unfold Chip.runTick
  dsimp only
  split
  · rename_i h; simp_all
  · rfl

/-- Where no slice drains and every channel controller is still, an event sets nothing of them going. -/
theorem Chip.cleanTick_of_still (c : Chip) (hs : ∀ s, (c.slice s).mode ≠ .draining) (hk : ∀ k, (c.chc k).still = true) : c.cleanTick = c := by
  unfold Chip.cleanTick
  have h1 : (c.slices.map (·.1)).foldl (fun c s => if (c.slice s).mode == .draining then c.cleanLines s (fun _ => true) else c) c = c := by
    apply foldl_id
    intro s _
    have : ((c.slice s).mode == .draining) = false := by simpa using hs s
    simp [this]
  dsimp only
  rw [h1]
  apply foldl_id
  intro k _
  obtain ⟨a0, a1, b0, b1, r⟩ := c.ticks_of_still k (hk k)
  rw [a0, a1, b0, b1, r]

/-- In a calm block nothing follows an event but the end of boot step 9. -/
theorem Chip.settle_of_calm (c : Chip) (h : c.Calm) : c.settle = if c.live then c.endStep9If else c := by
  have h1 : c.mgtTake = c := by simp [Chip.mgtTake, h.buf, h.sbWait]
  have h2 : c.settlePorts = c := by
    apply foldl_id
    intro n hn
    have := h.ports n (by simpa using hn)
    simp [Chip.applyPort, this]
  have h3 : c.settleChannels = c := by
    apply foldl_id
    intro k hk
    have := h.chans k (by simpa using hk)
    simp [this]
  have h4 : c.fieldTick = c := c.fieldTick_of_still h.field
  have h5 : c.longTick = c := c.longTick_of_still h.long
  have h6 : c.cleanTick = c := c.cleanTick_of_still h.slices h.chcs
  unfold Chip.settle
  rw [h1]
  simp only [Chip.settleRegs, h2, h3, h4, h5, h6]

/-- Outside boot step 9 the end of that step is not due. -/
theorem Chip.endStep9If_of_not (c : Chip) (h : c.inStep 9 = false) : c.endStep9If = c := by simp [Chip.endStep9If, h]

/-- In a calm block outside boot step 9 nothing follows an event. -/
theorem Chip.settle_eq (c : Chip) (h : c.Calm) (h9 : c.inStep 9 = false) : c.settle = c := by
  rw [c.settle_of_calm h, c.endStep9If_of_not h9, ite_self]

/-- In a calm block what follows an event changes nothing but the boot step, the state of boot and the address map. -/
theorem Chip.settle_frame (c : Chip) (h : c.Calm) :
    ∃ b a, c.settle = { c with boot := b, addr := a } := by
  rw [c.settle_of_calm h]
  split
  · unfold Chip.endStep9If
    split
    · unfold Chip.beginStep10
      dsimp only
      split
      · exact ⟨_, _, rfl⟩
      · exact ⟨_, _, rfl⟩
    · exact ⟨_, _, rfl⟩
  · exact ⟨_, _, rfl⟩

/-! What follows an event in a calm block keeps every part but boot and the address map. -/

theorem Chip.settle_keep (c : Chip) (h : c.Calm) : c.settle.keep = c.keep := by obtain ⟨b, a, e⟩ := c.settle_frame h; rw [e]
theorem Chip.settle_free (c : Chip) (h : c.Calm) : c.settle.free = c.free := by obtain ⟨b, a, e⟩ := c.settle_frame h; rw [e]
theorem Chip.settle_ports (c : Chip) (h : c.Calm) : c.settle.ports = c.ports := by obtain ⟨b, a, e⟩ := c.settle_frame h; rw [e]
theorem Chip.settle_slices (c : Chip) (h : c.Calm) : c.settle.slices = c.slices := by obtain ⟨b, a, e⟩ := c.settle_frame h; rw [e]
theorem Chip.settle_presses (c : Chip) (h : c.Calm) : c.settle.presses = c.presses := by obtain ⟨b, a, e⟩ := c.settle_frame h; rw [e]
theorem Chip.settle_chcs (c : Chip) (h : c.Calm) : c.settle.chcs = c.chcs := by obtain ⟨b, a, e⟩ := c.settle_frame h; rw [e]
theorem Chip.settle_dies (c : Chip) (h : c.Calm) : c.settle.dies = c.dies := by obtain ⟨b, a, e⟩ := c.settle_frame h; rw [e]
theorem Chip.settle_xbr (c : Chip) (h : c.Calm) : c.settle.xbr = c.xbr := by obtain ⟨b, a, e⟩ := c.settle_frame h; rw [e]
theorem Chip.settle_bwr (c : Chip) (h : c.Calm) : c.settle.bwr = c.bwr := by obtain ⟨b, a, e⟩ := c.settle_frame h; rw [e]
theorem Chip.settle_flt (c : Chip) (h : c.Calm) : c.settle.flt = c.flt := by obtain ⟨b, a, e⟩ := c.settle_frame h; rw [e]
theorem Chip.settle_ring (c : Chip) (h : c.Calm) : c.settle.ring = c.ring := by obtain ⟨b, a, e⟩ := c.settle_frame h; rw [e]
theorem Chip.settle_thm (c : Chip) (h : c.Calm) : c.settle.thm = c.thm := by obtain ⟨b, a, e⟩ := c.settle_frame h; rw [e]
theorem Chip.settle_fus (c : Chip) (h : c.Calm) : c.settle.fus = c.fus := by obtain ⟨b, a, e⟩ := c.settle_frame h; rw [e]
theorem Chip.settle_nvm (c : Chip) (h : c.Calm) : c.settle.nvm = c.nvm := by obtain ⟨b, a, e⟩ := c.settle_frame h; rw [e]
theorem Chip.settle_mgt (c : Chip) (h : c.Calm) : c.settle.mgt = c.mgt := by obtain ⟨b, a, e⟩ := c.settle_frame h; rw [e]
theorem Chip.settle_port (c : Chip) (n : Nat) (h : c.Calm) : c.settle.port n = c.port n := by obtain ⟨b, a, e⟩ := c.settle_frame h; rw [e]; rfl
theorem Chip.settle_slice (c : Chip) (n : Nat) (h : c.Calm) : c.settle.slice n = c.slice n := by obtain ⟨b, a, e⟩ := c.settle_frame h; rw [e]; rfl
theorem Chip.settle_press (c : Chip) (n : Nat) (h : c.Calm) : c.settle.press n = c.press n := by obtain ⟨b, a, e⟩ := c.settle_frame h; rw [e]; rfl
theorem Chip.settle_chc (c : Chip) (n : Nat) (h : c.Calm) : c.settle.chc n = c.chc n := by obtain ⟨b, a, e⟩ := c.settle_frame h; rw [e]; rfl
theorem Chip.settle_die (c : Chip) (n : Nat) (h : c.Calm) : c.settle.die n = c.die n := by obtain ⟨b, a, e⟩ := c.settle_frame h; rw [e]; rfl
theorem Chip.settle_pc (c : Chip) (k p : Nat) (h : c.Calm) : c.settle.pc k p = c.pc k p := by obtain ⟨b, a, e⟩ := c.settle_frame h; rw [e]; rfl

/-- Calm, as it can be computed. -/
def Chip.calmTest (c : Chip) : Bool :=
  c.mgt.buf.isEmpty && c.mgt.sbWait.isEmpty && c.mgt.long.all (·.job.still) && c.boot.field.all (·.still) &&
  (below 32).all (fun n => !(c.port n).cfg.dirty) && (below 72).all (fun k => !c.channelDirty k) &&
  List.all c.slices (fun e => e.2.mode != .draining) && List.all c.chcs (fun e => e.2.still)

/-- A block that passes the test of calm is calm. -/
theorem Chip.calm_of_test {c : Chip} (h : c.calmTest = true) : c.Calm := by
  simp only [Chip.calmTest, Bool.and_eq_true, List.isEmpty_iff, Option.all_eq_true, List.all_eq_true, Bool.not_eq_true'] at h
  obtain ⟨⟨⟨⟨⟨⟨⟨h1, h2⟩, h3⟩, h4⟩, h5⟩, h6⟩, h7⟩, h8⟩ := h
  exact ⟨h1, h2, h3, h4, fun n hn => h5 n (by simpa using hn), fun k hk => h6 k (by simpa using hk),
    fun s => Tab.get_all (fun x : Slice => x.mode ≠ .draining) _ _ _ (fun e he => by simpa using h7 e he) (by decide),
    fun k => Tab.get_all (fun x : Chc => x.still = true) _ _ _ h8 (by decide)⟩

/-- Nothing follows an event in a block that is not live. -/
theorem Chip.settle_of_dead (c : Chip) (h : c.live = false) : c.settle = c := by simp [Chip.settle, h]

/-- Calm depends on the management queues, the field test, the shadows, the modes of the slices and what channel controllers go on with
alone. -/
theorem Chip.Calm.of_eq {c d : Chip} (h : c.Calm) (hm : d.mgt.buf = c.mgt.buf) (hs : d.mgt.sbWait = c.mgt.sbWait)
    (hl : d.mgt.long = c.mgt.long) (hf : d.boot.field = c.boot.field)
    (hp : ∀ n, (d.port n).cfg = (c.port n).cfg) (hk : ∀ k, d.channelDirty k = c.channelDirty k)
    (hd : ∀ k, (d.slice k).mode = .draining → (c.slice k).mode = .draining) (hc : ∀ k, (c.chc k).still = true → (d.chc k).still = true) :
    d.Calm :=
  ⟨by rw [hm]; exact h.buf, by rw [hs]; exact h.sbWait, by rw [hl]; exact h.long, by rw [hf]; exact h.field,
   fun n hn => by rw [hp]; exact h.ports n hn, fun k hk' => by rw [hk]; exact h.chans k hk',
   fun k hk' => h.slices k (hd k hk'), fun k => hc k (h.chcs k)⟩

/-- A change of a port that keeps its shadow keeps calm. -/
theorem Chip.Calm.onPort {c : Chip} (h : c.Calm) (n : Nat) (f : Port → Port) (hf : (f (c.port n)).cfg = (c.port n).cfg) :
    (c.onPort n f).Calm := by
  refine h.of_eq rfl rfl rfl rfl (fun m => ?_) (fun k => rfl) (fun _ => id) (fun _ => id)
  rw [Chip.onPort_port]
  split
  · subst_vars; exact hf
  · rfl

/-- A change of a channel controller that keeps its shadows, and that it goes on only by events of its own, keeps calm. -/
theorem Chip.Calm.onChc {c : Chip} (h : c.Calm) (k : Nat) (f : Chc → Chc)
    (hf : let a := f (c.chc k); let b := c.chc k
      a.schedCfg = b.schedCfg ∧ a.refCfg = b.refCfg ∧ a.rdCfg = b.rdCfg ∧ a.calCfg = b.calCfg ∧ a.eccCfg = b.eccCfg)
    (hs : (f (c.chc k)).still = true) : (c.onChc k f).Calm := by
  refine h.of_eq rfl rfl rfl rfl (fun m => rfl) (fun m => ?_) (fun _ => id) (fun m hm => ?_)
  · simp only [Chip.channelDirty, Chip.onChc_chc, Chip.onChc_slice]
    split
    · subst_vars; simp only at hf; simp [hf]
    · rfl
  · rw [Chip.onChc_chc]
    split
    · subst_vars; exact hs
    · exact hm

/-- A change of a pseudo-channel after which its controller goes on only by events of its own keeps calm. -/
theorem Chip.Calm.onPc {c : Chip} (h : c.Calm) (k p : Nat) (f : Pc → Pc) (hs : ((c.chc k).onPc p f).still = true) : (c.onPc k p f).Calm :=
  h.onChc k _ ⟨rfl, rfl, rfl, rfl, rfl⟩ hs

/-- A change of a slice that keeps its shadow and does not make it drain keeps calm. -/
theorem Chip.Calm.onSlice {c : Chip} (h : c.Calm) (k : Nat) (f : Slice → Slice) (hf : (f (c.slice k)).cfg = (c.slice k).cfg)
    (hm : (f (c.slice k)).mode ≠ .draining) : (c.onSlice k f).Calm := by
  refine h.of_eq rfl rfl rfl rfl (fun m => rfl) (fun m => ?_) (fun m hd => ?_) (fun _ => id)
  · simp only [Chip.channelDirty, Chip.onSlice_slice, Chip.onSlice_chc]
    split
    · subst_vars; rw [hf]
    · rfl
  · rw [Chip.onSlice_slice] at hd
    split at hd
    · subst_vars; exact absurd hd hm
    · exact hd

/-- Raising an event keeps calm. -/
theorem Chip.Calm.raise {c : Chip} (h : c.Calm) (b : Nat) (e : Event) : (c.raise b e).Calm :=
  h.of_eq rfl rfl rfl rfl (fun _ => rfl) (fun _ => rfl) (fun _ => id) (fun _ => id)

end Sys2Proof.Machine
end

