-- ==== Sys2Proof/Laws/Link.lean ====
section
/-! SUPPORT. What a link-down does to a port without jobs, and what the steps of a link keep. -/

namespace Sys2Proof.Machine

/-- Releasing a stream context changes the stream contexts alone. -/
theorem Port.releaseStream_frame (p : Port) (k : Nat) : ∃ ss, p.releaseStream k = { p with streams := ss } := by
  unfold Port.releaseStream
  split
  · exact ⟨_, rfl⟩
  · exact ⟨p.streams, rfl⟩

/-- Marking the streams for release changes the stream contexts alone. -/
theorem Port.markStreams_frame (p : Port) : ∃ ss, p.markStreams = { p with streams := ss } := by
  have key : ∀ (ks : List Nat) (p : Port), ∃ ss, ks.foldl (fun p k => p.releaseStream k) p = { p with streams := ss } := by
    intro ks
    induction ks with
    | nil => exact fun p => ⟨p.streams, rfl⟩
    | cons k t ih =>
      intro p
      obtain ⟨s1, h1⟩ := p.releaseStream_frame k
      obtain ⟨s2, h2⟩ := ih (p.releaseStream k)
      exact ⟨s2, by rw [List.foldl_cons, h2, h1]⟩
  have open' : ∀ (rs : List Req) (p : Port), ∃ ss, rs.foldl (fun p r => p.onStream r.streamN id) p = { p with streams := ss } := by
    intro rs
    induction rs with
    | nil => exact fun p => ⟨p.streams, rfl⟩
    | cons r t ih =>
      intro p
      obtain ⟨ss, h⟩ := ih (p.onStream r.streamN id)
      exact ⟨ss, by rw [List.foldl_cons, h]; rfl⟩
  unfold Port.markStreams
  obtain ⟨s0, h0⟩ := open' (p.reqs.filter (fun r => isMember r.op)) p
  rw [h0]
  obtain ⟨ss, h⟩ := key (s0.map (·.1)) { p with streams := s0.map (fun (k, s) => (k, { s with relPend := true })) }
  exact ⟨ss, h⟩

/-- What a link-down discards of a port: it counts the responses discarded and frees their space. -/
theorem Port.cutOff_frame (p : Port) : ∃ d u, p.cutOff = { p with
    cntDiscard := d, rspUsed := u, rxq := [], ansWait := none, txq := [], txMgt := []
    reqs := p.reqs.map (fun r => { r with stale := true })
    pendReq := 0, pendRsp := 0, pendMgt := 0, granted := false, slots := { p.slots with slot := 0, used := 0, room := 0 }, e2eRun := 0 } := by
  have key : ∀ (ts : List TxRsp) (p : Port), ∃ d u, ts.foldl (fun p t => p.discard t.rspCost) p = { p with cntDiscard := d, rspUsed := u } := by
    intro ts
    induction ts with
    | nil => exact fun p => ⟨p.cntDiscard, p.rspUsed, rfl⟩
    | cons x t ih =>
      intro p
      obtain ⟨d, u, h⟩ := ih (p.discard x.rspCost)
      exact ⟨d, u, by rw [List.foldl_cons, h]; rfl⟩
  obtain ⟨d, u, h⟩ := key (p.txq ++ p.txMgt) p
  exact ⟨d, u, by unfold Port.cutOff; rw [h]⟩

/-- A link-down of a port that has no job in progress is a change of that port and its event. -/
theorem Chip.linkDown_noJobs (c : Chip) (n reason : Nat) (h1 : ∀ r ∈ (c.port n).reqs, isJob r.op = false)
    (h2 : ∀ t ∈ (c.port n).txq, isJob t.op = false) :
    ∃ d u ss, c.linkDown n reason =
      (let c' : Chip := { c with ports := c.ports.put n { c.port n with
        cntDiscard := d, rspUsed := u, rxq := [], ansWait := none, txq := [], txMgt := []
        reqs := (c.port n).reqs.map (fun r => { r with stale := true })
        pendReq := 0, pendRsp := 0, pendMgt := 0, granted := false, e2eRun := 0
        slots := { (c.port n).slots with slot := 0, used := 0, room := 0 }
        state := .down, reason := reason, rate := 0, resume := false, replays := 0, streams := ss
        cntLinkdown := if 4 ≤ reason && reason ≤ 9 then bump16 (c.port n).cntLinkdown else (c.port n).cntLinkdown } }
       if downEvent reason then c'.raise (fltHpa n) ⟨1, 0x40, reason⟩ else c') := by
  have e1 : (c.port n).txq.filter (fun t => isJob t.op && t.ownsTag) = [] := by
    rw [List.filter_eq_nil_iff]; intro t ht; simp [h2 t ht]
  have e2 : (((c.port n).reqs.map (fun r => { r with stale := true })).filter (fun r => isJob r.op)) = [] := by
    rw [List.filter_eq_nil_iff]
    intro t ht
    obtain ⟨r, hr, rfl⟩ := List.mem_map.mp ht
    simp [h1 r hr]
  have on (c : Chip) (f : Port → Port) : c.onPort n f = { c with ports := c.ports.put n (f (c.port n)) } := rfl
  obtain ⟨d, u, hc⟩ := (c.port n).cutOff_frame
  unfold Chip.linkDown
  rw [e1]
  simp only [List.map_nil, List.foldl_nil, on, Chip.port, Tab.get_put_same]
  obtain ⟨ss, hm⟩ := Port.markStreams_frame { (c.port n) with
    cntDiscard := d, rspUsed := u, rxq := [], ansWait := none, txq := [], txMgt := []
    reqs := (c.port n).reqs.map (fun r => { r with stale := true })
    pendReq := 0, pendRsp := 0, pendMgt := 0, granted := false, e2eRun := 0
    slots := { (c.port n).slots with slot := 0, used := 0, room := 0 }
    state := .down, reason := reason, rate := 0, resume := false, replays := 0
    cntLinkdown := if 4 ≤ reason && reason ≤ 9 then bump16 (c.port n).cntLinkdown else (c.port n).cntLinkdown }
  refine ⟨d, u, ss, ?_⟩
  have hg : ∀ c' : Chip, (∀ r ∈ (c'.port n).reqs, isJob r.op = false) → c'.gapsBehind n = [] := by
    intro c' hr
    have hu : ∀ r ∈ (c'.port n).reqs, c'.unstarted n r = false := fun r h => by simp [Chip.unstarted, hr r h]
    unfold Chip.gapsBehind
    rw [List.map_eq_nil_iff, List.filter_eq_nil_iff]
    intro r _
    have : ((c'.port n).before r.tagN).any (fun q => c'.unstarted n q && q.hdr.ordered && !q.fenced && q.streamN == r.streamN) = false := by
      rw [List.any_eq_false]
      intro q hq
      simp [hu q ((List.takeWhile_sublist _).subset hq)]
    simp [this]
  have hg' := hg { c with ports := c.ports.put n { (c.port n).cutOff with
    state := .down, reason := reason, rate := 0, resume := false, replays := 0
    cntLinkdown := if 4 ≤ reason && reason ≤ 9 then bump16 (c.port n).cntLinkdown else (c.port n).cntLinkdown } } (by
      simp only [Chip.port, Tab.get_put_same]
      rw [show (Tab.get ({} : Port) c.ports n) = c.port n from rfl, hc]
      intro r hr
      obtain ⟨q, hq, rfl⟩ := List.mem_map.mp hr
      exact h1 q hq)
  simp only [Chip.port] at hm hc e2 hg'
  rw [hc] at hg' ⊢
  dsimp only at hm hg' ⊢
  simp only [hg', e2, List.foldl_nil, Tab.get_put_same, Tab.put_put, hm]

end Sys2Proof.Machine
end

