-- ==== Sys2Proof/Laws/Admit.lean ====
section
/-! SUPPORT. Admission step by step: what an open port does with an arriving request, and what a request that passes the checks
becomes. -/

namespace Sys2Proof.Machine

/-- What the arrival of a request of the REQ virtual channel takes from the units that the host holds (R124). -/
def Port.spend (p : Port) (op : Op) (h : ReqHdr) : Port :=
  { p with heldReq := p.heldReq - reqCost op h, heldRsp := p.heldRsp - (rspCost op h : Int), lastTx := [] }

/-- A port that may transmit has given its initial grants. -/
theorem Port.granted_of_canSend {p : Port} (h : p.canSend = true) : p.granted = true := by
  simp only [Port.canSend, Bool.and_eq_true] at h
  exact h.2

/-- At an open port an arriving request spends its units and is admitted or answered at once. -/
theorem Chip.arrive_open (c : Chip) (n : Nat) (op : Op) (h : ReqHdr) (pl : List Byte) (tr : Word) (look : Lookup)
    (ho : c.Open n op h) (hm : op ≠ .mgmtCmd) :
    c.arrive n op h pl tr look = (c.onPort n (·.spend op h)).admitReq n (rxOf op h pl tr look) := by
  have h1 : ¬ (c.port n).heldReq < (reqCost op h : Int) := by have := ho.units; omega
  simp only [Chip.arrive, ho.live, ho.send, Port.granted_of_canSend ho.send, Bool.or_true, Bool.and_self, Bool.not_true, Bool.false_eq_true, if_false, beq_iff_eq, hm, h1, ho.free, ho.empty, List.isEmpty_nil,
    Bool.or_self]
  rfl

/-- Spending units leaves what checks 1 and 2 look at. -/
theorem Port.badOp_spend (p : Port) (op : Op) (h : ReqHdr) (q : RxReq) : (p.spend op h).badOp q = p.badOp q := rfl

/-- Access depends on the port's SYSTEM bit and the windows alone. -/
theorem Chip.checkAccess_onPort (c : Chip) (n : Nat) (q : RxReq) (f : Port → Port) (hf : (f (c.port n)).system = (c.port n).system) :
    (c.onPort n f).checkAccess n q = c.checkAccess n q := by
  unfold Chip.checkAccess
  simp only [Chip.onPort_port_same, hf]
  rfl

/-- What check 3 counts at a port (R183). -/
def Port.tallyE2e (p : Port) (made : Bool) : Port := if made then { p with e2eCheck := bump32 p.e2eCheck, e2eRun := 0 } else p

/-- A request that passes check 3, or is not checked, goes on; a check that was made is counted. -/
theorem Chip.checkE2e_pass (c : Chip) (n : Nat) (q : RxReq)
    (h : hasTrailer q.op q.hdr = true → (c.port n).e2eEn = true → e2eGood (c.port n).e2ePoly q = true) :
    c.checkE2e n q = (if hasTrailer q.op q.hdr && (c.port n).e2eEn then
      c.onPort n (fun p => { p with e2eCheck := bump32 p.e2eCheck, e2eRun := 0 }) else c, true) := by
  unfold Chip.checkE2e
  by_cases h1 : hasTrailer q.op q.hdr = true <;> by_cases h2 : (c.port n).e2eEn = true <;> simp_all

/-- A request that passes checks 1 to 7 is accepted. -/
theorem Chip.admit_accept (c : Chip) (n : Nat) (q : RxReq) (h1 : (c.port n).badOp q = none)
    (h3 : hasTrailer q.op q.hdr = true → (c.port n).e2eEn = true → e2eGood (c.port n).e2ePoly q = true)
    (h4 : c.checkAccess n q = none) (h7 : (c.port n).seqOk q = true) :
    c.admitReq n q = (if hasTrailer q.op q.hdr && (c.port n).e2eEn then
      c.onPort n (fun p => { p with e2eCheck := bump32 p.e2eCheck, e2eRun := 0 }) else c).accept n q := by
  unfold Chip.admitReq
  rw [h1, c.checkE2e_pass n q h3]
  dsimp only
  have e : (if hasTrailer q.op q.hdr && (c.port n).e2eEn then
      c.onPort n (fun p => { p with e2eCheck := bump32 p.e2eCheck, e2eRun := 0 }) else c).checkAccess n q = none := by
    split
    · rw [Chip.checkAccess_onPort]
      · exact h4
      · rfl
    · exact h4
  have e2 : ((if hasTrailer q.op q.hdr && (c.port n).e2eEn then
      c.onPort n (fun p => { p with e2eCheck := bump32 p.e2eCheck, e2eRun := 0 }) else c).port n).seqOk q = true := by
    split
    · rw [Chip.onPort_port_same]; exact h7
    · exact h7
  simp only [Bool.not_true, Bool.false_eq_true, if_false, e, e2]

/-- A TAG that is free names no admitted request. -/
theorem Port.req?_none_of_badOp (p : Port) (q : RxReq) (h : p.badOp q = none) : p.req? q.hdr.tag.toNat = none := by
  unfold Port.badOp at h
  split at h
  · cases h
  · split at h
    · cases h
    · rename_i hb
      simp [Port.tagBusy] at hb
      unfold Port.req?
      rw [List.find?_eq_none]
      intro r hr
      simpa using hb.1 r hr

/-- A request found by its TAG carries it. -/
theorem Port.req?_tag {p : Port} {tag : Nat} {r : Req} (h : p.req? tag = some r) : r.tagN = tag := by
  unfold Port.req? at h
  simpa using List.find?_some h

/-- Changing the request with a TAG, which keeps its TAG, changes what the TAG names. -/
theorem Port.onReq_req? (p : Port) (tag : Nat) (f : Req → Req) (r : Req) (h : p.req? tag = some r) (hf : (f r).tagN = r.tagN) :
    (p.onReq tag f).req? tag = some (f r) := by
  unfold Port.req? Port.onReq at *
  dsimp only
  generalize p.reqs = l at *
  induction l with
  | nil => simp at h
  | cons x t ih =>
    simp only [List.map_cons, List.find?_cons]
    simp only [List.find?_cons] at h
    by_cases hx : (x.tagN == tag) = true
    · simp only [hx] at h
      cases h
      simp only [hx, if_true, hf]
    · simp only [hx] at h ⊢
      simp only [if_false, Bool.false_eq_true]
      simp only [hx]
      exact ih h

/-- A grant moves pending units to what the host holds, and sends one packet. -/
theorem Port.grantIfDue_frame (p : Port) : ∃ a b c d e f l x, p.grantIfDue = { p with
    heldReq := a, heldRsp := b, heldMgt := c, pendReq := d, pendRsp := e, pendMgt := f, lastTx := l, slots := x } ∧
    a + d = p.heldReq + p.pendReq ∧ b + e = p.heldRsp + p.pendRsp ∧ c + f = p.heldMgt + p.pendMgt ∧ (∀ x ∈ p.lastTx, x ∈ l) := by
  unfold Port.grantIfDue Port.sendGrant
  split
  · exact ⟨_, _, _, _, _, _, _, _, rfl, by simp, by simp, by simp, fun x hx => List.mem_append_left _ hx⟩
  · exact ⟨p.heldReq, p.heldRsp, p.heldMgt, p.pendReq, p.pendRsp, p.pendMgt, p.lastTx, p.slots, rfl, rfl, rfl, rfl, fun _ h => h⟩

/-- Counting an answer changes the counters and the rejection registers alone; BAD_OP is counted as such. -/
theorem Port.countAnswer_frame (p : Port) (op : Op) (h : ReqHdr) (st : Status) (a : Nat) :
    ∃ c1 c2 c3 c4 r1 r2 r3, p.countAnswer op h st a = { p with
      cntBadop := c1, cntDenied := c2, cntUnmapped := c3, cntSeqGap := c4, rejHdr0 := r1, rejDetail := r2, rejStatus := r3 } ∧
      (st = .badOp → c1 = bump32 p.cntBadop) := by
  unfold Port.countAnswer
  cases st <;> exact ⟨_, _, _, _, _, _, _, rfl, by simp⟩

/-- An answer at the port that finds its RSP space: the response joins the transmit queue, and the request's REQ units are pending or granted. -/
theorem Chip.answerAtPort_fits (c : Chip) (n : Nat) (q : RxReq) (st : Status) (a : Nat) (hm : q.op ≠ .mgmtCmd)
    (hf : rspCost q.op q.hdr ≤ (c.port n).rspFree) :
    ∃ P : Port, c.answerAtPort n q st a = { c with ports := c.ports.put n P } ∧ P.reqs = (c.port n).reqs ∧
      (∃ x : TxRsp, P.txq = (c.port n).txq ++ [x] ∧ x.op = q.op ∧ x.hdr = q.hdr ∧ x.status = st ∧ x.arg = a ∧ x.data = [] ∧ x.e2e = false) ∧
      (st = .badOp → P.cntBadop = bump32 (c.port n).cntBadop) ∧ P.state = (c.port n).state ∧ P.streams = (c.port n).streams ∧
      P.heldReq + P.pendReq = (c.port n).heldReq + (c.port n).pendReq + reqCost q.op q.hdr ∧ P.e2eFail = (c.port n).e2eFail := by
  obtain ⟨c1, c2, c3, c4, r1, r2, r3, hc, hb⟩ := (c.port n).countAnswer_frame q.op q.hdr st a
  refine ⟨_, rfl, ?_⟩
  have hpp : Tab.get {} c.ports n = c.port n := rfl
  simp only [hpp, beq_iff_eq, hm, if_false, hf, if_true]
  generalize hX : mkTx q.op q.hdr st a [] false 0 (rspCost q.op q.hdr) 0 false = X
  have hx : X.op = q.op ∧ X.hdr = q.hdr ∧ X.status = st ∧ X.arg = a ∧ X.data = [] ∧ X.e2e = false := by
    subst hX; simp [mkTx, rspData, ceilDiv, padBytes]
  have hk : X.rspCost = rspCost q.op q.hdr := by subst hX; rfl
  unfold Port.answerNow
  simp only [hk, hx.1, hx.2.1, hx.2.2.1, hx.2.2.2.1, hc]
  unfold Port.queueTx
  simp only [hx.2.2.2.2.2, hx.1, beq_iff_eq, hm, if_false, Bool.false_eq_true]
  obtain ⟨a1, b1, d1, e1, f1, g1, l1, x1, hg, hs, -⟩ := Port.grantIfDue_frame ({ (c.port n) with
    cntBadop := c1, cntDenied := c2, cntUnmapped := c3, rejHdr0 := r1, rejDetail := r2, rejStatus := r3, cntSeqGap := c4
    rspUsed := (c.port n).rspUsed + rspCost q.op q.hdr, pendReq := (c.port n).pendReq + reqCost q.op q.hdr
    txq := (c.port n).txq ++ [X] })
  dsimp only at hg ⊢
  rw [hg]
  refine ⟨rfl, ⟨X, rfl, hx⟩, hb, rfl, rfl, ?_, rfl⟩
  dsimp only at hs ⊢
  push_cast at hs
  omega

/-- Moving a stream changes the stream contexts alone, and for a FENCE which requests stand before it. -/
theorem Port.moveStream_frame (p : Port) (q : RxReq) : ∃ ss, p.moveStream q = { p with
    streams := ss
    reqs := if q.op == .fence then
      p.reqs.map (fun r => if isMember r.op && r.streamN == q.hdr.stream.toNat then { r with fenced := true } else r) else p.reqs } := by
  unfold Port.moveStream
  by_cases h1 : (isMember q.op && q.hdr.ordered) = true <;> by_cases h2 : (q.op == .fence) = true <;> simp only [h1, h2] <;>
    exact ⟨_, rfl⟩

/-- A request that joins with its RSP space stands last among those admitted; nothing else that a later step of its admission looks at
changes. -/
theorem Port.join_fits (p : Port) (q : RxReq) (r : Req) :
    ∃ a b c d e f l x pk, p.join q r true = { p with
      reqs := p.reqs ++ [r], rspUsed := p.rspUsed + r.rspCost, peak := pk
      heldReq := a, heldRsp := b, heldMgt := c, pendReq := d, pendRsp := e, pendMgt := f, lastTx := l, slots := x } ∧
      a + d = p.heldReq + p.pendReq + reqCost q.op q.hdr := by
  unfold Port.join Port.takeSpace
  dsimp only
  obtain ⟨a, b, c, d, e, f, l, x, hg, hs, -⟩ := Port.grantIfDue_frame { p with
    reqs := p.reqs ++ [r], peak := max p.peak ({ p with reqs := p.reqs ++ [r] } : Port).tagsOut
    rspUsed := p.rspUsed + r.rspCost, pendReq := p.pendReq + reqCost q.op q.hdr }
  refine ⟨a, b, c, d, e, f, l, x, max p.peak ({ p with reqs := p.reqs ++ [r] } : Port).tagsOut, ?_, ?_⟩
  · simp only [if_true]; exact hg
  · dsimp only at hs; push_cast at hs; omega

/-- A request that joins under a TAG nobody holds is the one its TAG names. -/
theorem req?_append (p : Port) (r : Req) (h : p.req? r.tagN = none) : ({ p with reqs := p.reqs ++ [r] } : Port).req? r.tagN = some r := by
  unfold Port.req? at *
  simp [List.find?_append, h]

/-- A request that passes the checks and finds its RSP space is admitted and goes on (R131 step 9): its port `P` holds it last, and no
other part of the state has changed. -/
theorem Chip.accept_fits (c : Chip) (n : Nat) (q : RxReq) (hs : rspCost q.op q.hdr ≤ (c.port n).rspFree)
    (hfree : (c.port n).req? q.hdr.tag.toNat = none) :
    ∃ P : Port, c.accept n q = ({ c with ports := c.ports.put n P } : Chip).proceed n q.hdr.tag.toNat true q.look ∧
      P.reqs = ((c.port n).moveStream q).reqs ++ [c.reqOf n q] ∧ P.req? q.hdr.tag.toNat = some (c.reqOf n q) ∧
      P.streams = ((c.port n).moveStream q).streams ∧ P.txq = (c.port n).txq ∧ P.txMgt = (c.port n).txMgt ∧
      P.jobWait = (c.port n).jobWait ∧ P.state = (c.port n).state ∧ P.cfg = (c.port n).cfg ∧
      P.rspUsed = (c.port n).rspUsed + rspCost q.op q.hdr ∧
      P.heldReq + P.pendReq = (c.port n).heldReq + (c.port n).pendReq + reqCost q.op q.hdr := by
  obtain ⟨ss, hm⟩ := (c.port n).moveStream_frame q
  obtain ⟨a, b, d, e, f, g, l, x, pk, hj, hsum⟩ := ((c.port n).moveStream q).join_fits q (c.reqOf n q)
  have hc : (c.reqOf n q).rspCost = rspCost q.op q.hdr := rfl
  have ht : (c.reqOf n q).tagN = q.hdr.tag.toNat := rfl
  refine ⟨((c.port n).moveStream q).join q (c.reqOf n q) true, ?_, ?_, ?_, ?_, ?_, ?_, ?_, ?_, ?_, ?_, ?_⟩
  · unfold Chip.accept
    simp only [hc, hs, decide_true, if_true]
    rfl
  · rw [hj]
  · rw [hj]
    have : ((c.port n).moveStream q).req? q.hdr.tag.toNat = none := by
      rw [hm]
      unfold Port.req? at *
      dsimp only
      split
      · rw [List.find?_eq_none] at *
        intro r hr
        obtain ⟨r0, h0, rfl⟩ := List.mem_map.mp hr
        have := hfree r0 h0
        split <;> exact this
      · exact hfree
    have := req?_append ((c.port n).moveStream q) (c.reqOf n q) (by rw [ht]; exact this)
    rw [ht] at this
    exact this
  · rw [hj]
  · rw [hj, hm]
  · rw [hj, hm]
  · rw [hj, hm]
  · rw [hj, hm]
  · rw [hj, hm]
  · rw [hj, hm, hc]
  · rw [hj]; dsimp only; rw [hsum, hm]

/-- What admission does to a stream depends on the port's streams and requests alone. -/
theorem Port.moveStream_congr (p p' : Port) (q : RxReq) (hr : p'.reqs = p.reqs) (hs : p'.streams = p.streams) :
    (p'.moveStream q).reqs = (p.moveStream q).reqs ∧ (p'.moveStream q).streams = (p.moveStream q).streams := by
  unfold Port.moveStream Port.onStream
  dsimp only
  split <;> split <;> simp [hr, hs]

/-- An admitted request's whole arrival at an open port (R131): it spends its units, is counted where it is checked end to end, and goes
on from a state that differs at its port alone. -/
theorem Chip.request_admits (c : Chip) (n : Nat) (op : Op) (h : ReqHdr) (pl : List Byte) (tr : Word) (look : Lookup) (hm : op ≠ .mgmtCmd)
    (ha : c.Admits n (rxOf op h pl tr look)) :
    ∃ P : Port, c.arrive n op h pl tr look = ({ c with ports := c.ports.put n P } : Chip).proceed n h.tag.toNat true look ∧
      P.reqs = ((c.port n).moveStream (rxOf op h pl tr look)).reqs ++
        [{ c.reqOf n (rxOf op h pl tr look) with
            data := if op == .nopCredit then ((c.port n).spend op h).creditData else [] }] ∧
      P.req? h.tag.toNat = some { c.reqOf n (rxOf op h pl tr look) with
            data := if op == .nopCredit then ((c.port n).spend op h).creditData else [] } ∧
      P.streams = ((c.port n).moveStream (rxOf op h pl tr look)).streams ∧ P.txq = (c.port n).txq ∧ P.txMgt = (c.port n).txMgt ∧
      P.jobWait = (c.port n).jobWait ∧ P.state = (c.port n).state ∧ P.cfg = (c.port n).cfg ∧
      P.rspUsed = (c.port n).rspUsed + rspCost op h ∧
      P.heldReq + P.pendReq = (c.port n).heldReq + (c.port n).pendReq := by
  rw [c.arrive_open n op h pl tr look ha.toOpen hm]
  -- the port once the units are spent and the check is counted
  have key : ∃ p0 : Port, (c.onPort n (·.spend op h)).admitReq n (rxOf op h pl tr look) =
      ({ c with ports := c.ports.put n p0 } : Chip).accept n (rxOf op h pl tr look) ∧
      (p0 = (c.port n).spend op h ∨ p0 = { (c.port n).spend op h with e2eCheck := bump32 (c.port n).e2eCheck, e2eRun := 0 }) := by
    rw [Chip.admit_accept]
    · by_cases hx : (hasTrailer (rxOf op h pl tr look).op (rxOf op h pl tr look).hdr && ((c.onPort n (·.spend op h)).port n).e2eEn) = true
      · simp only [hx, if_true]
        exact ⟨_, by simp only [Chip.onPort, Tab.upd, Tab.get_put_same, Tab.put_put]; rfl, Or.inr rfl⟩
      · simp only [hx]
        exact ⟨_, rfl, Or.inl rfl⟩
    · rw [Chip.onPort_port_same]; exact ha.form
    · rw [Chip.onPort_port_same]; exact ha.e2e
    · rw [Chip.checkAccess_onPort]
      · exact ha.access
      · rfl
    · rw [Chip.onPort_port_same]; exact ha.seq
  obtain ⟨p0, hk, hp0⟩ := key
  rw [hk]
  have hport : ({ c with ports := c.ports.put n p0 } : Chip).port n = p0 := by simp [Chip.port]
  have hreq0 := Port.req?_none_of_badOp _ _ ha.form
  obtain ⟨P, hP, h1, h2, h3, h4, h5, h6, h7, h8, h9, h10⟩ := Chip.accept_fits ({ c with ports := c.ports.put n p0 } : Chip) n
    (rxOf op h pl tr look)
    (by rw [hport]; rcases hp0 with rfl | rfl <;> exact ha.space)
    (by rw [hport]; rcases hp0 with rfl | rfl <;> exact hreq0)
  rw [hport] at h1 h3 h4 h5 h6 h7 h8 h9 h10
  have hr : ({ c with ports := c.ports.put n p0 } : Chip).reqOf n (rxOf op h pl tr look) =
      { c.reqOf n (rxOf op h pl tr look) with data := if op == .nopCredit then ((c.port n).spend op h).creditData else [] } := by
    unfold Chip.reqOf
    simp only [hport]
    rcases hp0 with rfl | rfl <;> rfl
  have hms : (p0.moveStream (rxOf op h pl tr look)).reqs = ((c.port n).moveStream (rxOf op h pl tr look)).reqs ∧
      (p0.moveStream (rxOf op h pl tr look)).streams = ((c.port n).moveStream (rxOf op h pl tr look)).streams := by
    apply Port.moveStream_congr
    · rcases hp0 with rfl | rfl <;> rfl
    · rcases hp0 with rfl | rfl <;> rfl
  refine ⟨P, ?_, ?_, ?_, ?_, ?_, ?_, ?_, ?_, ?_, ?_, ?_⟩
  · rw [hP]; simp only [Tab.put_put]; rfl
  · rw [h1, hr, hms.1]
  · rw [← hr]; exact h2
  · rw [h3, hms.2]
  · rw [h4]; rcases hp0 with rfl | rfl <;> rfl
  · rw [h5]; rcases hp0 with rfl | rfl <;> rfl
  · rw [h6]; rcases hp0 with rfl | rfl <;> rfl
  · rw [h7]; rcases hp0 with rfl | rfl <;> rfl
  · rw [h8]; rcases hp0 with rfl | rfl <;> rfl
  · rw [h9]; rcases hp0 with rfl | rfl <;> rfl
  · rw [h10]; rcases hp0 with rfl | rfl <;> (simp only [Port.spend, rxOf]; omega)

end Sys2Proof.Machine
end

