-- ==== Sys2Proof/Laws/Chan.lean ====
section
/-! SUPPORT. What the shared operations of a channel controller change: a command that issues, a row that opens or closes, a run that ends, a
training that begins or is over. -/

namespace Sys2Proof.Machine

/-! ### A command issues (R384) -/

@[simp] theorem Chc.issueEnt_retry (h : Chc) (e : RetryEnt) : (h.issueEnt e).retry = h.retry ++ [e] := rfl
@[simp] theorem Chc.issueEnt_pc (h : Chc) (e : RetryEnt) : (h.issueEnt e).pc e.p = (h.pc e.p).drive e.cmd := by
  simp [Chc.issueEnt, Chc.onPc, Chc.pc]
@[simp] theorem Chc.issue_retry (h : Chc) (p : Nat) (m : DramCmd) (a : Option Cmd) (d q : Nat) :
    (h.issue p m a d q).retry = h.retry ++ [⟨p, m, a, d, q, false, false⟩] := rfl
@[simp] theorem Chc.issueAux_retry (h : Chc) (p : Nat) (m : DramCmd) :
    (h.issueAux p m).retry = h.retry ++ [⟨p, m, none, 0, 0, false, true⟩] := rfl
@[simp] theorem Chc.issueEnt_cntAct (h : Chc) (e : RetryEnt) : (h.issueEnt e).cntAct = h.cntAct := rfl
@[simp] theorem Chc.issueEnt_rng (h : Chc) (e : RetryEnt) : (h.issueEnt e).rng = h.rng := rfl

/-- An ACT takes one entry and counts once (R378, R384). -/
theorem Chc.activate_counts (h : Chc) (p b r : Nat) (a : Option Cmd) :
    (h.activate p b r a).retry.length = h.retry.length + 1 ∧ (h.activate p b r a).cntAct = h.cntAct.bump ∧
    (h.activate p b r a).rng = xorshift h.rng := by
  simp [Chc.activate, Chc.formAct, Chc.issue, Chc.issueEnt, Chc.onPc]

/-- A re-open of a replay takes one entry and counts once, and no row opens for the scheduler (R378, R387). -/
theorem Chc.reopen_counts (h : Chc) (p b r : Nat) :
    (h.reopen p b r).retry.length = h.retry.length + 1 ∧ (h.reopen p b r).cntAct = h.cntAct.bump ∧
    ((h.reopen p b r).pc p).openRows = (h.pc p).openRows := by
  simp [Chc.reopen, Chc.formAct, Chc.issueAux, Chc.issueEnt, Chc.onPc, Chc.pc, Pc.drive]

/-- A PRE closes its bank (R353). -/
theorem Chc.precharge_closes (h : Chc) (p b : Nat) :
    ((h.precharge p b).pc p).openRows = (h.pc p).openRows.del b ∧ (h.precharge p b).retry.length = h.retry.length + 1 := by
  simp [Chc.precharge, Chc.issue, Chc.issueEnt, Chc.onPc, Chc.pc, Pc.drive]

/-! ### The buses (R351) -/

@[simp] theorem Pc.drive_rowBus (pc : Pc) (m : DramCmd) : (pc.drive m).rowBus = busWord 13 m.rowBits := rfl
@[simp] theorem Pc.drive_colBus (pc : Pc) (m : DramCmd) : (pc.drive m).colBus = busWord 8 m.colBits := rfl
@[simp] theorem Pc.drive_rq (pc : Pc) (m : DramCmd) : (pc.drive m).rq = pc.rq := rfl
@[simp] theorem Pc.drive_wq (pc : Pc) (m : DramCmd) : (pc.drive m).wq = pc.wq := rfl
@[simp] theorem Pc.drive_fifo (pc : Pc) (m : DramCmd) : (pc.drive m).fifo = pc.fifo := rfl
@[simp] theorem Pc.drive_openRows (pc : Pc) (m : DramCmd) : (pc.drive m).openRows = pc.openRows := rfl
@[simp] theorem Pc.drive_state (pc : Pc) (m : DramCmd) : (pc.drive m).state = pc.state := rfl

/-! ### Training begins, and is over (R408, R720) -/

@[simp] theorem Pc.quiet_alert (pc : Pc) : pc.quiet.alert = false := rfl
@[simp] theorem Pc.quiet_script (pc : Pc) : pc.quiet.script = [] := rfl
@[simp] theorem Pc.quiet_state (pc : Pc) : pc.quiet.state = pc.state := rfl
@[simp] theorem Pc.quiet_laneMap (pc : Pc) : pc.quiet.laneMap = pc.laneMap := rfl
@[simp] theorem Pc.quiet_rq (pc : Pc) : pc.quiet.rq = pc.rq := rfl
@[simp] theorem Pc.quiet_wq (pc : Pc) : pc.quiet.wq = pc.wq := rfl
@[simp] theorem Pc.startFrom_base (pc : Pc) (t : Int) : (pc.startFrom t).base = some t := rfl
@[simp] theorem Pc.startFrom_changes (pc : Pc) (t : Int) : (pc.startFrom t).changes = [] := rfl
@[simp] theorem Pc.startFrom_laneMap (pc : Pc) (t : Int) : (pc.startFrom t).laneMap = pc.laneMap := rfl
@[simp] theorem Pc.startFrom_points (pc : Pc) (t : Int) : (pc.startFrom t).points = pc.points := rfl

/-- From the start of a training until its first change, every setting in force is the one that the stored points give (R408, R430). -/
theorem Pc.startFrom_setting (pc : Pc) (t : Int) (key : Nat) : (pc.startFrom t).setting key = pc.fromPoints t key := rfl

@[simp] theorem Pc.fence_state (pc : Pc) : pc.fence.state = .fenced := rfl
@[simp] theorem Pc.fence_cal (pc : Pc) : pc.fence.cal = none := rfl
@[simp] theorem Pc.fence_alert (pc : Pc) : pc.fence.alert = false := rfl
@[simp] theorem Pc.fence_replaying (pc : Pc) : pc.fence.replaying = false := rfl

/-! ### Compare runs (R407) -/

@[simp] theorem Chc.endRun_trnBusy (h : Chc) (ns : List (Nat × Nat)) : (h.endRun ns).trnBusy = false := rfl
@[simp] theorem Chc.endRun_trnDone (h : Chc) (ns : List (Nat × Nat)) : (h.endRun ns).trnDone = true := rfl
@[simp] theorem Chc.endRun_trnCnts (h : Chc) (ns : List (Nat × Nat)) : (h.endRun ns).trnCnts = ns := rfl
@[simp] theorem Chc.endRun_retry (h : Chc) (ns : List (Nat × Nat)) : (h.endRun ns).retry = h.retry := rfl

end Sys2Proof.Machine
end

