-- ==== Sys2Proof/Laws/Memory.lean ====
section
/-! SUPPORT. The laws of the core-die cells: every operation keeps the canonical form, a read after a write gives what was written,
and a write leaves every other address as it was. -/

namespace Sys2Proof.Machine

/-- The form below a bound: every listed address is at least `lo`. -/
def Memory.from_ (lo : Nat) : Memory → Bool
  | [] => true
  | (a, _) :: _ => lo ≤ a

theorem Memory.wf_cons (e a : Nat) (b : Byte) (t : Memory) :
    Memory.wf e ((a, b) :: t) = (b != Config.coldCell e a && Memory.from_ (a + 1) t && Memory.wf e t) := by
  cases t with
  | nil => simp [Memory.wf, Memory.from_]
  | cons h t =>
    obtain ⟨k, v⟩ := h
    simp [Memory.wf, Memory.from_, Nat.succ_le_iff]

/-- Below the first listed address a cell reads as nothing has written it. -/
theorem Memory.read_below (e lo a : Nat) (m : Memory) (hw : Memory.wf e m = true) (hl : Memory.from_ lo m = true) (h : a < lo) :
    Memory.read e m a = Config.coldCell e a := by
  induction m generalizing lo with
  | nil => rfl
  | cons x t ih =>
    obtain ⟨k, v⟩ := x
    rw [Memory.wf_cons] at hw
    simp [Memory.from_] at hl hw
    simp only [Memory.read]
    rw [if_neg (by omega)]
    exact ih (k + 1) hw.2 hw.1.2 (by omega)

theorem Memory.from_insert (lo a : Nat) (v : Byte) (m : Memory) (h : Memory.from_ lo m = true) (ha : lo ≤ a) :
    Memory.from_ lo (m.insert a v) = true := by
  cases m with
  | nil => simp [Memory.insert, Memory.from_, ha]
  | cons x t =>
    obtain ⟨k, w⟩ := x
    simp only [Memory.insert]
    split
    · simp [Memory.from_, ha]
    · split
      · simp [Memory.from_, ha]
      · simpa [Memory.from_] using h

theorem Memory.wf_insert (e a : Nat) (v : Byte) (m : Memory) (hw : Memory.wf e m = true) (hv : v ≠ Config.coldCell e a) :
    Memory.wf e (m.insert a v) = true := by
  induction m with
  | nil => simp [Memory.insert, Memory.wf, hv]
  | cons x t ih =>
    obtain ⟨k, w⟩ := x
    have h := hw
    rw [Memory.wf_cons] at h
    simp at h
    simp only [Memory.insert]
    split
    · subst_vars; rw [Memory.wf_cons]; simp [hv, h]
    · split
      · rw [Memory.wf_cons]; simp [hv, hw, Memory.from_]; omega
      · rw [Memory.wf_cons]; simp [h, ih]; exact Memory.from_insert _ _ _ _ h.1.2 (by omega)

theorem Memory.from_erase (e lo a : Nat) (m : Memory) (hw : Memory.wf e m = true) (h : Memory.from_ lo m = true) :
    Memory.from_ lo (m.erase a) = true := by
  cases m with
  | nil => rfl
  | cons x t =>
    obtain ⟨k, w⟩ := x
    simp only [Memory.erase]
    split
    · rw [Memory.wf_cons] at hw
      simp at hw
      cases t with
      | nil => rfl
      | cons y u => obtain ⟨k2, w2⟩ := y; simp [Memory.from_] at *; omega
    · simpa [Memory.from_] using h

theorem Memory.wf_erase (e a : Nat) (m : Memory) (hw : Memory.wf e m = true) : Memory.wf e (m.erase a) = true := by
  induction m with
  | nil => rfl
  | cons x t ih =>
    obtain ⟨k, w⟩ := x
    rw [Memory.wf_cons] at hw
    simp at hw
    simp only [Memory.erase]
    split
    · exact hw.2
    · rw [Memory.wf_cons]; simp [hw, ih]; exact Memory.from_erase e _ _ _ hw.2 hw.1.2

/-- A write keeps the canonical form. -/
theorem Memory.wf_write (e a : Nat) (v : Byte) (m : Memory) (hw : Memory.wf e m = true) : Memory.wf e (m.write e a v) = true := by
  unfold Memory.write
  split
  · exact Memory.wf_erase _ _ _ hw
  · exact Memory.wf_insert _ _ _ _ hw ‹_›

/-- A write of bytes keeps the canonical form. -/
theorem Memory.wf_writeBytes (e a : Nat) (vs : List Byte) (m : Memory) (hw : Memory.wf e m = true) :
    Memory.wf e (m.writeBytes e a vs) = true := by
  induction vs generalizing m a with
  | nil => exact hw
  | cons v t ih => exact ih _ _ (Memory.wf_write _ _ _ _ hw)

/-- Storing a block keeps the canonical form. -/
theorem Memory.wf_putBlock (e : Nat) (l : Phys) (d q : Nat) (m : Memory) (hw : Memory.wf e m = true) :
    Memory.wf e (m.putBlock e l d q) = true := Memory.wf_writeBytes _ _ _ _ hw

theorem Memory.read_insert_same (e a : Nat) (v : Byte) (m : Memory) : Memory.read e (m.insert a v) a = v := by
  induction m with
  | nil => simp [Memory.insert, Memory.read]
  | cons x t ih =>
    obtain ⟨k, w⟩ := x
    simp only [Memory.insert]
    split
    · simp [Memory.read]
    · split
      · simp [Memory.read]
      · simp [Memory.read, *]

theorem Memory.read_insert_other (e a b : Nat) (v : Byte) (m : Memory) (h : b ≠ a) :
    Memory.read e (m.insert a v) b = Memory.read e m b := by
  induction m with
  | nil => simp [Memory.insert, Memory.read, h]
  | cons x t ih =>
    obtain ⟨k, w⟩ := x
    simp only [Memory.insert]
    split
    · subst_vars; simp [Memory.read, h]
    · split
      · simp [Memory.read, h]
      · simp [Memory.read, ih]

theorem Memory.read_erase_same (e a : Nat) (m : Memory) (hw : Memory.wf e m = true) :
    Memory.read e (m.erase a) a = Config.coldCell e a := by
  induction m with
  | nil => rfl
  | cons x t ih =>
    obtain ⟨k, w⟩ := x
    rw [Memory.wf_cons] at hw
    simp at hw
    simp only [Memory.erase]
    split
    · rename_i h; subst h; exact Memory.read_below _ (a + 1) _ _ hw.2 hw.1.2 (by omega)
    · simp [Memory.read, *]

theorem Memory.read_erase_other (e a b : Nat) (m : Memory) (h : b ≠ a) : Memory.read e (m.erase a) b = Memory.read e m b := by
  induction m with
  | nil => rfl
  | cons x t ih =>
    obtain ⟨k, w⟩ := x
    simp only [Memory.erase]
    split
    · subst_vars; simp [Memory.read, h]
    · simp [Memory.read, ih]

/-- A read after a write to the same address gives the byte written. -/
theorem Memory.read_write_same (e a : Nat) (v : Byte) (m : Memory) (hw : Memory.wf e m = true) :
    Memory.read e (m.write e a v) a = v := by
  unfold Memory.write
  split
  · rw [Memory.read_erase_same _ _ _ hw]; exact Eq.symm ‹_›
  · exact Memory.read_insert_same _ _ _ _

/-- A write leaves every other address as it was. -/
theorem Memory.read_write_other (e a b : Nat) (v : Byte) (m : Memory) (h : b ≠ a) :
    Memory.read e (m.write e a v) b = Memory.read e m b := by
  unfold Memory.write
  split
  · exact Memory.read_erase_other _ _ _ _ h
  · exact Memory.read_insert_other _ _ _ _ _ h

/-- A write of bytes leaves every address outside them as it was. -/
theorem Memory.read_writeBytes_other (e a b : Nat) (vs : List Byte) (m : Memory) (h : b < a ∨ a + vs.length ≤ b) :
    Memory.read e (m.writeBytes e a vs) b = Memory.read e m b := by
  induction vs generalizing m a with
  | nil => rfl
  | cons v t ih =>
    simp at h
    rw [Memory.writeBytes, ih _ _ (by omega), Memory.read_write_other _ _ _ _ _ (by omega)]

/-- A write of bytes gives each of them at its address. -/
theorem Memory.read_writeBytes_same (e a i : Nat) (vs : List Byte) (m : Memory) (hw : Memory.wf e m = true) (h : i < vs.length) :
    Memory.read e (m.writeBytes e a vs) (a + i) = vs[i] := by
  induction vs generalizing m a i with
  | nil => simp at h
  | cons v t ih =>
    rw [Memory.writeBytes]
    cases i with
    | zero =>
      rw [Memory.read_writeBytes_other _ _ _ _ _ (by omega)]
      simpa using Memory.read_write_same e a v m hw
    | succ i =>
      have := ih (a + 1) i (m.write e a v) (Memory.wf_write _ _ _ _ hw) (by simpa using h)
      rw [show a + (i + 1) = a + 1 + i by omega, this]
      simp

end Sys2Proof.Machine
end

