-- ==== Sys2Proof/Laws/Mgmt.lean ====
section
/-! SUPPORT. Management commands: what a reply changes, what taking a packet changes, and what a row does once its packet has been
granted or turned away. -/

namespace Sys2Proof.Machine

/-- A live block is not served by the SAFE responder. -/
theorem Chip.responds_of_live (c : Chip) (h : c.live = true) : c.responds = false := by
  simp only [Chip.live, Chip.on, Bool.and_eq_true, bne_iff_ne, ne_eq, Bool.not_eq_true'] at h
  simp [Chip.responds, h]

/-- A live block is on. -/
theorem Chip.on_of_live (c : Chip) (h : c.live = true) : c.on = true := by
  simp only [Chip.live, Bool.and_eq_true] at h
  exact h.1

/-- A reply goes out on the path of its packet. -/
theorem replied_of_reply (c : Chip) (m : MgtPkt) (rc arg : Nat) (data : List Byte) : Replied c (c.reply m rc arg data) m rc arg data := by
  refine ⟨fun h => ?_, fun h => ?_, fun h => ?_, fun h => ?_, fun h => ?_⟩ <;> simp [Chip.reply, h, Chip.sendPkt]

/-- What a reply depends on and what it changes: nothing but the crossbar and MGT, and of MGT none of what waits or runs. -/
theorem Chip.reply_frame (c : Chip) (m : MgtPkt) (rc arg : Nat) (data : List Byte) :
    ∃ x g, c.reply m rc arg data = { c with xbr := x, mgt := g } ∧ g.buf = c.mgt.buf ∧ g.sbWait = c.mgt.sbWait ∧ g.long = c.mgt.long ∧
      g.queue = c.mgt.queue ∧ g.rsm = c.mgt.rsm ∧ g.posted = c.mgt.posted ∧ g.drops = c.mgt.drops ∧ g.fails = c.mgt.fails ∧
      g.holdoff = c.mgt.holdoff ∧ g.inReset = c.mgt.inReset := by
  unfold Chip.reply
  dsimp only
  split <;> exact ⟨_, _, rfl, rfl, rfl, rfl, rfl, rfl, rfl, rfl, rfl, rfl, rfl⟩

/-- A reply keeps calm. -/
theorem Chip.Calm.reply {c : Chip} (h : c.Calm) (m : MgtPkt) (rc arg : Nat) (data : List Byte) : (c.reply m rc arg data).Calm := by
  obtain ⟨x, g, e, h1, h2, h3, _⟩ := c.reply_frame m rc arg data
  rw [e]
  exact h.of_eq h1 h2 h3 rfl (fun _ => rfl) (fun _ => rfl) (fun _ => id) (fun _ => id)

/-- An order of Ilael's own joins what waits for its interpreter, and changes nothing else. -/
theorem Chip.orderOwn_frame (c : Chip) (via : Via) (cmd : Nat) :
    ∃ q r, c.orderOwn via cmd = { c with mgt := { c.mgt with queue := q, rsm := r } } := by
  unfold Chip.orderOwn
  cases via <;> dsimp only <;> repeat' split
  all_goals exact ⟨_, _, rfl⟩

/-- Taking a packet changes nothing but what waits for the interpreters. -/
theorem Chip.take_frame (c c' : Chip) (via : Via) (cmd : Nat) (which : Nat → Bool) (m : MgtPkt)
    (h : c.take via cmd which = some (m, c')) :
    ∃ q r l, c' = { c with mgt := { c.mgt with queue := q, rsm := r, rsmLast := l } } := by
  obtain ⟨q, r, e⟩ := c.orderOwn_frame via cmd
  unfold Chip.take at h
  simp only [e] at h
  split at h
  · unfold Chip.takeHw at h
    split at h
    · split at h
      · obtain ⟨_, rfl⟩ := Prod.mk.inj (Option.some.inj h)
        exact ⟨_, _, _, rfl⟩
      · cases h
    · cases h
  · unfold Chip.takeIlael at h
    split at h
    · cases h
    · split at h
      · split at h
        · obtain ⟨_, rfl⟩ := Prod.mk.inj (Option.some.inj h)
          exact ⟨_, _, _, rfl⟩
        · cases h
      · cases h

/-- Taking a packet keeps calm. -/
theorem Chip.Calm.take {c c' : Chip} (h : c.Calm) {via : Via} {cmd : Nat} {m : MgtPkt} (ht : c.Takes via cmd m c') : c'.Calm := by
  obtain ⟨q, r, l, rfl⟩ := c.take_frame c' via cmd _ m ht.take
  exact h.of_eq rfl rfl rfl rfl (fun _ => rfl) (fun _ => rfl) (fun _ => id) (fun _ => id)

/-- A command's row runs the checks of R656 on the packet it takes. -/
theorem Chip.commandOf_of_takes (c c' : Chip) (via : Via) (cmd : Nat) (m : MgtPkt) (body : Chip → MgtPkt → Nat → Chip)
    (h : c.Takes via cmd m c') : c.commandOf via cmd body = c'.checked m body := by
  simp only [Chip.commandOf, Chip.command, c.responds_of_live h.live, h.live, Bool.false_eq_true, if_false, Bool.not_true, h.take]

/-- Taking a packet bears on no grant. -/
theorem Chip.privilege_of_take {c c' : Chip} {via : Via} {cmd : Nat} {m : MgtPkt} (h : c.Takes via cmd m c') (k : MgtPkt) :
    c'.privilege k = c.privilege k := by
  obtain ⟨q, r, l, rfl⟩ := c.take_frame c' via cmd _ m h.take
  rfl

/-- A granted command is run. -/
theorem Chip.commandOf_of_grants {c c' : Chip} {via : Via} {cmd l : Nat} {m : MgtPkt} (h : c.Grants via cmd m c' l) (hc : m.cmd = cmd)
    (body : Chip → MgtPkt → Nat → Chip) : c.commandOf via cmd body = body c' m l := by
  rw [c.commandOf_of_takes c' via cmd m body h.toTakes]
  have hr : c'.ilaelReady cmd = c.ilaelReady cmd := by
    obtain ⟨q, r, x, rfl⟩ := c.take_frame c' via cmd _ m h.take
    rfl
  have := h.ready
  simp only [Chip.checked, h.form, Chip.privilege_of_take h.toTakes, h.grant, hc, hr, this, if_true]

end Sys2Proof.Machine
end

