-- ==== Sys2Proof/Laws/Regs.lean ====
section
/-! SUPPORT. Register writes: frames that no test hides, and the effect of a pulse. -/

namespace Sys2Proof.Machine

/-- A frame whose block no field test takes is never hidden (R668). -/
theorem Chip.frameHidden_of_untested (c : Chip) (f : Frame) (h : ∀ b, frameTested f b = false) : c.frameHidden f = false := by
  unfold Chip.frameHidden
  split
  · simp [h]
  · rfl

@[simp] theorem Chip.frameHidden_hpa (c : Chip) (n : PortIx) : c.frameHidden (.hpa n) = false := c.frameHidden_of_untested _ (fun _ => rfl)
@[simp] theorem Chip.frameHidden_bwr (c : Chip) : c.frameHidden .bwr = false := c.frameHidden_of_untested _ (fun _ => rfl)
@[simp] theorem Chip.frameHidden_xbr (c : Chip) : c.frameHidden .xbr = false := c.frameHidden_of_untested _ (fun _ => rfl)

/-- A posted frame is never hidden. -/
theorem Chip.frameHidden_of_posted (c : Chip) (f : Frame) (h : isPosted f = true) : c.frameHidden f = false := by
  cases f <;> first | exact c.frameHidden_of_untested _ (fun _ => rfl) | simp [isPosted] at h

/-- A pulse field acts in a live block whose frame is not hidden. -/
theorem Chip.pulse_of_live (c : Chip) (f : Frame) (g : Chip → Chip) (hl : c.live = true) (hf : c.frameHidden f = false) :
    c.pulse f g = g c := by simp [Chip.pulse, hl, hf]

end Sys2Proof.Machine
end

