-- ==== Sys2Proof/Laws/Stream.lean ====
section
/-! SUPPORT. Completion and release: what the end of a request does to its port, and what its release sends. -/

namespace Sys2Proof.Machine

/-- Closing a request that is not of an earlier session and does not break its stream: it leaves the admitted requests, and its response
waits for hand-off. -/
theorem Port.close_plain (p : Port) (r : Req) (t : TxRsp) (hs : r.stale = false) (hb : breaks r.op t.status = false) (ho : t.op = r.op) :
    (p.close r t).reqs = p.reqs.filter (fun q => q.tagN != r.tagN) ∧
    (p.close r t).txq = (if r.op = .mgmtCmd then p.txq else p.txq ++ [t]) ∧
    (p.close r t).txMgt = (if r.op = .mgmtCmd then p.txMgt ++ [t] else p.txMgt) ∧
    (p.close r t).rspUsed = p.rspUsed ∧ (p.close r t).state = p.state ∧ (p.close r t).granted = p.granted ∧
    (p.close r t).cfg = p.cfg := by
  obtain ⟨c1, c2, c3, c4, r1, r2, r3, hc, -⟩ := Port.countAnswer_frame
    { p with reqs := p.reqs.filter (fun q => q.tagN != r.tagN), jobWait := p.jobWait.filter (· != r.tagN) } r.op r.hdr t.status t.arg
  unfold Port.close
  simp only [hc, hs, hb, Bool.and_false, Bool.false_eq_true, if_false]
  generalize hX : Port.queueTx _ t = X
  obtain ⟨ss, hr⟩ := X.releaseStream_frame r.streamN
  rw [hr]
  subst hX
  unfold Port.queueTx
  by_cases h1 : t.e2e = true <;> by_cases h2 : r.op = .mgmtCmd <;> simp [h1, h2, ho]

/-- A request that is no job, not of an earlier session and does not break its stream completes by its port alone. -/
theorem Chip.finish_plain (c : Chip) (n tag : Nat) (st : Status) (arg : Nat) (data : List Byte) (r : Req)
    (hr : (c.port n).req? tag = some r) (hs : r.stale = false) (hj : isJob r.op = false) (hb : breaks r.op st = false) :
    c.finish n tag st arg data = c.onPort n (·.close r
      (mkTx r.op r.hdr st arg data r.e2eOut r.poly r.rspCost (if r.op == .mgmtCmd then 9 else 0) true)) := by
  unfold Chip.finish Chip.finishOne
  simp only [hr, hs, hj, hb, Bool.and_false, Bool.false_eq_true, if_false]

/-- Packets sent one after another stand in that order. -/
theorem Chip.foldl_sendPkt {α : Type} (vc : Vc) (src : Nat) (dst : α → Nat) (body : α → PktBody) (l : List α) (c : Chip) :
    l.foldl (fun c a => c.sendPkt vc src (dst a) (body a)) c =
      { c with xbr := { c.xbr with pkts := c.xbr.pkts ++ l.map (fun a => ⟨vc, src, dst a, body a⟩) } } := by
  induction l generalizing c with
  | nil => simp
  | cons a t ih => rw [List.foldl_cons, ih]; simp [Chip.sendPkt]

/-- A data request whose targets serve and that takes no prompt path is offered: its class is charged, it is active, and its parts go to
the crossbar in order (R121, R155, R168). -/
theorem Chip.release_data (c : Chip) (n tag : Nat) (fresh : Bool) (look : Lookup) (r : Req)
    (hr : (c.port n).req? tag = some r) (hd : isData r.op = true) (hp : r.hdr.prompt = false) (ho : c.offerCheck r.parts = none) :
    ∃ (P : Port) (b : Bwr), c.release n tag fresh look =
      { c with
        bwr := b, ports := c.ports.put n P,
        xbr := { c.xbr with
          pkts := c.xbr.pkts ++ r.parts.map (fun q => ⟨.req, n, epSlice q.row.c, .part { q with born := c.keep }⟩) } } ∧
      P.req? tag = some { r with phase := .active, left := r.parts.length } ∧
      P.streams = (c.port n).streams ∧ P.state = (c.port n).state ∧ P.heldReq = (c.port n).heldReq ∧ P.pendReq = (c.port n).pendReq := by
  have hj : isJob r.op = false := by cases h : r.op <;> simp_all [isData, isJob]
  have hf : (r.op == .flush) = false := by cases h : r.op <;> simp_all [isData]
  have ho' : (c.charge r.cls (releaseUnits r)).offerCheck r.parts = none := ho
  unfold Chip.release
  simp only [hr, hj, hd, ho', hp, Bool.and_false, Bool.false_eq_true, if_false, if_true]
  have hoff : ∀ c : Chip, c.offer n tag r = r.parts.foldl (fun c q => c.sendPkt .req n (epSlice q.row.c) (.part { q with born := c.keep }))
      (c.onPort n (fun p =>
        let p := p.onReq tag (fun r => { r with phase := .active, left := r.parts.length })
        if r.parts.length == 2 then { p with cntSplit := bump32 p.cntSplit } else p)) := by
    intro c
    unfold Chip.offer
    split
    · simp_all
    · rfl
  have hkeep : ∀ (l : List SliceReq) (d : Chip) (k : Nat), d.keep = k →
      l.foldl (fun c q => c.sendPkt .req n (epSlice q.row.c) (.part { q with born := c.keep })) d =
      l.foldl (fun c q => c.sendPkt .req n (epSlice q.row.c) (.part { q with born := k })) d := by
    intro l
    induction l with
    | nil => intros; rfl
    | cons a t ih => intro d k hk; simp only [List.foldl_cons]; subst hk; exact ih _ _ rfl
  rw [hoff]
  generalize hD : Chip.onPort _ n _ = D
  have hk : D.keep = c.keep := by subst hD; rfl
  rw [hkeep _ D c.keep hk,
    Chip.foldl_sendPkt .req n (fun q : SliceReq => epSlice q.row.c) (fun q => .part { q with born := c.keep })]
  subst hD
  refine ⟨_, _, rfl, ?_, ?_, ?_, ?_, ?_⟩
  · have := Port.onReq_req? (c.port n) tag (fun r => { r with phase := .active, left := r.parts.length }) r hr rfl
    dsimp only
    split <;> exact this
  all_goals (dsimp only; split <;> rfl)

end Sys2Proof.Machine
end

