-- ==== Sys2Proof/Tests/Slice0.lean ====
section
/-! SUPPORT. Tests: operands that are no event of the manual, the manual's own worked figures, and for every statement with hypotheses a
concrete state and operands that meet them, clause by clause (`meets_<statement>`, the clauses in the statement's order). -/

namespace Sys2Proof.Tests

open Sys2Proof Sys2Proof.Machine

-- one theorem after the other: side by side their evaluations take more memory than the check allows
set_option Elab.async false

/-! ### Small states -/

/-- The stack before power, with the rest of its state as given. -/
def st (c : Chip) : State := { State.reset with chip := c }

/-- Boot over. -/
def booted : Boot := { pwrgd := true, resetN := true, settled := true, st := .ready, step := 11, refclkOk := true, pllA := true, pllB := true }

/-- Boot in a step. -/
def inStep (n : Nat) : Boot := { booted with st := .booting, step := n }

/-- Boot in SAFE. -/
def inSafe : Boot := { booted with st := .safe, step := 4 }

/-- READY, with nothing in progress. -/
def up : Chip := { boot := booted }

theorem up_calm : up.Calm := Chip.calm_of_test (by decide +kernel)

/-- A header of a user-level request for 64 bytes at address 0, TAG 0, stream 0. -/
def hdr : ReqHdr := ⟨4, 0, 0, 2, 0, 0, false, false, false, false, false, 0, 0, 0, 0, 0, 1⟩

/-- The same with SIZE 0, for requests without one. -/
def bare : ReqHdr := { hdr with size := 0 }

/-- A port that transmits with the initial grants of its session. -/
def open' : Port := { enabled := true, state := .active, granted := true, sbUp := true, heldReq := 1024, heldRsp := 1536, heldMgt := 64 }

/-- READY, port 0 as given. -/
def withPort (p : Port) : Chip := { up with ports := [(0, p)] }

/-- A lane that passes at every code and in every run, and one that passes nowhere. -/
def wide : LaneSweep := ⟨2 ^ 128 - 1, 2 ^ 64 - 1, 2 ^ 128 - 1, 7⟩
def shut : LaneSweep := ⟨0, 0, 0, 0⟩
/-- A training that finds every lane, and one whose command path fails. -/
def allOk : TrainAttempt := ⟨⟨wide, []⟩, ⟨wide, []⟩, ⟨wide, []⟩⟩
def noPath : TrainAttempt := ⟨⟨shut, []⟩, ⟨wide, []⟩, ⟨wide, []⟩⟩
/-- A retraining that finds every lane at all of its 17 codes, and one whose command path fails. -/
def nearAll : RetrainAttempt := ⟨⟨2 ^ 17 - 1, []⟩, ⟨2 ^ 17 - 1, []⟩, ⟨2 ^ 17 - 1, []⟩⟩
def nearNone : RetrainAttempt := ⟨⟨0, []⟩, ⟨2 ^ 17 - 1, []⟩, ⟨2 ^ 17 - 1, []⟩⟩

/-! ### Operands that are no event of the manual -/

theorem test_wf_training_lanes : Instr.wf (.pcTrainingEnd 0 0 allOk ⟨⟨wide, [(3, wide), (3, shut)]⟩, ⟨wide, []⟩, ⟨wide, []⟩⟩) = false := by decide
theorem test_wf_retraining_lanes : Instr.wf (.retrainEnd 0 nearAll ⟨⟨0, []⟩, ⟨0, [(5, 1), (5, 2)]⟩, ⟨0, []⟩⟩) = false := by decide
theorem test_wf_good_word : Instr.wf (.alertRise 0 ⟨0, 0, 0, false, 0, 0, false, none⟩) = false := by decide
theorem test_wf_link_repairs : Instr.wf (.linkTrainStepEnd 0 (.done [1, 1] [] false)) = false := by decide
theorem test_wf_window_beats : Instr.wf (.monitorWindowEnd 0 0 false [(0, ⟨2, 2, 2 ^ 20 + 1⟩)]) = false := by decide
theorem test_wf_window_lanes : Instr.wf (.monitorWindowEnd 0 0 false [(0, ⟨0, 0, 3⟩), (0, ⟨0, 0, 3⟩)]) = false := by decide
theorem test_wf_own_order : Instr.wf (.getInfo (.ilael (List.replicate 481 0))) = false := by decide +kernel
theorem test_wf_payload : Instr.wf (.wr 0 hdr [0] 0) = false := by decide
theorem test_wf_reserved_op : Instr.wf (.reservedOp 0 0x01 hdr) = false := by decide
theorem test_wf_busy_banks : Instr.wf (.dramCommandIssue 0 0 [1, 1]) = false := by decide
theorem test_wf_noise : Instr.wf (.readBurstReturn 0 0 [(2, 1), (2, 3)]) = false := by decide
theorem test_wf_run_counts : Instr.wf (.trnRunEnd 0 [(4, 1, 0), (4, 1, 7)]) = false := by decide
theorem test_wf_zone_readings : Instr.wf (.thmEvaluation 0 (List.replicate 53 ⟨0, 0, false⟩)) = false := by decide +kernel
theorem test_wf_keeper_readings : Instr.wf (.keeperSample (List.replicate 53 ⟨0, 0, false⟩)) = false := by decide +kernel
theorem test_wf_captured_lines : Instr.wf (.errorLineCapture [7, 7] []) = false := by decide
theorem test_wf_i3c_write : Instr.wf (.i3cPrivateWrite (List.replicate 513 0)) = false := by decide +kernel
theorem test_wf_reserved_cmd : Instr.wf (.reservedCmd (.ilael []) 0x03) = false := by decide
theorem test_wf_register_offset : Instr.wf (.registerWrite .xbr 0x209 0) = false := by decide

/-! ### The manual's own figures -/

/-- The figures of the example address of "Address space, interleave and capacity", under the three maps. -/
theorem test_map_default : mapAddr 0 0x1234567A40 = (⟨57, 1, 14, 37282⟩, 5, 0) := by decide
theorem test_map_linear : mapAddr 1 0x1234567A40 = (⟨58, 0, 14, 37282⟩, 5, 0) := by decide
theorem test_map_contiguous : mapAddr 2 0x1234567A40 = (⟨17, 1, 11, 37209⟩, 9, 0) := by decide

/-- The table of accumulate results of "Atomics, accumulate and press jobs". -/
theorem test_bf16_ties : fpAdd 7 0x3F80 0x3B80 = 0x3F80 ∧ fpAdd 7 0x3F81 0x3B80 = 0x3F82 := by decide
theorem test_bf16_ends : fpAdd 7 0x7F7F 0x7F7F = 0x7F80 ∧ fpAdd 7 1 1 = 2 ∧ fpAdd 7 0xFF80 0x7F80 = 0x7FC0 := by decide
theorem test_fp32_results : fpAdd 23 0x00800000 0x80000001 = 0x007FFFFF ∧ fpAdd 23 0x3F800000 0xBF800000 = 0 ∧
    fpAdd 23 0x80000000 0x80000000 = 0x80000000 ∧ fpAdd 23 0x7F800001 0x3F800000 = 0x7FC00000 := by decide
theorem test_int_sums : accumElem 2 0x7FFFFFFF 1 = 0x80000000 ∧ accumElem 3 0xFFFFFFFFFFFFFFFF 2 = 1 := by decide

/-- The message of the misdirected write of "Streams, ordering and the end-to-end check". -/
theorem test_e2e_message : e2eMessage 0x081234500 0x0041 [] = [0x00, 0x45, 0x23, 0x81, 0x00, 0x41, 0x00] := by decide

/-- The check word of the region 0 shipped, R601 and R713. -/
theorem test_region0_seal : shippedFuses.checks 0 (fun i => shippedFuses.norm i) = true := by decide +kernel

/-- The set and the tag of the example address in the row cache, "Decanter row cache". -/
theorem test_set_of_example : lineSet 1 14 37282 = 90 ∧ 37282 / 128 = 291 := by decide

/-- The first header word and the MGT units of the SET_WINDOW of "Management commands and register rules": PLEN 32, SIZE 100. -/
theorem test_window_packet : (leBytes 4 0x0020003A) = ((ownPacket 0x3A (List.replicate 32 0)).bytes.take 4) ∧
    mgtReqCost hdr + 9 = 11 := by decide +kernel

/-- The marginal factory bit of "Fuse array and cellar book": PORT_DISABLE whose bit 27 has weakened at the strict reference only is
MARGINAL and is used, and region 0 stays good. -/
def marginal : FuseArray := shippedFuses.put 5 ⟨0xFFFF0000, 0xF7FF0000, 0xFFFF0000, 0xF7FF0000⟩
theorem test_marginal_word : marginal.marginalIn 0 = [5] ∧ marginal.norm 5 = 0xFFFF0000 := by decide +kernel

/-- REINFORCE pulses that one bit. -/
theorem test_reinforce_bit : weakBits (marginal.get {} 5) = [27] := by decide +kernel

/-- The example digest of FIPS 180-4, of "abc": R634 names SHA-256. -/
theorem test_sha256_example : sha256 [0x61, 0x62, 0x63] = 0xba7816bf8f01cfea414140de5dae2223b00361a396177a9cb410ff61f20015ad := by
  decide +kernel

/-! ### The step, the cells, the fuses -/

/-- A cell of the core dies. -/
def oneCell : State := { State.reset with mem := (Memory.write 0 [] 5 (7 : Byte)) }

theorem meets_StepRunsFrontCommand : State.reset.pending = [] := rfl
theorem meets_EveryCommandKeepsCells : oneCell.MemOk := Memory.wf_write _ _ _ _ rfl
theorem meets_StepKeepsCells : oneCell.MemOk ∧ step { oneCell with pending := [.pad 0] } = .next oneCell :=
  ⟨meets_EveryCommandKeepsCells, rfl⟩
theorem meets_StepNeverClearsFuse : step { State.reset with pending := [.pad 0] } = .next State.reset := rfl
theorem meets_CellsChangeOnlyBy : exec (.pad 0) oneCell = .next oneCell ∧ (∀ k p, Instr.pad 0 ≠ .retryEntryRetire k p) ∧
    Instr.pad 0 ≠ .pwrgdFall ∧ (∀ n, Instr.pad 0 ≠ .resetNFall n) ∧ Instr.pad 0 ≠ .shutdownGraceEnd ∧ Instr.pad 0 ≠ .railOutOfRange :=
  ⟨rfl, nofun, nofun, nofun, nofun, nofun⟩
theorem meets_NonVolatileChangesOnlyBy : exec (.pad 0) oneCell = .next oneCell ∧ (∀ a b, Instr.pad 0 ≠ .fusePulseEnd a b) ∧
    (∀ r, Instr.pad 0 ≠ .nvmRecordWriteEnd r) ∧ oneCell.chip.fus.cmd = none ∧ oneCell.chip.nvm.cur = none :=
  ⟨rfl, nofun, nofun, rfl, rfl⟩

/-! ### Reset and boot -/

/-- The keeper out of reset with RESET_N low. -/
def held : Boot := { pwrgd := true, settled := true, step := 2 }

theorem meets_KeeperReachesStepThree :
    State.reset.chip.boot.pwrgd = false ∧
    (held.pwrgd = true ∧ held.resetN = false ∧ held.settled = true ∧ (st { boot := held }).chip.thm.shut = .none) ∧
    (let b : Boot := { pwrgd := true, resetN := true, step := 1 }
     b.pwrgd = true ∧ b.settled = false ∧ (st { boot := b }).chip.thm.shut = .none) := by decide
theorem meets_ResetsLoseEverythingVolatile : (booted.pwrgd = true ∧ State.reset.chip.boot.pwrgd = false ∧ booted.resetN = true) ∧
    (50 ≤ 1000 ∧ decide (1000 < 1000) = false) ∧
    (50 ≤ 999 ∧ decide (999 < 1000) = true ∧ (Config.shortPulse 0 = true ∨ Config.shortPulse 0 = false)) ∧ 49 < 50 ∧
    (up.thm.shut ≠ .grace ∧ up.fus.cmd = none ∧ up.nvm.cur = none) :=
  ⟨by decide, by decide, ⟨by decide, by decide, by cases Config.shortPulse 0 <;> simp⟩, by decide, by decide⟩
theorem meets_PllLockReadsFusesAndStraps : ({ boot := inStep 3 } : Chip).inStep 3 = true ∧ shippedFuses.bootRead.itemOk = true := by
  decide +kernel
theorem meets_EarlyFailuresAndClockLoss :
    (let c : Chip := { boot := inStep 3 }
     c.inStep 3 = true ∧ (true && false) = false ∧ (c.inStep 3 || c.inStep 4) = true ∧ c.boot.pllA = true ∧ c.boot.pllB = true) ∧
    (let c : Chip := { boot := inStep 4 }
     (5 : Fin 264).val < 6 ∧ c.inStep 4 = true ∧ c.boot.results.has 5 = false ∧
     (let r : BistRun := ⟨0, 1, false, true, true, 0⟩
      r.signature.toNat = c.fus.eff.get 0 32 ∧ (r.count.toNat == c.fus.eff.get 0 33) = false) ∧
     ((⟨1, 0, false, true, true, 0⟩ : BistRun).signature.toNat == c.fus.eff.get 0 32) = false ∧
     testStep 5 = some 4 ∧ scanTest 5 = true) ∧
    (let c : Chip := { boot := inStep 6 }
     testStep 16 = some 6 ∧ c.inStep 6 = true ∧ scanTest 16 = true ∧ c.boot.results.has 16 = false) ∧
    (let c : Chip := { boot := inStep 5 }
     c.on = true ∧ 5 ≤ c.boot.step ∧ c.boot.pllA = true ∧ c.boot.pllB = true ∧ c.boot.refclkOk = true) := by decide +kernel

/-- READY with the secrets zeroised. -/
def zeroised : Chip := { up with fus := { zeroised := true } }

theorem meets_BootTestsRecordAndShadowsReload :
    (let c : Chip := { boot := inStep 6 }
     let r : BistRun := ⟨0, 0, false, true, true, 9⟩
     testStep 16 = some 6 ∧ c.inStep 6 = true ∧ c.boot.results.has 16 = false ∧ scanTest 16 = true ∧
     (r.signature.toNat = c.fus.eff.get 0 (22 + 2 * testType 16) ∧ r.count.toNat = c.fus.eff.get 0 (23 + 2 * testType 16)) ∧
     (r.bad = false ∧ r.range = true ∧ r.complete = true) ∧
     (⟨40, 40⟩ : CheckerRun).passes = true ∧ (∃ j ∈ stepTests 6, j ≠ 16 ∧ c.boot.results.has j = false)) ∧
    (testStep 9 = some 5 ∧ State.reset.book.loadReloc.isSome = true ∧ ∃ j ∈ stepTests 5, j ≠ 9) ∧
    (zeroised.on = true ∧ zeroised.fus.zeroised = true ∧ zeroised.inStep 9 = false ∧ zeroised.boot.field = none) ∧ zeroised.Calm :=
  ⟨⟨by decide +kernel, by decide +kernel, by decide +kernel, by decide, by decide +kernel, by decide, by decide,
    ⟨17, by decide +kernel, by decide, by decide⟩⟩, ⟨by decide, by decide +kernel, ⟨10, by decide +kernel, by decide⟩⟩, by decide +kernel, Chip.calm_of_test (by decide +kernel)⟩

/-- The map wait of boot step 10. -/
def mapWait : Chip := { boot := inStep 10, addr := { waiting := true } }

/-- Boot step 10, the map fixed. -/
def mapFixed : Chip := { boot := inStep 10, addr := { fixed := true } }

/-- The same with a link, and with one pseudo-channel fenced. -/
def linkedFixed : Chip := { mapFixed with ports := [(0, { open' with state := .activeWait })] }
def oneFenced : Chip := { mapFixed with chcs := [(5, { pcs := [(1, { state := .fenced })] })] }

theorem meets_MapServiceAndReady :
    (mapWait.inStep 10 = true ∧ mapWait.addr.waiting = true ∧ mapWait.live = true ∧ mapWait.addr.reqSet = false ∧ natBits 0x20 4 2 < 3) ∧
    (let c : Chip := { mapWait with addr := { reqSet := true } }
     c.addr.reqSet = true ∧ c.addr.waiting = false) ∧
    (mapFixed.inStep 10 = true ∧ mapFixed.addr.fixed = true ∧ (∀ k p, mapFixed.fenced k p = false) ∧ mapFixed.bwr.bypass = false ∧
      ∀ n, n < 32 → (mapFixed.port n).linkUp = false) ∧
    (linkedFixed.inStep 10 = true ∧ linkedFixed.addr.fixed = true ∧ linkedFixed.boot.xbrFail = false ∧
      (linkedFixed.port 0).linkUp = true ∧ (linkedFixed.port 0).bistFail = false ∧ linkedFixed.served 0 = true ∧ linkedFixed.sliceDead 0 = false) ∧
    (oneFenced.inStep 10 = true ∧ oneFenced.addr.fixed = true ∧ (∀ k p, oneFenced.fenced k p = true ↔ k = 5 ∧ p = 1) ∧
      oneFenced.addr.remap = [] ∧ oneFenced.sliceDead 5 = false) ∧
    (let c : Chip := { boot := inStep 11 }
     c.live = true ∧ c.inStep 11 = true ∧ c.boot.testMode = false) ∧ 0x17FFFFFFFF < 0x1800000000 ∧
    (2 < 3 ∧ 63 < 64 ∧ 1 < 2 ∧ 15 < 16 ∧ 49151 < 49152) :=
  ⟨by decide, by decide, ⟨rfl, rfl, fun _ _ => rfl, rfl, fun _ _ => rfl⟩, by decide +kernel,
   ⟨rfl, rfl, fun k p => ⟨fun h => by
      by_cases hk : k = 5
      · by_cases hp : p = 1
        · exact ⟨hk, hp⟩
        · subst hk; simp [oneFenced, Chip.fenced, Chip.pc, Chip.chc, Chc.pc, Tab.get, hp] at h
      · simp [oneFenced, Chip.fenced, Chip.pc, Chip.chc, Chc.pc, Tab.get, hk] at h, fun h => by obtain ⟨rfl, rfl⟩ := h; decide +kernel⟩,
    rfl, by decide +kernel⟩, by decide, by decide, by decide⟩

theorem meets_SidebandServes :
    (let b : Boot := { inSafe with portEn := 0x10, mgmtSel := 0 }
     let c : Chip := { boot := b }
     c.boot.pwrgd = true ∧ c.boot.resetN = true ∧ c.boot.st = .safe ∧ c.boot.pllA = true ∧ c.thm.shut ≠ .released ∧
     strapSelects c.boot.portEn c.boot.mgmtSel = true ∧ natBit (c.fus.eff.get 0 5) c.boot.mgmtSel = false) ∧
    (let c := withPort open'
     c.live = true ∧ (c.port 0).enabled = true ∧ (c.port 0).sbUp = true) := by decide

/-! ### Links -/

/-- An admitted request of the header `h`. -/
def req (op : Op) (h : ReqHdr) (phase : Phase) : Req :=
  { op := op, hdr := h, payload := [64], phase := phase, cls := 0, e2eOut := false, poly := 0, rspCost := 2, parts := [] }
/-- Port 0 with a waiting job. -/
def waiting : Chip := withPort { open' with reqs := [req .fill hdr .waitJob], jobWait := [0] }
/-- Port 0 in a link state, DOWN by PORT_LINK_CTL where it is down. -/
def linkAt (x : LinkState) (rate : Nat) : Chip := withPort { open' with state := x, reason := 3, rate := rate }
/-- Port 0 at step 3 of a retraining. -/
def resuming : Chip := withPort { open' with state := .retrain, resume := true }
/-- The same with a grant due; port 0 at step 2 with a clear of its counters that waits. -/
def resumingDue : Chip := withPort { open' with state := .retrain, resume := true, pendReq := 40 }
def clearWaits : Chip := withPort { open' with state := .mbTrain, clrPend := true }
/-- Port 0 with a forwarded clock, and a response that waits. -/
def clocked : Chip := withPort { open' with fwdOk := true, txq :=
  [{ op := .rd, hdr := hdr, status := .ok, arg := 0, data := [], e2e := false, trailer := 0, rspCost := 2, mgtCost := 0, ownsTag := false }] }
/-- Port 0 whose flit has been replayed four times in a row. -/
def replayed : Chip := withPort { open' with replays := 4 }
/-- Port 0 disabled by its register, boot in step 8. -/
def downEarly : Chip := { linkAt .down 2 with boot := inStep 8 }
/-- Boot step 9, port 0 at step 2 and port 1 up; READY, port 0 at step 2. -/
def training : Chip := withPort { open' with state := .mbTrain, granted := false }
def linking : Chip := { boot := inStep 9, ports := [(0, { open' with state := .mbTrain, granted := false }), (1, open')] }
/-- Port 0 with a written PORT_CFG that waits, AUTO_APPLY of its group as given. -/
def cfgWaits (auto : Nat) : Chip := { withPort { open' with cfg := ⟨0, 1, true⟩ } with mgt := { updAuto := auto } }
/-- Port 0 active and without its grants. -/
def ungranted : Chip := withPort { open' with granted := false }
/-- Port 0 with units to return. -/
def owing : Chip := withPort { open' with pendMgt := 9 }
/-- Port 0 whose host holds no unit. -/
def penniless : Chip := withPort { open' with heldReq := 0, heldMgt := 0 }

theorem openPort_calm : (withPort open').Calm := Chip.calm_of_test (by decide +kernel)

theorem meets_LinkBringUpSteps :
    (∀ x, (linkAt x 2).live = true ∧ ((linkAt x 2).port 0).enabled = true ∧ ((linkAt x 2).port 0).state = x ∧
      ((linkAt x 2).port 0).reqs = [] ∧ (linkAt x 2).Calm) ∧
    ((linkAt .down 2).port 0).mayRestart = true ∧ 9 ≤ (linkAt .down 2).boot.step ∧ 2 ≤ ((linkAt .mbTrain 2).port 0).rate ∧
    ((linkAt .mbTrain 1).live = true ∧ ((linkAt .mbTrain 1).port 0).enabled = true ∧ ((linkAt .mbTrain 1).port 0).state = .mbTrain ∧
      ((linkAt .mbTrain 1).port 0).rate < 2) ∧ (linkAt .mbTrain 1).Calm ∧
    (∀ c ∈ [resuming, resumingDue], (c.live = true ∧ (c.port 0).enabled = true ∧ (c.port 0).state = .retrain ∧ (c.port 0).resume = true ∧
      c.boot.st = .ready ∧ c.boot.testMode = false) ∧ c.Calm) ∧
    ((resumingDue.port 0).granted = true ∧ 32 ≤ (resumingDue.port 0).pendReq ∧ (resumingDue.port 0).slots.opens 8 = true ∧
      (resuming.port 0).pendReq < 32 ∧ (resuming.port 0).pendRsp < 32 ∧ (resuming.port 0).pendMgt < 32) ∧
    (clearWaits.live = true ∧ (clearWaits.port 0).enabled = true ∧ (clearWaits.port 0).state = .mbTrain ∧ (clearWaits.port 0).clrPend = true) ∧
    clearWaits.Calm :=
  ⟨fun x => ⟨rfl, rfl, rfl, rfl, Chip.calm_of_test (by cases x <;> decide +kernel)⟩, by decide +kernel, by decide +kernel, by decide +kernel, by decide +kernel,
   Chip.calm_of_test (by decide +kernel), fun c hc => by
     have h : (c.live = true ∧ (c.port 0).enabled = true ∧ (c.port 0).state = .retrain ∧ (c.port 0).resume = true ∧ c.boot.st = .ready ∧
       c.boot.testMode = false) ∧ c.calmTest = true := by revert c; decide +kernel
     exact ⟨h.1, Chip.calm_of_test h.2⟩, by decide +kernel, by decide +kernel, Chip.calm_of_test (by decide +kernel)⟩

/-- A job of port 0 under TAG 5, released and at work. -/
def job : JobCtx :=
  { port := 0, tag := 5, kind := .fill, cls := 0, noalloc := false, dst := 0, src := 0, len := 4096, pattern := 0, crcPoly := 0, crc := 0
    wins := up.windowSet, noted := true, released := true }
/-- Port 0 with that job on press 5. -/
def jobbing : Chip :=
  { withPort { open' with reqs := [req .fill { hdr with tag := 5 } .active] } with presses := [(5, { ctxs := [(0, job)] })] }

theorem meets_LinkDownCauses : (clocked.live = true ∧ (clocked.port 0).canFall = true ∧ (clocked.port 0).fwdOk = true) ∧
    (∀ r ∈ (clocked.port 0).reqs, isJob r.op = false) ∧ clocked.Calm ∧
    ((waiting.live = true ∧ (waiting.port 0).canFall = true) ∧ req .fill hdr .waitJob ∈ (waiting.port 0).reqs ∧
      waiting.jobOf 0 (req .fill hdr .waitJob).tagN = none ∧ (req .fill hdr .waitJob).phase ≠ .staged) ∧ waiting.Calm ∧
    (let r := req .fill { hdr with tag := 5 } .active
     jobbing.live = true ∧ (jobbing.port 0).canFall = true ∧ (jobbing.port 0).reqs = [r] ∧ isJob r.op = true ∧ (jobbing.port 0).txq = [] ∧
      jobbing.jobOf 0 r.tagN = some (5, 0, job) ∧ (jobbing.press 5).ctxs.look 0 = some job ∧ job.released = true ∧ job.ended = false) ∧
    jobbing.Calm :=
  ⟨by decide +kernel, by decide +kernel, Chip.calm_of_test (by decide +kernel), by decide +kernel, Chip.calm_of_test (by decide +kernel),
   by decide +kernel, Chip.calm_of_test (by decide +kernel)⟩

theorem meets_RetrainsAndRestarts :
    (replayed.live = true ∧ (replayed.port 0).linkUp = true ∧ (replayed.port 0).replayLim ≠ 0 ∧
      (replayed.port 0).replayLim ≤ (replayed.port 0).replays) ∧ replayed.Calm ∧
    ((linkAt .down 2).live = true ∧ ((linkAt .down 2).port 0).enabled = true ∧ ((linkAt .down 2).port 0).mayRestart = true ∧
      9 ≤ (linkAt .down 2).boot.step ∧ ((linkAt .down 2).port 0).state = .down ∧ ((linkAt .down 2).port 0).reason = 3) ∧
    (linkAt .down 2).Calm ∧
    ((downEarly.port 0).enabled = true ∧ (downEarly.port 0).state = .down ∧ (downEarly.port 0).reason = 3 ∧ downEarly.boot.step < 9 ∧
      downEarly.live = true) ∧ downEarly.Calm :=
  ⟨by decide +kernel, Chip.calm_of_test (by decide +kernel), by decide +kernel, Chip.calm_of_test (by decide +kernel), by decide +kernel,
   Chip.calm_of_test (by decide +kernel)⟩

theorem meets_LinkDeadlineEndsStepNine : (linking.live = true ∧ 9 ≤ linking.boot.step ∧ linking.boot.linkTimed = false ∧
      linking.inStep 9 = true ∧ (linking.port 0).training = true ∧ (linking.port 1).training = false) ∧
    (training.live = true ∧ 9 ≤ training.boot.step ∧ training.boot.linkTimed = false ∧ training.inStep 9 = false ∧
      (training.port 0).training = true) := by decide +kernel

theorem meets_FlitsCountAndApply : ∀ a, a = 0 ∨ a = 1 → (cfgWaits a).live = true ∧ ((cfgWaits a).port 0).linkUp = true ∧
    ((cfgWaits a).port 0).cfg.dirty = true ∧ (cfgWaits a).auto 0 = (a == 1) :=
  fun a h => by rcases h with rfl | rfl <;> decide +kernel

theorem meets_CreditsAreKept :
    (ungranted.live = true ∧ ungranted.boot.st = .ready ∧ ungranted.boot.testMode = false ∧ (ungranted.port 0).state = .active ∧
      (ungranted.port 0).granted = false ∧ (ungranted.port 0).reqs = [] ∧ (ungranted.port 0).streams = [] ∧
      (ungranted.port 0).linkUp = true) ∧ ungranted.Calm ∧
    (owing.live = true ∧ (owing.port 0).canSend = true ∧ owing.halted (fltHpa 0) = false ∧ (owing.port 0).pendMgt ≠ 0 ∧
      (owing.port 0).slots.opens 8 = true) ∧
    (asRequest (.rd 0 hdr {}) = some (0, .rd, hdr, [], 0, {}) ∧ asRequest (.mgmtCmd 0 hdr []) = some (0, .mgmtCmd, hdr, [], 0, {})) ∧
    (penniless.live = true ∧ (penniless.port 0).canSend = true ∧ (penniless.port 0).reqs = [] ∧ (penniless.port 0).txq = [] ∧
      (penniless.port 0).heldReq < (reqCost .rd hdr : Int) ∧ (penniless.port 0).heldMgt < (mgtReqCost hdr + 9 : Int)) ∧ penniless.Calm :=
  ⟨by decide +kernel, Chip.calm_of_test (by decide +kernel), by decide +kernel, ⟨rfl, rfl⟩, by decide +kernel, Chip.calm_of_test (by decide +kernel)⟩

/-! ### Requests -/

/-- `hdr` with ORDERED. -/
def ordHdr : ReqHdr := { hdr with ordered := true }
/-- `hdr` with E2E. -/
def e2eHdr : ReqHdr := { hdr with e2e := true }
/-- A header with another TAG. -/
def tagged (t : BitVec 10) (h : ReqHdr) : ReqHdr := { h with tag := t }
/-- A header of a P0 claim. -/
def p0Hdr : ReqHdr := { hdr with priv := 0 }
/-- Port 0 as `open'`. -/
def opened : Chip := withPort open'
/-- Port 0 that checks end to end. -/
def checking : Chip := withPort { open' with cfg := ⟨8, 8, false⟩ }
/-- Port 0 with an ORDERED read admitted under TAG 5, on stream 0 (whose next number is then 1). -/
def ordered1 : Chip := withPort { open' with reqs := [req .rd (tagged 5 ordHdr) .active], streams := [(0, { exp := 1 })] }
/-- `ordHdr` with the number that `ordered1` expects. -/
def ordHdr1 : ReqHdr := { ordHdr with seq := 1 }
/-- Port 0 with a FENCE held under TAG 5, on stream 0. -/
def fenced1 : Chip := withPort { open' with reqs := [req .fence (tagged 5 bare) .held] }
/-- Port 0 with one held read. -/
def heldRead : Chip := withPort { open' with reqs := [req .rd hdr .held] }

/-- A request that meets the conditions of `Chip.Open`, of `Chip.Admits`, as they can be computed. -/
theorem open_of {c : Chip} {n : Nat} {op : Op} {h : ReqHdr} (x : c.live = true ∧ (c.port n).canSend = true ∧
    (reqCost op h : Int) ≤ (c.port n).heldReq ∧ (c.port n).stuck = false ∧ (c.port n).rxq = []) : c.Open n op h :=
  ⟨x.1, x.2.1, x.2.2.1, x.2.2.2.1, x.2.2.2.2⟩
theorem admits_of {c : Chip} {n : Nat} {q : RxReq} (x : c.live = true ∧ (c.port n).canSend = true ∧
    (reqCost q.op q.hdr : Int) ≤ (c.port n).heldReq ∧ (c.port n).stuck = false ∧ (c.port n).rxq = [])
    (y : (c.port n).badOp q = none ∧ (hasTrailer q.op q.hdr && (c.port n).e2eEn) = false ∧ c.checkAccess n q = none ∧
      (c.port n).seqOk q = true ∧ rspCost q.op q.hdr ≤ (c.port n).rspFree) : c.Admits n q :=
  ⟨open_of x, y.1, fun a b => by simp [a, b] at y, y.2.2.1, y.2.2.2.1, y.2.2.2.2⟩
/-- Nothing holds a request of a port without admitted requests. -/
theorem notHeld_of {p : Port} (h : ReqHdr) (x : p.reqs = []) : NotHeld p h := fun q hq => absurd hq (by simp [x])

theorem opened_rd : opened.Admits 0 (rxOf .rd hdr [] 0 {}) := admits_of (by decide +kernel) (by decide +kernel)
theorem opened_notHeld (h : ReqHdr) : NotHeld (opened.port 0) h := notHeld_of h rfl

theorem meets_BadRequestsAnswerBadOp :
    (asRequest (.reservedOp 0 0x3E hdr) = some (0, .reserved 0x3E, hdr, [], 0, {}) ∧
      (opened.port 0).badOp (rxOf (.reserved 0x3E) hdr [] 0 {}) = some 1 ∧ opened.Open 0 (.reserved 0x3E) hdr ∧
      rspCost (.reserved 0x3E) hdr ≤ (opened.port 0).rspFree) ∧
    (asRequest (.mgmtCmd 0 bare []) = some (0, .mgmtCmd, bare, [], 0, {}) ∧
      (opened.port 0).badOp (rxOf .mgmtCmd bare [] 0 {}) = some 2 ∧ opened.live = true ∧ (opened.port 0).canSend = true ∧
      (mgtReqCost bare + 9 : Int) ≤ (opened.port 0).heldMgt) :=
  ⟨⟨rfl, by decide +kernel, open_of (by decide +kernel), by decide +kernel⟩,
   rfl, by decide +kernel, by decide +kernel, by decide +kernel, by decide +kernel⟩

/-- A level-1 claim on a port that is not a system port. -/
def claimHdr : ReqHdr := { hdr with priv := 1 }

theorem meets_ChecksAnswerInOrder :
    (asRequest (.wr 0 e2eHdr [] 0) = some (0, .wr, e2eHdr, [], 0, {}) ∧ checking.Open 0 .wr e2eHdr ∧
      (checking.port 0).badOp (rxOf .wr e2eHdr [] 0 {}) = none ∧ rspCost .wr e2eHdr ≤ (checking.port 0).rspFree ∧
      (hasTrailer .wr e2eHdr && (checking.port 0).e2eEn) = true ∧
      e2eGood (checking.port 0).e2ePoly (rxOf .wr e2eHdr [] 0 {}) = false) ∧
    (asRequest (.rd 0 claimHdr {}) = some (0, .rd, claimHdr, [], 0, {}) ∧ opened.Open 0 .rd claimHdr ∧
      (opened.port 0).badOp (rxOf .rd claimHdr [] 0 {}) = none ∧ rspCost .rd claimHdr ≤ (opened.port 0).rspFree ∧
      (hasTrailer .rd claimHdr && (opened.port 0).e2eEn) = false ∧
      opened.checkAccess 0 (rxOf .rd claimHdr [] 0 {}) = some (.denied, 1)) ∧
    (asRequest (.rd 0 ordHdr1 {}) = some (0, .rd, ordHdr1, [], 0, {}) ∧ opened.Open 0 .rd ordHdr1 ∧
      (opened.port 0).badOp (rxOf .rd ordHdr1 [] 0 {}) = none ∧ rspCost .rd ordHdr1 ≤ (opened.port 0).rspFree ∧
      (hasTrailer .rd ordHdr1 && (opened.port 0).e2eEn) = false ∧
      opened.checkAccess 0 (rxOf .rd ordHdr1 [] 0 {}) = none ∧ (opened.port 0).seqOk (rxOf .rd ordHdr1 [] 0 {}) = false) ∧
    (asRequest (.mgmtCmd 0 claimHdr []) = some (0, .mgmtCmd, claimHdr, [], 0, {}) ∧ opened.live = true ∧ (opened.port 0).canSend = true ∧
      (opened.port 0).badOp (rxOf .mgmtCmd claimHdr [] 0 {}) = none ∧ (mgtReqCost claimHdr + 9 : Int) ≤ (opened.port 0).heldMgt ∧
      opened.checkAccess 0 (rxOf .mgmtCmd claimHdr [] 0 {}) = some (.denied, 6)) := by
  refine ⟨⟨rfl, open_of ?_, ?_, ?_, ?_⟩, ⟨rfl, open_of ?_, ?_, ?_, ?_⟩, ⟨rfl, open_of ?_, ?_, ?_, ?_, ?_⟩, rfl, ?_⟩ <;> decide +kernel

/-- A line with block 0 of row 0 valid. -/
def line : Line := { p := 0, b := 0, r := 0, age := 0, hits := 0, valid := 1, dirty := 0, data := [] }
/-- Slice 0 as given; the row of address 0 under rescue; a PROMPT read of it. -/
def withSlice (x : Slice) : Chip := { opened with slices := [(0, x)] }
def rowInRescue (p : Port) : Chip := { withPort p with chcs := [(0, { pcs := [(0, { state := .rescue, rescueStep := 1 })] })] }
def promptHdr : ReqHdr := { hdr with prompt := true }
def prompting : Chip := withSlice { lines := [(0, line)] }
/-- Slice 0 has met a fatal condition. -/
def sliceStill : Flt := { evs := [(fltDct 0, { fatal := true })] }
def promptStill : Chip := { prompting with flt := sliceStill }
/-- The one part of a read of address 0. -/
def part0 (c : Chip) (h : ReqHdr) : List SliceReq :=
  partsOf c.addr.mode c.windowSet 0 .rd h (rxOf .rd h [] 0 {}).payload (c.port 0).cls

theorem meets_DataRequestsGoToSlices :
    (asRequest (.rd 0 hdr {}) = some (0, .rd, hdr, [], 0, {}) ∧ isData .rd = true ∧ opened.Admits 0 (rxOf .rd hdr [] 0 {}) ∧
      NotHeld (opened.port 0) hdr) ∧
    ((rowInRescue open').Admits 0 (rxOf .rd hdr [] 0 {}) ∧ NotHeld ((rowInRescue open').port 0) hdr ∧
      ((rowInRescue open').offerCheck (part0 (rowInRescue open') hdr)).isSome = true) ∧
    (opened.offerCheck (part0 opened hdr) = none ∧ hdr.prompt = false) ∧
    (opened.Admits 0 (rxOf .rd promptHdr [] 0 {}) ∧ opened.offerCheck (part0 opened promptHdr) = none ∧ promptHdr.prompt = true ∧
      (part0 opened promptHdr).map (fun q => (q.row, q.blocks)) = [(⟨0, 0, 0, 0⟩, [⟨0, 0, 0, 0⟩])] ∧
      (opened.slice 0).promptHit ⟨0, 0, 0, 0⟩ 0 = none) ∧
    (prompting.Admits 0 (rxOf .rd promptHdr [] 0 {}) ∧ NotHeld (prompting.port 0) promptHdr ∧
      prompting.offerCheck (part0 prompting promptHdr) = none ∧
      (part0 prompting promptHdr).map (fun q => (q.row, q.blocks)) = [(⟨0, 0, 0, 0⟩, [⟨0, 0, 0, 0⟩])] ∧
      (prompting.slice 0).promptHit ⟨0, 0, 0, 0⟩ 0 = some (0, 0) ∧ ((prompting.slice 0).promptLane 0 []).1 = true ∧
      prompting.overBudget (prompting.port 0).cls = false ∧ (prompting.slice 0).promptEn = true ∧ (prompting.slice 0).mode = .normal ∧
      prompting.served (bankIndex ⟨0, 0, 0, 0⟩) = true ∧ prompting.halted (fltDct 0) = false) ∧
    (promptStill.Admits 0 (rxOf .rd promptHdr [] 0 {}) ∧ NotHeld (promptStill.port 0) promptHdr ∧
      promptStill.offerCheck (part0 promptStill promptHdr) = none ∧
      (part0 promptStill promptHdr).map (fun q => (q.row, q.blocks)) = [(⟨0, 0, 0, 0⟩, [⟨0, 0, 0, 0⟩])] ∧
      promptStill.halted (fltDct 0) = true) := by
  refine ⟨⟨rfl, rfl, opened_rd, opened_notHeld _⟩, ⟨admits_of ?_ ?_, notHeld_of _ rfl, ?_⟩, ?_, ⟨admits_of ?_ ?_, ?_⟩,
    ⟨admits_of ?_ ?_, notHeld_of _ rfl, ?_⟩, admits_of ?_ ?_, notHeld_of _ rfl, ?_⟩
    <;> decide +kernel

/-- Port 0 with one held read behind a FENCE. -/
def behindFence : Chip := withPort { open' with reqs := [req .fence (tagged 5 bare) .held, req .rd hdr .held] }

theorem meets_OrderHoldsAndReleases :
    (asRequest (.rd 0 ordHdr1 {}) = some (0, .rd, ordHdr1, [], 0, {}) ∧ isData .rd = true ∧
      ordered1.Admits 0 (rxOf .rd ordHdr1 [] 0 {}) ∧
      ∃ q ∈ (ordered1.port 0).reqs, isMember q.op = true ∧ q.streamN = ordHdr1.stream.toNat ∧
        (q.op = .fence ∨ ordHdr1.ordered = true ∧ q.hdr.ordered = true)) ∧
    (fenced1.Admits 0 (rxOf .rd hdr [] 0 {}) ∧
      ∃ q ∈ (fenced1.port 0).reqs, isMember q.op = true ∧ q.streamN = hdr.stream.toNat ∧
        (q.op = .fence ∨ hdr.ordered = true ∧ q.hdr.ordered = true)) ∧
    (behindFence.live = true ∧ (behindFence.port 0).rxq = [] ∧ (behindFence.port 0).req? 0 = some (req .rd hdr .held) ∧
      (behindFence.port 0).isHeld 0 = true) ∧
    (heldRead.live = true ∧ (heldRead.port 0).rxq = [] ∧ (heldRead.port 0).req? 0 = some (req .rd hdr .held) ∧
      (req .rd hdr .held).phase = .held ∧ isData .rd = true ∧ (heldRead.port 0).isHeld 0 = false ∧
      heldRead.offerCheck (req .rd hdr .held).parts = none) ∧
    (let c := rowInRescue { open' with reqs := [{ req .rd hdr .held with parts := part0 opened hdr }] }
     c.live = true ∧ (c.port 0).rxq = [] ∧ (c.port 0).req? 0 = some { req .rd hdr .held with parts := part0 opened hdr } ∧
       (c.port 0).isHeld 0 = false ∧ (c.offerCheck (part0 opened hdr)).isSome = true ∧ (req .rd hdr .held).stale = false) := by
  refine ⟨⟨rfl, rfl, admits_of ?_ ?_, ?_⟩, ⟨admits_of ?_ ?_, ?_⟩, ?_, ?_, ?_⟩ <;> decide +kernel

/-- Port 0 with one FENCE, and with one behind a read. -/
def oneFence : Chip := withPort { open' with reqs := [req .fence bare .held] }
def fenceBehind : Chip := withPort { open' with reqs := [{ req .rd (tagged 5 hdr) .active with fenced := true }, req .fence bare .held] }

theorem meets_FencesAndFlushes : opened.Admits 0 (rxOf .fence hdr [] 0 {}) ∧
    (fenceBehind.live = true ∧ (fenceBehind.port 0).rxq = [] ∧ (fenceBehind.port 0).req? 0 = some (req .fence bare .held) ∧
      (fenceBehind.port 0).isHeld 0 = true) ∧
    (oneFence.live = true ∧ (oneFence.port 0).rxq = [] ∧ (oneFence.port 0).req? 0 = some (req .fence bare .held) ∧
      (req .fence bare .held).phase = .held ∧ (oneFence.port 0).isHeld 0 = false ∧ (req .fence bare .held).stale = false) ∧
    opened.Admits 0 (rxOf .flush hdr [] 0 {}) ∧ NotHeld (opened.port 0) hdr := by
  refine ⟨admits_of ?_ ?_, ?_, ?_, admits_of ?_ ?_, opened_notHeld _⟩ <;> decide +kernel

/-- Port 0 with a job of TAG 5 that waits for a context. -/
def jobWaits : Chip := withPort { open' with reqs := [req .fill (tagged 5 hdr) .waitJob], jobWait := [5] }

theorem meets_PortAnswersQueriesAndPassesCommands : opened.Admits 0 (rxOf .nopCredit hdr [] 0 {}) ∧
    opened.Admits 0 (rxOf .jobStatus hdr [] 0 {}) ∧ jobJtag (rxOf .jobCancel hdr [5] 0 {}).payload = 5 ∧
    (jobbing.Admits 0 (rxOf .jobCancel hdr [5] 0 {}) ∧ 5 ≠ hdr.tag.toNat ∧
      (jobbing.jobState 0 5).1 = 3 ∧ jobbing.jobOf 0 5 = some (5, 0, job) ∧ (jobbing.press 5).ctxs.look 0 = some job) ∧
    (jobWaits.Admits 0 (rxOf .jobCancel hdr [5] 0 {}) ∧ (jobWaits.jobState 0 5).1 = 1 ∧
      (jobWaits.port 0).req? 5 = some (req .fill (tagged 5 hdr) .waitJob)) ∧
    (opened.Admits 0 (rxOf .jobCancel hdr [5] 0 {}) ∧ (opened.jobState 0 5).1 = 0) ∧
    (opened.live = true ∧ (opened.port 0).canSend = true ∧ (mgtReqCost p0Hdr + 9 : Int) ≤ (opened.port 0).heldMgt ∧
      (opened.port 0).badOp (rxOf .mgmtCmd p0Hdr [] 0 {}) = none ∧ opened.checkAccess 0 (rxOf .mgmtCmd p0Hdr [] 0 {}) = none) := by
  refine ⟨admits_of ?_ ?_, admits_of ?_ ?_, ?_, ⟨admits_of ?_ ?_, ?_⟩, ⟨admits_of ?_ ?_, ?_⟩, ⟨admits_of ?_ ?_, ?_⟩, ?_⟩ <;> decide +kernel

/-- The press of TAG 0: all its contexts taken by another port; another port's turn; in quiescing. And no press left. -/
def fullPress : Chip := { opened with presses := [(0, { ctxs := (below 64).map (fun i => (i, { job with port := 1, tag := i })) })] }
def othersTurn : Chip :=
  { up with ports := [(0, open'), (1, { open' with reqs := [req .fill hdr .waitJob], jobWait := [0] })], presses := [(0, { allocRr := 0 })] }
def noPress : Chip := { opened with presses := (below 16).map (fun i => (i, { mode := .failed })) }
def testedPress : Chip := { opened with presses := [(0, { mode := .quiescing })] }

theorem meets_JobsTakeContexts : (asRequest (.fill 0 hdr [64]) = some (0, .fill, hdr, [64], 0, {}) ∧ isJob .fill = true) ∧
    (∀ c ∈ [opened, fullPress, othersTurn, noPress, testedPress], c.Admits 0 (rxOf .fill hdr [64] 0 {}) ∧ NotHeld (c.port 0) hdr ∧
      (c.port 0).jobWait = [] ∧ c.jobOf 0 0 = none) ∧
    (opened.seekCtx 0 0 = .free 0 ∧ opened.winsCtx 0 0 = true) ∧ fullPress.seekCtx 0 0 = .wait ∧
    (othersTurn.seekCtx 0 0 = .free 0 ∧ othersTurn.winsCtx 0 0 = false) ∧ noPress.seekCtx 0 0 = .noPress ∧ testedPress.seekCtx 0 0 = .tested := by
  refine ⟨⟨rfl, rfl⟩, fun c hc => ⟨admits_of ?_ ?_, notHeld_of _ ?_, ?_⟩, ?_⟩
  all_goals (try (revert c)); decide +kernel

/-- A response that waits. -/
def tx : TxRsp :=
  { op := .rd, hdr := hdr, status := .ok, arg := 0, data := [], e2e := false, trailer := 0, rspCost := 2, mgtCost := 0, ownsTag := false }
/-- Port 0 with a staged read, a response to hand off and one that waits for space; with a staged read of an earlier session. -/
def sending : Chip := withPort { open' with reqs := [req .rd hdr .staged], txq := [tx], ansWait := some tx }
def staleDone : Chip := withPort { open' with reqs := [{ req .rd hdr .staged with stale := true }] }
/-- Port 0 with a response on the management channel. -/
def sendingMgt : Chip := withPort { open' with txMgt := [tx] }
/-- Port 0 that paces, its run's share of slots used up; port 0 with a grant due and no response. -/
def pacedOut : Chip := withPort { open' with txq := [tx], slots := { pace := 4, slot := 4, used := 4 } }
def grantDue : Chip := withPort { open' with pendRsp := 32 }
/-- Port 0 with a read behind a FENCE that waits for RSP space. -/
def spaceWaits : Chip := withPort { open' with reqs := [req .fence (tagged 5 bare) .held, req .rd hdr .waitRsp] }

theorem meets_ResponsesLeaveAndWaitersTakeSpace :
    (∀ c ∈ [sending, staleDone], c.live = true ∧ (c.port 0).rxq = []) ∧
    ((sending.port 0).req? 0 = some (req .rd hdr .staged) ∧ (staleDone.port 0).req? 0 = some { req .rd hdr .staged with stale := true } ∧
      (req .rd hdr .staged).phase = .staged ∧ (req .rd hdr .staged).stale = false ∧ breaks .rd (req .rd hdr .staged).status = false) ∧
    (∀ c ∈ [sending, sendingMgt, opened, pacedOut, grantDue], c.live = true ∧ (c.port 0).canSend = true ∧ c.halted (fltHpa 0) = false) ∧
    ((sending.port 0).txMgt = [] ∧ (sending.port 0).txq = [tx] ∧ (sendingMgt.port 0).txMgt = [tx] ∧
      (opened.port 0).txMgt = [] ∧ (opened.port 0).txq = []) ∧
    ((sending.port 0).mayHand tx = true ∧ (pacedOut.port 0).txMgt = [] ∧ (pacedOut.port 0).txq = [tx] ∧ (pacedOut.port 0).mayHand tx = false) ∧
    ((opened.port 0).pendReq < 32 ∧ (opened.port 0).pendRsp < 32 ∧ (opened.port 0).pendMgt < 32 ∧
      (grantDue.port 0).txMgt = [] ∧ (grantDue.port 0).txq = [] ∧ 32 ≤ (grantDue.port 0).pendRsp ∧ (grantDue.port 0).slots.opens 8 = true) ∧
    ((sending.port 0).ansWait = some tx ∧ tx.rspCost ≤ (sending.port 0).rspFree ∧ tx.op ≠ .mgmtCmd) ∧
    (spaceWaits.live = true ∧ (spaceWaits.port 0).ansWait = none ∧ (spaceWaits.port 0).rxq = [] ∧
      (spaceWaits.port 0).reqs.find? (fun q => q.phase == .waitRsp) = some (req .rd hdr .waitRsp) ∧
      (req .rd hdr .waitRsp).rspCost ≤ (spaceWaits.port 0).rspFree ∧ (spaceWaits.port 0).isHeld 0 = true ∧
      (req .rd hdr .waitRsp).gap = false ∧ isData .rd = true ∧ (spaceWaits.port 0).req? 0 = some (req .rd hdr .waitRsp)) ∧
    (waiting.live = true ∧ roundRobin 32 (waiting.press 0).allocRr (waiting.asking 0) = some 0 ∧ (waiting.port 0).jobWait = [0] ∧
      (waiting.port 0).req? 0 = some (req .fill hdr .waitJob) ∧ isJob .fill = true ∧ waiting.seekCtx 0 0 = .free 0 ∧
      (waiting.port 0).rxq = [] ∧ waiting.jobOf 0 0 = none) := by decide +kernel

/-- A part of a read, a granule read of press 0 and a walk, for slice 0. -/
def part : SliceReq := { port := 0, tag := 0, part := 0, kind := .rd, row := ⟨0, 0, 0, 0⟩, blocks := [⟨0, 0, 0, 0⟩], policy := 0, noalloc := false, cls := 0 }
def gran : GranOp := { press := 0, write := false, row := ⟨0, 0, 0, 0⟩, blocks := [⟨0, 0, 0, 0⟩], poison := [], policy := 0, noalloc := false, cls := 0 }
def walk : Walk := { port := 0, tag := 0, base := 0, last := 65536, inval := true, start := 0, left := 1 }
/-- One packet in the crossbar, and one of each kind. -/
def carrying (x : Packet) : Chip := { jobbing with xbr := { pkts := [x] } }
def packets : List Packet :=
  [⟨.req, 0, 32, .part part⟩, ⟨.req, 0, 32, .walk walk⟩, ⟨.req, 96, 32, .gran gran⟩, ⟨.req, 0, 101, .job 0⟩, ⟨.rsp, 32, 0, .partRsp 0 5 0 []⟩,
    ⟨.rsp, 32, 0, .walkRsp 0 5 .ok⟩, ⟨.rsp, 32, 96, .granData 0 []⟩, ⟨.rsp, 101, 0, .jobRsp 0 5 .ok 0 []⟩, ⟨.mgt, 112, 0, .mgmtRsp 0 5 .ok 0 []⟩,
    ⟨.mgt, 0, 112, .mgmtCmd 0 5 []⟩, ⟨.rsp, 32, 101, .notice 5 []⟩]

theorem meets_PacketsArrive : ∀ x ∈ packets, ((carrying x).live = true ∧ (carrying x).grantPkt x.vc x.dst = some (0, x)) ∧ (carrying x).Calm ∧
    ((carrying x).port 0).req? 5 = some (req .fill (tagged 5 hdr) .active) := fun x hx => by
  have h : ((carrying x).live = true ∧ (carrying x).grantPkt x.vc x.dst = some (0, x)) ∧ (carrying x).calmTest = true := by
    revert x; decide +kernel
  exact ⟨h.1, Chip.calm_of_test h.2, rfl⟩

/-! ### Slices -/

/-- Slice 0 with the line, a part of it in the normal lane and one in the conflict queue. -/
def hitting (r : SliceReq) : Chip := withSlice { lines := [(0, line)], inBuf := [(1, .op r)] }
def retrying (r : SliceReq) : Chip := withSlice { lines := [(0, line)], cq := [(0, .host r, .busy)] }
/-- The part as a write. -/
def wrPart : SliceReq := { part with kind := .wr }

theorem meets_SliceServesHits : ∀ r ∈ [part, wrPart],
    (∀ c ∈ [hitting r, retrying r], (c.live = true ∧ c.halted (fltDct 0) = false ∧ (c.slice 0).Resident r.row 0 line) ∧ c.Serves (.host r) ∧ c.Calm) ∧
    (r.row.c = 0 ∧ (r.blocks.map (·.ix)).Nodup ∧ (∀ a ∈ r.blocks, a.blk < 16 ∧ natBit line.valid a.blk = true) ∧
      (r.kind = .rd ∨ (OpSrc.host r).policy ((hitting r).slice 0) = 0 ∧ (r.blocks.map (·.blk)).Nodup)) ∧
    (((hitting r).slice 0).inBuf = [(1, .op r)] ∧ ((hitting r).slice 0).cq.length < 32 ∧ ((hitting r).slice 0).standsBehind 1 (.host r) = false) ∧
    ((retrying r).slice 0).cq[(0 : Fin 32).val]? = some (0, .host r, .busy) ∧ ((retrying r).slice 0).olderWaits 0 r.row = false := by
  intro r hr
  refine ⟨fun c hc => ?_, by revert r; decide +kernel⟩
  have h : (c.live = true ∧ c.halted (fltDct 0) = false ∧ (c.slice 0).lineOf r.row = some (0, line) ∧ (c.slice 0).lines.look 0 = some line) ∧
      (c.served (bankIndex r.row) = true ∧ c.rowWaits r.row = false ∧ (c.slice r.row.c).mustWait (.host r) = none) ∧ c.calmTest = true := by
    revert c; revert r; decide +kernel
  exact ⟨⟨h.1.1, h.1.2.1, h.1.2.2⟩, ⟨h.2.1.1, h.2.1.2.1, h.2.1.2.2⟩, Chip.calm_of_test h.2.2⟩

/-- An eviction buffer whose block is queued, and one whose block is not. -/
def evb : Evb := { p := 0, b := 0, r := 3, blocks := [(2, 0)], sent := [2] }
def evbWaits : Evb := { evb with sent := [] }
/-- The result of a fill of block 0 of row 0, and the read that waits for it. -/
def filled : RetRes := { origin := .fill 0, home := ⟨0, 0, 0, 0⟩, j := 0, status := .ok, data := 1 }
def blk0 : BlockAcc := ⟨0, 0, 0, 0⟩
/-- A part whose row is under rescue, one behind another of its block, one that finds its sector busy, or its line locked. -/
def partIn (x : Slice) : Chip := withSlice { x with inBuf := [(1, .op part)] }
def rescuedPart : Chip := { rowInRescue open' with slices := [(0, { inBuf := [(1, .op part)] })] }
def orderedPart : Chip := partIn { cq := [(0, .host part, .busy)] }
def busyPart : Chip := partIn { lines := [(0, line)], busy := [(0, 0, 0, 0)] }
/-- A walk that comes with no sweep under way, and with four. -/
def walkIn (ws : List Walk) : Chip := withSlice { inBuf := [(1, .walk walk)], walks := ws }
/-- One buffer in use. -/
def evicting (e : Evb) : Chip := withSlice { evbs := [(0, e)] }
/-- A fill on its return, with and without the read that waits for it. -/
def filling (ops : Tab SliceOp) : Chip := withSlice { lines := [(0, line)], ret := [filled], busy := [(0, 0, 0, 0)], ops := ops }
def readWaits : SliceOp := ⟨.host part, [⟨blk0, .fill, .ok, 0⟩]⟩
/-- A slice that has met a fatal condition, with all of these waiting. -/
def standsStill : Chip :=
  { withSlice { inBuf := [(1, .op part)], cq := [(0, .host part, .busy)], evbs := [(0, evb)], ret := [filled] } with flt := sliceStill }

theorem meets_SliceBuffersMove :
    (∀ c ∈ [rescuedPart, orderedPart, busyPart, walkIn [], walkIn [walk, walk, walk, walk], evicting evb, evicting evbWaits, filling [],
        filling [(0, readWaits)]], (c.live = true ∧ c.halted (fltDct 0) = false ∧ (c.slice 0).cq.length < 32) ∧ c.Calm) ∧
    (∀ c ∈ [rescuedPart, orderedPart, busyPart], (c.slice 0).inBuf = [(1, .op part)] ∧ part.row.c = 0) ∧
    (rescuedPart.served (bankIndex part.row) = true ∧ rescuedPart.rowWaits part.row = true) ∧
    (orderedPart.rowWaits part.row = false ∧ (orderedPart.slice 0).standsBehind 1 (.host part) = true) ∧
    (busyPart.rowWaits part.row = false ∧ (busyPart.slice 0).standsBehind 1 (.host part) = false ∧
      (busyPart.slice 0).mustWait (.host part) = some .busy) ∧
    (((walkIn []).slice 0).walks.length < 4 ∧ 4 ≤ ((walkIn [walk, walk, walk, walk]).slice 0).walks.length) ∧
    (((evicting evb).slice 0).evbs.look 0 = some evb ∧ (∀ b ∈ evb.blocks, b.1 ∈ evb.sent) ∧ ((evicting evb).slice 0).granWait = [] ∧
      ((evicting evbWaits).slice 0).evbs.look 0 = some evbWaits ∧ ∃ b ∈ evbWaits.blocks, b.1 ∉ evbWaits.sent) ∧
    (((filling []).slice 0).ret = [filled] ∧ filled.origin = .fill 0 ∧ filled.home.c = 0 ∧ ((filling []).slice 0).Resident filled.home 0 line ∧
      ((filling []).slice 0).ops = []) ∧
    (((filling [(0, readWaits)]).slice 0).Resident filled.home 0 line ∧ ((filling [(0, readWaits)]).slice 0).ops = [(0, readWaits)] ∧
      part.row = filled.home ∧ part.kind = .rd ∧ blk0.blk = filled.j ∧ filled.status.flagged = false) ∧
    (standsStill.live = true ∧ standsStill.halted (fltDct 0) = true ∧ standsStill.inStep 9 = false) ∧ standsStill.Calm := by
  refine ⟨fun c hc => ?_, ?_, ?_, ?_, ?_, ?_, ?_, ?_, ?_, ?_, Chip.calm_of_test (by decide +kernel)⟩
  · have h : (c.live = true ∧ c.halted (fltDct 0) = false ∧ (c.slice 0).cq.length < 32) ∧ c.calmTest = true := by revert c; decide +kernel
    exact ⟨h.1, Chip.calm_of_test h.2⟩
  all_goals (try unfold Slice.Resident); decide +kernel

/-- A granule operation in the lock lane. -/
def locking : Chip := withSlice { lockLane := [(0, gran)] }
/-- The racking context of die 0 asks for row 0. -/
def rackAsks : Chip := { opened with dies := [(0, { lockWait := some ⟨0, 0, 0, 0⟩ })] }
/-- Press 0 holds row 0. -/
def lockHeld : Chip := withSlice { locks := [(0, 0, 0, .press 0)] }
/-- Rackings of bank 0 and of a row of it whose row has been copied, with rows to come or none. -/
def rackJob : RackJob := { kind := .bank, bank := 0, row := 0, entry := 0, logged := true }
def lastRow : RackJob := { rackJob with row := 49151 }
def rowJob : RackJob := { rackJob with kind := .row }
def rowCopied (j : RackJob) : Chip :=
  { withSlice { locks := [(0, 0, 0, .rack 0)] } with dies := [(0, { cur := some j, rowOut := some ⟨0, j.row, 0⟩ })] }

theorem meets_LineLocksMove :
    (∀ c ∈ [locking, rackAsks, lockHeld, rowCopied rackJob, rowCopied lastRow, rowCopied rowJob],
      (c.live = true ∧ c.halted (fltDct 0) = false ∧ c.inStep 9 = false) ∧ c.Calm) ∧
    locking.grantable 0 = some (0, 0, gran) ∧ (rackAsks.grantable 0 = none ∧ rackAsks.rackGrantable 0 0 = some ⟨0, 0, 0, 0⟩) ∧
    ((∃ x ∈ (lockHeld.slice 0).locks, x.2.2.2 = .press 0) ∧ (lockHeld.slice 0).granQueued 0 = true) ∧
    (∀ j ∈ [rackJob, lastRow, rowJob], ((rowCopied j).die 0).cur = some j ∧ ((rowCopied j).die 0).rowOut = some ⟨0, j.row, 0⟩ ∧ j.bank / 32 = 0) ∧
    (rackJob.kind ≠ .row ∧ rackJob.row + 1 < 49152) ∧ (lastRow.kind = .bank ∧ 49152 ≤ lastRow.row + 1) ∧
    (rowJob.kind = .row ∧ rowJob.prev = none) := by
  refine ⟨fun c hc => ?_, by decide +kernel⟩
  have h : (c.live = true ∧ c.halted (fltDct 0) = false ∧ c.inStep 9 = false) ∧ c.calmTest = true := by revert c; decide +kernel
  exact ⟨h.1, Chip.calm_of_test h.2⟩

/-- A walk in progress over a dirty line of its window. -/
def walking : Chip := withSlice { lines := [(0, { line with dirty := 1 })], walks := [walk] }
/-- A FLUSH whose walks have ended. -/
def flushEnds : Chip := withPort { open' with reqs := [req .flush hdr .active] }
/-- QUIESCE of the arrays of slice 0. -/
def drains (x : Slice) : Chip := { withSlice x with boot := { booted with field := some { block := 48, phase := 1, q := 0, e := 64 } } }
def drainedSlice : Chip := withSlice { mode := .draining }
def drainedChannel : Chip := withSlice { mode := .draining, drainFor := .channel }

theorem meets_SweepsClean :
    (walking.live = true ∧ walking.halted (fltDct 0) = false ∧ (walking.slice 0).walks = [walk] ∧ (walking.slice 0).walkQ = [] ∧
      walking.walkHeld 0 = false ∧ (walking.slice 0).lines.look (walking.slice 0).walkPos = some { line with dirty := 1 } ∧
      walking.sweepStops 0 { line with dirty := 1 } = false ∧ natBit line.valid 0 = true ∧
      walk.covers walking.addr.mode 0 { line with dirty := 1 } 0 = true) ∧
    (flushEnds.live = true ∧ (flushEnds.port 0).req? 0 = some (req .flush hdr .active) ∧ (req .flush hdr .active).left = 0 ∧
      (req .flush hdr .active).stale = false ∧ breaks .flush (req .flush hdr .active).status = false ∧ flushEnds.flushQueued 0 0 = true) ∧
    ((drains {}).live = true ∧ (drains {}).drainOrder 0 = some .slice ∧ ((drains {}).slice 0).mode = .normal ∧
      (drains { mode := .bypassFailed }).drainOrder 0 = some .slice ∧ ((drains { mode := .bypassFailed }).slice 0).mode = .bypassFailed) ∧
    (∀ c ∈ [drainedSlice, drainedChannel], (c.live = true ∧ (c.slice 0).mode = .draining ∧ (c.slice 0).lines = [] ∧ (c.slice 0).evbs = [] ∧
      (c.slice 0).walks = [] ∧ (c.slice 0).walkQ = []) ∧ (c.onSlice 0 (fun x => { x with mode := .normal })).Calm) ∧
    (drainedSlice.slice 0).drainFor = .slice ∧ (drainedChannel.slice 0).drainFor = .channel ∧ drainedChannel.sliceEmpty 0 = true := by
  refine ⟨by decide +kernel, by decide +kernel, by decide +kernel, fun c hc => ⟨?_, Chip.calm_of_test ?_⟩, by decide +kernel⟩ <;> revert c <;>
    decide +kernel

/-! ### Pseudo-channels -/

/-- A controller 0 whose pseudo-channel 0 is as given. -/
def withChc (h : Chc) : Chip := { opened with chcs := [(0, h)] }
def withPc (x : Pc) : Chip := withChc { pcs := [(0, x)] }
/-- A read and a write of block 0 of row 0 of bank 0. -/
def rdCmd : Cmd := { write := false, loc := ⟨0, 0, 0, 0, 0⟩, home := ⟨0, 0, 0, 0⟩, data := 0, poison := false, origin := .loose, level := 1, age := 0 }
def wrCmd : Cmd := { rdCmd with write := true }
/-- A pseudo-channel in service. -/
def pc0 : Pc := { state := .normal }
/-- An access in the command FIFO, with writes queued; an access in a queue, with the bank open at a row or closed. -/
def fifoWith (m : Cmd) (wq : List Cmd) : Chip := withPc { pc0 with fifo := [m], wq := wq }
def queueWith (rq wq : List Cmd) (rows : Tab (Nat × Nat)) : Chip := withPc { pc0 with rq := rq, wq := wq, openRows := rows }
/-- A write of the next block; a pending change of settings. -/
def otherWr : Cmd := { wrCmd with loc := ⟨0, 0, 0, 0, 1⟩ }
def changing : Chip := withPc { pc0 with wmode := true, changes := [⟨[], [(0x80, 3)]⟩] }

/-- A pending read of a mode register; a bank closed in the ACT_GAP of a throttled die, its other bank open. -/
def modeRead : Chip := withPc { pc0 with mrrs := [0x41] }
def gapRuns : Chip :=
  { queueWith [rdCmd] [] [] with
    thm := { zones := [(0, { step := 1, cfg := 0x083E1010 })] }, chcs := [(0, { pcs := [(0, { pc0 with rq := [rdCmd], actAt := some 0 })] })] }

theorem meets_QueuesAndIssue :
    (∀ c ∈ [fifoWith wrCmd [], fifoWith wrCmd [wrCmd], fifoWith rdCmd [], fifoWith rdCmd [wrCmd], fifoWith wrCmd (List.replicate 32 otherWr)],
      (c.live = true ∧ (c.pc 0 0).mayTake = true ∧ (c.pc 0 0).fifo ≠ [] ∧ (c.pc 0 0).bursts.length < 16) ∧ c.Calm) ∧
    (let full : Chip := withPc { pc0 with fifo := [rdCmd], wq := [wrCmd], bursts := List.replicate 16 ⟨rdCmd, 0, 0, false, false⟩ }
     full.live = true ∧ (full.pc 0 0).mayTake = true ∧ 16 ≤ (full.pc 0 0).bursts.length ∧ full.calmTest = true) ∧
    (modeRead.live = true ∧ (modeRead.pc 0 0).mayIssue = true ∧ (modeRead.pick 0 0 []).2 = .mrr ∧ (modeRead.pc 0 0).mrrs = [0x41]) ∧
    (gapRuns.live = true ∧ (gapRuns.pc 0 0).mayIssue = true ∧ gapRuns.actHeld 0 0 = true ∧ (gapRuns.pick 0 0 (below 16)).2 = .none) ∧
    (∀ w ∈ List.replicate 32 otherWr, w.loc ≠ wrCmd.loc) ∧
    (∀ c ∈ [queueWith [] [] [], changing, queueWith [rdCmd] [] [], queueWith [rdCmd] [] [(0, 7, 0)], queueWith [rdCmd] [] [(0, 0, 0)],
        queueWith [] [wrCmd] [(0, 0, 0)], queueWith [] [] [(0, 7, 0)]], (c.live = true ∧ (c.pc 0 0).mayIssue = true ∧ (c.chc 0).held = false ∧
      (c.pc 0 0).script = [] ∧ (c.pc 0 0).alert = false ∧ (c.chc 0).retry.length < 64)) ∧
    ((queueWith [] [] []).pick 0 0 []).2 = .none ∧ ((changing.pick 0 0 []).2 = .mrw ∧ (changing.pc 0 0).mrws = [(0x80, 3)]) ∧
    (∀ rows ∈ ([[], [(0, 7, 0)], [(0, 0, 0)]] : List (Tab (Nat × Nat))),
      ((queueWith [rdCmd] [] rows).pick 0 0 []).2 = .cmd ⟨false, 0, rdCmd⟩ ∧ ((queueWith [rdCmd] [] rows).pc 0 0).openRows = rows) ∧
    ((queueWith [] [wrCmd] [(0, 0, 0)]).pick 0 0 []).2 = .cmd ⟨true, 0, wrCmd⟩ ∧
    (((queueWith [] [] [(0, 7, 0)]).pc 0 0).openRows.look 0 = some (7, 0) ∧ ((queueWith [] [] [(0, 7, 0)]).chc 0).idleClose ≠ 0xFF ∧
      (queueWith [] [] [(0, 7, 0)]).groupStays 0 0 0 = false) := by
  refine ⟨fun c hc => ?_, by decide +kernel⟩
  have h : (c.live = true ∧ (c.pc 0 0).mayTake = true ∧ (c.pc 0 0).fifo ≠ [] ∧ (c.pc 0 0).bursts.length < 16) ∧ c.calmTest = true := by
    revert c; decide +kernel
  exact ⟨h.1, Chip.calm_of_test h.2⟩

/-- Entries of the retry buffer: a write, a read, a precharge; a block on its way to the decoder for a fill, an operation's read, and a
queued write; a read with the return FIFO full. -/
def sentWr : RetryEnt := { p := 0, cmd := .wr 0 0, access := some wrCmd, data := 5, check := 6 }
def sentRd : RetryEnt := { p := 0, cmd := .rd 0 0, access := some rdCmd, data := 0, check := 0 }
def sentPre : RetryEnt := { p := 0, cmd := .pre 0, access := none, data := 0, check := 0 }
def retiring (e : RetryEnt) (bs : List Burst) : Chip := withChc { pcs := [(0, { pc0 with bursts := bs })], retry := [e] }
def burst (o : Origin) (f : Bool) : Burst := ⟨{ rdCmd with origin := o }, 0, 0, f, false⟩
/-- The other commands of the core die, and one of them in a command run. -/
def otherCmds : List DramCmd := [.act 0 5 0, .pre 0, .prea, .refab, .clrAlert, .mrw 0x80 3, .mrr 0x41]
def sent (m : DramCmd) : RetryEnt := { p := 0, cmd := m, access := none, data := 0, check := 0 }
def capturing (m : DramCmd) : Chip := withChc { pcs := [(0, { pc0 with state := .training })], retry := [sent m], trnBusy := true, runCtl := 0x2000 }

theorem meets_CellsAreWrittenAndRead : (st (retiring sentWr [])).MemOk ∧
    (∀ c ∈ [retiring sentWr [], retiring sentRd [], retiring sentRd (List.replicate 16 (burst .loose false)), retiring sentPre [],
        retiring sentPre [burst (.fill 0) false], retiring sentPre [burst (.opRead 0 1 2) true]], c.live = true ∧ c.Calm) ∧
    (∀ e ∈ [sentWr, sentRd, sentPre], ((retiring e []).chc 0).firstRetry 0 = some (0, e)) ∧
    (sentWr.access = some wrCmd ∧ sentWr.cmd = .wr 0 0 ∧ sentRd.access = some rdCmd ∧ sentRd.cmd = .rd 0 0) ∧
    (((retiring sentRd []).pc 0 0).bursts.length < 16 ∧
      16 ≤ ((retiring sentRd (List.replicate 16 (burst .loose false))).pc 0 0).bursts.length) ∧
    (∀ m ∈ otherCmds, ((retiring (sent m) []).chc 0).firstRetry 0 = some (0, sent m) ∧ (retiring (sent m) []).calmTest = true ∧
      ((retiring (sent m) []).chc 0).capture 0 = false ∧ ∀ b < 16, ∀ j < 16, m ≠ .wr b j ∧ m ≠ .rd b j) ∧
    (∀ m ∈ [DramCmd.act 0 5 0, .pre 0, .prea, .refab, .clrAlert], ((capturing m).chc 0).firstRetry 0 = some (0, sent m) ∧
      ((capturing m).chc 0).capture 0 = true ∧ (capturing m).calmTest = true) ∧
    (31 < 32 ∧ 3 < 4 ∧ 0 < 65535 ∧ 65535 < 65536) := by
  refine ⟨rfl, fun c hc => ?_, ?_, by decide +kernel, by decide +kernel, by decide +kernel, by decide +kernel, by decide⟩
  · have h : c.live = true ∧ c.calmTest = true := by revert c; decide +kernel
    exact ⟨h.1, Chip.calm_of_test h.2⟩
  · simp only [List.mem_cons, List.not_mem_nil, or_false]; rintro e (rfl | rfl | rfl) <;> rfl

/-- Pseudo-channels that may be refreshed: one that owes, one with an urgent refresh, the last before a band, one that pays; those whose
refresh ends, with a payment to go on or none; those whose payment ends. -/
def refPc : Pc := { pc0 with timerOn := true, owed := 1 }
def urgPc (b : Option Nat) : Pc := { pc0 with timerOn := true, urgent := 1, bandPend := b }
def payPc : Pc := { pc0 with timerOn := true, paying := true, payLeft := 1 }
def donePc : Pc := { pc0 with timerOn := true, inRef := true }
def goesOnPc : Pc := { payPc with inRef := true }
def paidPc (b : Option Nat) : Pc := { pc0 with timerOn := true, paying := true, bandPend := b }
/-- Zone 0 has reached band 1; or a fault holds the stack. -/
def hotter (x : Pc) : Chip := { withPc x with thm := { zones := [(0, { band := 1 })] } }
def faulted : Chip := { withPc pc0 with flt := { fault := true } }

theorem meets_RefreshKeepsPace :
    (∀ c ∈ [withPc refPc, withPc (urgPc none), withPc (urgPc (some 1)), withPc payPc, withPc donePc, withPc goesOnPc, withPc (paidPc none),
        withPc (paidPc (some 1)), hotter pc0, hotter payPc, faulted], (c.on = true ∧ (c.chc 0).retains 0 = false ∧ (c.chc 0).retry.length < 64 ∧
      c.auto (chcGroup 0) = false) ∧ c.Calm) ∧
    (faulted.flt.fault = true ∧ (withPc refPc).flt.fault = false) ∧
    (∀ x ∈ [refPc, urgPc none, urgPc (some 1), payPc, { goesOnPc with inRef := false }], x.mayRefresh = true) ∧
    (refPc.paying = false ∧ refPc.urgent = 0 ∧ refPc.owed ≠ 0 ∧ refPc.rq = [] ∧ refPc.wq = []) ∧
    ((urgPc none).paying = false ∧ (urgPc none).urgent ≠ 0 ∧ (urgPc none).ppmPend = false ∧ (urgPc none).bandPend = none ∧
      (urgPc (some 1)).bandPend = some 1 ∧ (urgPc (some 1)).urgent = 1) ∧ (payPc.paying = true ∧ payPc.payLeft ≠ 0) ∧
    (donePc.inRef = true ∧ donePc.paying = false) ∧ (goesOnPc.inRef = true ∧ goesOnPc.paying = true ∧ goesOnPc.payLeft ≠ 0) ∧
    ((paidPc (some 1)).paying = true ∧ (paidPc (some 1)).payLeft = 0 ∧ (paidPc (some 1)).inRef = false ∧ (paidPc (some 1)).ppmPend = false ∧
      (paidPc (some 1)).urgent = 0 ∧ (paidPc none).bandPend = none) ∧
    (((hotter pc0).pc 0 0).state ≠ .fenced ∧ ((hotter pc0).pc 0 0).band ≠ ((hotter pc0).zone (physDie (hotter pc0).dieRole 0)).band) := by
  refine ⟨fun c hc => ?_, by decide +kernel⟩
  have h : (c.on = true ∧ (c.chc 0).retains 0 = false ∧ (c.chc 0).retry.length < 64 ∧ c.auto (chcGroup 0) = false) ∧ c.calmTest = true := by
    revert c; decide +kernel
  exact ⟨h.1, Chip.calm_of_test h.2⟩

/-- Episodes of ALERT, in service and in training; replays that end; both pseudo-channels held for retraining. -/
def alerted (replay : Bool) (n : Nat) : Pc := { pc0 with replaying := replay, fails := n }
def heldBoth : Chip := withChc { pcs := [(0, { state := .retrainHold }), (1, { state := .retrainHold })] }
/-- A cycle with NOP on both buses, one parity bit wrong. -/
def badWord : Reception := ⟨0, 0, 0, true, 0, 0, false, none⟩

theorem meets_AlertsEscalate :
    (∀ c ∈ [withPc (alerted false 0), withPc (alerted true 0), withPc (alerted true 3), withPc (alerted true 4), withPc { state := .training },
        withPc { alerted true 0 with urgent := 1, timerOn := true }, heldBoth], (c.live = true ∧ ∀ p, p < 2 → (c.pc 0 p).cal = none) ∧ c.Calm) ∧
    (∀ x ∈ [alerted false 0, alerted true 0, alerted true 3, alerted true 4, { state := .training }], (withPc x).canAlert 0 0 badWord = true ∧
      ((withPc x).chc 0).test ≠ .underTest) ∧ ((withPc { state := .training }).pc 0 0).trains = true ∧
    (∀ x ∈ [alerted true 0, { alerted true 0 with urgent := 1, timerOn := true }], x.replaying = true ∧ x.alert = false ∧ x.script = [] ∧
      ((withPc x).chc 0).retry = [] ∧ x.paying = false) ∧
    Pc.mayRefresh { alerted true 0 with urgent := 1, timerOn := true, replaying := false, fails := 0 } = true ∧
    ((heldBoth.pc 0 0).state = .retrainHold ∧ (heldBoth.pc 0 1).state = .retrainHold ∧ (heldBoth.chc 0).trnBusy = false) ∧
    ((heldBoth.pc 0 0).nearCmdOk nearAll = true ∧ (∀ l, l < 38 → (heldBoth.pc 0 0).nearFails nearAll l = false) ∧ (heldBoth.pc 0 0).ruledOut = false ∧
      (heldBoth.pc 0 0).nearCmdOk nearNone = false) ∧
    Pc.ruledOut { lost8 := true } = true := by
  refine ⟨fun c hc => ?_, by decide +kernel⟩
  have h : (c.live = true ∧ ∀ p, p < 2 → (c.pc 0 p).cal = none) ∧ c.calmTest = true := by revert c; decide +kernel
  exact ⟨h.1, Chip.calm_of_test h.2⟩

/-- Boot step 8, two pseudo-channels in training; one in training under TRAIN. -/
def trains : Chip := { boot := inStep 8, chcs := [(0, { pcs := [(0, { state := .training }), (1, { state := .training })] })] }
def inTraining : Chip := withPc { state := .training }
/-- Rescues: in training with reserve banks, without any, with work under way, over, and ended by its command path. -/
def rescuing : Chip := withPc { state := .rescue, rescueStep := 1 }
def noReserve : Chip := { rescuing with addr := { remap := (below 256).map (fun e => (e, { valid := true, bank := 2047 })) } }
def atWork : Chip := withPc { state := .rescue, rescueStep := 1, rq := [rdCmd] }
def rescued : Chip := withPc { state := .rescue, rescueStep := 3 }
/-- A training under TRAIN, and a rescue's, in which a second ALERT has ruled the rate out. -/
def lostRate : Chip := withPc { state := .training, lost8 := true }
def ruledRescue : Chip := withPc { state := .rescue, rescueStep := 1, lost4 := true }
def lostPath : Chip := withPc { state := .rescue, rescueStep := 2, fails := 4 }

theorem allOk_finds : allOk.cmdOk = true ∧ ∀ l, l < 38 → allOk.sweepFails l = false ∧ allOk.confirmFails l = false := by decide +kernel

theorem meets_RescueAndFence :
    (∀ c ∈ [trains, inTraining, rescuing, noReserve, atWork, rescued, lostRate, ruledRescue], (c.live = true ∧ (c.chc 0).trnBusy = false) ∧ c.Calm) ∧
    (∀ c ∈ [trains, inTraining, rescuing, noReserve, atWork, rescued], (c.pc 0 0).ruledOut = false) ∧ (lostRate.pc 0 0).lost8 = true ∧
    (ruledRescue.pc 0 0).ruledOut = true ∧ noPath.cmdOk = false ∧
    (trains.inStep 8 = true ∧ (trains.pc 0 0).state = .training ∧ (trains.pc 0 1).state = .training) ∧
    (inTraining.inStep 8 = false ∧ (inTraining.pc 0 0).state = .training) ∧
    (∀ c ∈ [rescuing, noReserve, atWork], (c.pc 0 0).state = .rescue ∧ (c.pc 0 0).rescueStep = 1) ∧ atWork.underWay 0 0 = true ∧
    (∀ c ∈ [rescuing, noReserve], c.underWay 0 0 = false ∧ (c.slice 0).lines = [] ∧ c.sliceDead 0 = false ∧ c.bareBanks 0 0 ≠ []) ∧
    (rescuing.subEntries (rescuing.bareBanks 0 0) ≠ [] ∧ noReserve.subEntries (noReserve.bareBanks 0 0) = []) ∧
    rescued.rescueOver 0 0 = true ∧ (lostPath.live = true ∧ (lostPath.chc 0).trnBusy = false ∧ (lostPath.pc 0 0).fenceDue = true) ∧
    (lostPath.onPc 0 0 Pc.fence).Calm := by
  refine ⟨fun c hc => ?_, by decide +kernel, by decide +kernel, by decide +kernel, by decide +kernel, by decide +kernel, by decide +kernel, by decide +kernel, by decide +kernel, by decide +kernel,
    by decide +kernel, by decide +kernel, by decide +kernel, Chip.calm_of_test (by decide +kernel)⟩
  have h : (c.live = true ∧ (c.chc 0).trnBusy = false) ∧ c.calmTest = true := by revert c; decide +kernel
  exact ⟨h.1, Chip.calm_of_test h.2⟩

/-- A compare run in progress; a pass that has just begun, with windows ended before; one that may not go on, in a hold or stopped by one. -/
def running : Chip := withChc { pcs := [(0, { state := .training })], trnBusy := true }
def idlePass : Chip := withPc pc0
def passWith (wins : List (List (Nat × Nat × Nat × Nat))) : CalPass := { startUs := 0, rd := { wins := wins } }
def passing (x : CalPass) : Chip := withPc { pc0 with cal := some x }
def passStops : Chip := passing { startUs := 0, stopped := true }
/-- Windows of every lane: what the samplers count, of a density inside and outside 0.4 to 0.6; and a window as it is kept. -/
def windowOf (n : Nat) : List (Fin 38 × MonLane) := (List.finRange 38).map (fun l => (l, ⟨0, 0, n⟩))
def kept (d : Nat) : List (Nat × Nat × Nat × Nat) := (below 38).map (fun l => (l, d, 1000, 500000))
/-- Seven windows without a disagreement, and seven of which the two results do not agree. -/
def sevenAlike : CalPass := passWith (List.replicate 7 (kept 0))
def sevenApart : CalPass := passWith (kept 0 :: kept 999 :: List.replicate 5 (kept 0))
/-- The direction with the eighth window. -/
def eighth (x : CalPass) : CalDir :=
  { x.rd with wins := x.rd.wins ++ [((windowOf 500000).filter (fun y => pc0.lanesInUse.contains y.1.val)).map (fun y => (y.1.val, windowStats false y.2))] }

theorem meets_RunsAndPasses :
    (∀ c ∈ [inTraining, running, idlePass, passing {startUs := 0}, passing sevenAlike, passing sevenApart, passStops], c.live = true ∧ c.Calm) ∧
    (inTraining.frameHidden (.chc 0) = false ∧ (inTraining.chc 0).trnBusy = false ∧ (inTraining.pc 0 (natBits 1 4 1)).mayCompare = true ∧
      natBits 1 12 2 ≠ 3) ∧
    ((running.chc 0).trnBusy = true ∧ ((running.chc 0).pc (natBits (running.chc 0).runCtl 4 1)).alert = false ∧
      ∀ l, l < 38 → ((running.chc 0).pc (natBits (running.chc 0).runCtl 4 1)).mrs.has (0x50 + l) = false) ∧
    (idlePass.boot.st = .ready ∧ natBits (idlePass.chc 0).calCfg.live 0 8 ≠ 0 ∧ idlePass.calMayRun 0 0 = true ∧ (idlePass.pc 0 0).cal = none) ∧
    (∀ x ∈ [passWith [], sevenAlike, sevenApart], ((passing x).pc 0 0).cal = some x ∧ x.stopped = false ∧ (passing x).calMayRun 0 0 = true ∧
      x.rd.outcome = 0 ∧ x.wr.outcome = 0) ∧
    ((∀ l ∈ pc0.lanesInUse, ∃ y ∈ windowOf 500000, y.1.val = l) ∧ (∀ l ∈ pc0.lanesInUse, ∃ y ∈ windowOf 5, y.1.val = l) ∧
      (∀ y ∈ windowOf 500000, 4 * 2 ^ 20 ≤ 10 * (windowStats false y.2).2.2 ∧ 10 * (windowStats false y.2).2.2 ≤ 6 * 2 ^ 20) ∧
      (∃ y ∈ windowOf 5, y.1.val ∈ pc0.lanesInUse ∧ 10 * (windowStats false y.2).2.2 < 4 * 2 ^ 20)) ∧
    ((passWith []).rd.wins.length < 7 ∧ sevenAlike.rd.wins.length = 7 ∧ sevenApart.rd.wins.length = 7 ∧
      ((eighth sevenAlike).accepted sevenAlike pc0 0).isSome = true ∧ (eighth sevenApart).accepted sevenApart pc0 0 = none) ∧
    ((passStops.pc 0 0).cal = some { startUs := 0, stopped := true }) := by
  refine ⟨fun c hc => ?_, by decide +kernel⟩
  have h : c.live = true ∧ c.calmTest = true := by revert c; decide +kernel
  exact ⟨h.1, Chip.calm_of_test h.2⟩

/-- A scrub pass at the start of die 0, with its row held by a rescue or free; a racking queued, taken, and one that holds its row's lock,
from a place in service or from a fenced pseudo-channel; a block of its row on its way to the decoder. -/
def scrubbing : Chip := { opened with dies := [(0, { scrubOn := true })] }
def scrubStops : Chip := { rowInRescue open' with dies := [(0, { scrubOn := true })] }
def rackQueued : Chip := { opened with dies := [(0, { queue := [rackJob] })] }
def rackTaken : Chip := { opened with dies := [(0, { cur := some rackJob })] }
def rackLocked (j : RackJob) : Chip := { withSlice { locks := [(0, 0, 0, .rack 0)] } with dies := [(0, { cur := some j })] }
def rackReads : Chip := { withPc { pc0 with bursts := [burst (.rackRead 0) false] } with dies := [(0, { cur := some rackJob })] }
def rackPoison : RackJob := { rackJob with poison := true }

theorem meets_ScrubAndRack :
    (∀ c ∈ [scrubbing, scrubStops, rackQueued, rackTaken, rackLocked rackJob, rackLocked rackPoison, rackReads],
      c.live = true ∧ c.slices.all (fun e => e.2.out.isEmpty) = true ∧ (∀ n, n < 64 → c.halted (fltDct n) = false) ∧ c.dieWorks 0 = true ∧ c.pressOfDie 0 = some 0) ∧
    (∀ c ∈ [scrubbing, scrubStops], c.pressIdle 0 = true ∧ c.boot.st = .ready ∧ natBits (c.press 0).scrubCfg.live 0 8 ≠ 0 ∧ (c.die 0).scrubOn = true ∧
      (c.die 0).scrubRow < 49152 ∧ (c.die 0).scrubLc < 4 ∧ c.served (bankIndex ((c.die 0).scrubAt 0)) = true) ∧
    (scrubStops.scrubHeld 0 = true ∧ scrubbing.scrubHeld 0 = false ∧
      (scrubbing.onDie 0 (fun _ => { scrubbing.die 0 with scrubDue := true })).selectWork 0 = some (.scrub 0) ∧
      (scrubbing.pc (scrubbing.locate ((scrubbing.die 0).scrubAt 0) 0).k (scrubbing.locate ((scrubbing.die 0).scrubAt 0) 0).p).fifo = []) ∧
    (∀ c ∈ [rackQueued, rackTaken], c.pressIdle 0 = true ∧ (c.die 0).rowOut = none ∧ (c.die 0).lockWait = none ∧ c.selectWork 0 = some (.rack 0)) ∧
    ((rackTaken.die 0).cur = some rackJob ∧ rackTaken.rackLocked 0 rackJob = false ∧ (rackQueued.die 0).cur = none ∧
      (rackQueued.die 0).queue = [rackJob]) ∧
    (∀ j ∈ [rackJob, rackPoison], ((rackLocked j).die 0).cur = some j ∧ j.bank < 2048 ∧ ((rackLocked j).die 0).rowOut = none ∧
      ((rackLocked j).die 0).lockWait = none ∧ (rackLocked j).rackLocked 0 j = true ∧
      ((rackLocked j).pc ((rackLocked j).locate j.rowLoc 0).k ((rackLocked j).locate j.rowLoc 0).p).fifo = [] ∧
      ((rackLocked j).pc (j.target 0).k (j.target 0).p).fifo = []) ∧
    (rackJob.poison = false ∧ rackPoison.poison = true) ∧
    (rackReads.calmTest = true ∧ (rackReads.pc 0 0).bursts = [burst (.rackRead 0) false] ∧ (rackReads.die 0).cur = some rackJob ∧
      (rackReads.pc (rackJob.target 0).k (rackJob.target 0).p).fifo = []) := by decide +kernel

/-! ### Presses and classes -/

/-- Press 0 with a job at its boundary, over a pseudo-channel and a slice as given. -/
def boundary (j : JobCtx) (pc : Pc) (x : Slice) : Chip :=
  { opened with presses := [(0, { ctxs := [(0, j)] })], chcs := [(0, { pcs := [(0, pc)] })], slices := [(0, x)] }
def atBoundary : Chip := boundary job pc0 {}
def cancelled : Chip := boundary { job with cancel := true } pc0 {}
def overRescue : Chip := boundary job { state := .rescue } {}
def overFence : Chip := boundary job { state := .fenced } {}
def overTest : Chip := boundary job pc0 { mode := .channelTest }
/-- A job with sources whose press has no room for them. -/
def copyJob : JobCtx := { job with kind := .rangeCrc }
def noRoom : Chip := { opened with presses := [(0, { ctxs := [(0, copyJob)], rdbufFree := 0 })] }
def opsOf (c : Chip) (j : JobCtx) : List GranOp := (c.chunkOps 0 j).1 ++ (c.chunkOps 0 j).2
/-- A chunk whose granule data has come; one that is over, its job ended or not. -/
def chunk : Chunk := { ctx := 0, first := 0, len := 4096, todo := [], issued := false, reads := 1, buf := [], status := .ok, lost := 0 }
def chunkWith (k : Chunk) (j : JobCtx) : Chip := { opened with presses := [(0, { ctxs := [(0, j)], chunk := some k, arrive := [[⟨0, .ok, 1⟩]] })] }
def arriving : Chip := chunkWith chunk job
def chunkOver (j : JobCtx) : Chip := chunkWith { chunk with reads := 0 } j
def longJob : JobCtx := { job with len := 8192 }
/-- What a press selects at its boundary, its job packets taken. -/
def selects (c : Chip) : Option Work :=
  ((if c.auto 11 = true then c.onPress 0 Press.applyShadows else c).onPress 0 Press.takeJobs).selectWork 0
/-- A scrub row that is due. -/
def scrubDue : Chip := { opened with dies := [(0, { scrubOn := true, scrubDue := true })] }

theorem meets_PressRunsChunks :
    (∀ c ∈ [atBoundary, cancelled, overRescue, overFence, overTest, noRoom, scrubDue, rackQueued], c.live = true ∧ c.pressIdle 0 = true ∧
      (c.press 0).mode = .normal) ∧
    (∀ c ∈ [atBoundary, overRescue, overFence, overTest], selects c = some (.job 0) ∧ (c.press 0).ctxs.look 0 = some job) ∧
    (selects cancelled = some (.job 0) ∧ (cancelled.press 0).ctxs.look 0 = some { job with cancel := true } ∧
      selects noRoom = some (.job 0) ∧ (noRoom.press 0).ctxs.look 0 = some copyJob) ∧
    (∃ g ∈ opsOf overRescue job, overRescue.inRescue g.row = true) ∧
    ((∀ g ∈ opsOf overFence job, overFence.inRescue g.row = false) ∧ ∃ g ∈ opsOf overFence job, overFence.served (bankIndex g.row) = false) ∧
    ((∀ g ∈ opsOf overTest job, overTest.inRescue g.row = false ∧ overTest.served (bankIndex g.row) = true) ∧
      ∃ g ∈ opsOf overTest job, overTest.underTest g.row = true) ∧
    ((∀ g ∈ opsOf noRoom copyJob, noRoom.inRescue g.row = false ∧ noRoom.served (bankIndex g.row) = true ∧ noRoom.underTest g.row = false) ∧
      (noRoom.chunkOps 0 copyJob).1 ≠ [] ∧ (noRoom.press 0).rdbufFree < 16) ∧
    ((∀ g ∈ opsOf atBoundary job, atBoundary.inRescue g.row = false ∧ atBoundary.served (bankIndex g.row) = true ∧
      atBoundary.underTest g.row = false) ∧ (atBoundary.chunkOps 0 job).1 = []) ∧
    (selects scrubDue = some (.scrub 0) ∧ selects rackQueued = some (.rack 0) ∧
      (((rackQueued.die 0).cur.toList ++ (rackQueued.die 0).queue).head? = some rackJob)) ∧
    (arriving.live = true ∧ (arriving.press 0).chunk = some chunk ∧ (arriving.press 0).arrive = [[⟨0, .ok, 1⟩]]) ∧
    (∀ j ∈ [job, longJob], (chunkOver j).live = true ∧ ((chunkOver j).press 0).chunk = some { chunk with reads := 0 } ∧
      ((chunkOver j).press 0).ctxs.look 0 = some j) := by
  decide +kernel

/-- A read of port 0 in progress, AGED or not; a job whose packet is on its way; a granule operation on its way, AGED or not; a set of
guarantees committed; BWR bypassed; boot in step 9. -/
def reading (a : Bool) : Chip := withPort { open' with reqs := [{ req .rd hdr .active with aged := a }] }
def jobOnWay : Chip :=
  { withPort { open' with reqs := [req .fill (tagged 5 hdr) .active] } with presses := [(5, { ctxs := [(0, { job with noted := false })] })] }
def granuleOut (a : Bool) : Chip := carrying ⟨.req, 96, 32, .gran { gran with aged := a }⟩
def committed : Chip := { opened with bwr := { pendSet := some [1, 0, 0, 0, 0, 0, 0, 0] } }
def bwrOff : Chip := { opened with bwr := { bypass := true } }
def bootNine : Chip := { boot := inStep 9 }

theorem meets_ClassesAgeAndRenew :
    (∀ c ∈ [reading true, reading false, jobOnWay, granuleOut true, granuleOut false, atBoundary, opened, committed, bwrOff, bootNine], c.live = true) ∧
    (∀ a, ((reading a).port 0).req? 0 = some { req .rd hdr .active with aged := a } ∧ isJob .rd = false) ∧
    ((jobOnWay.port 0).req? 5 = some (req .fill (tagged 5 hdr) .active) ∧ isJob .fill = true ∧
      jobOnWay.jobOf 0 5 = some (5, 0, { job with noted := false }) ∧ (jobOnWay.press 5).ctxs.look 0 = some { job with noted := false } ∧
      job.released = true) ∧
    (∀ a, (granuleOut a).granOut 0 = some { gran with aged := a }) ∧
    ((atBoundary.press 0).ctxs.look 0 = some job ∧ job.released = true ∧ job.ended = false ∧ job.running = false) ∧
    (∀ c ∈ [opened, committed], 10 ≤ c.boot.step ∧ c.bwr.bypass = false) ∧ bwrOff.bwr.bypass = true ∧ bootNine.boot.step < 10 ∧
    (opened.bwr.pendSet = none ∧ committed.bwr.pendSet = some [1, 0, 0, 0, 0, 0, 0, 0]) := by decide +kernel

/-! ### Heat, supplies and faults -/

/-- A conversion under way in zone 0, not throttled, and throttled. -/
def converting : Chip := { opened with thm := { zones := [(0, { conv := true })] } }
def throttled : Chip := { opened with thm := { zones := [(0, { conv := true, step := 2 })] } }
/-- A shutdown released that waits for re-arm, with its sensors cold, or with one hot. -/
def rearming (t : Int) : Chip :=
  { boot := { booted with st := .rearmWait }, thm := { shut := .released, lowSeen := true, rearm := 95, sensors := [(4, { temp := t })] } }
/-- Readings of 20 and of 110 degrees. -/
def mild : Reading := ⟨80, 1, false⟩
def hot : Reading := ⟨440, 2, false⟩
/-- Boot step 3. -/
def early : Chip := { boot := inStep 3 }

theorem meets_ThermalFollowsReadings :
    ((opened.thmRuns = true ∧ converting.thmRuns = true ∧ (converting.zone 0).conv = true ∧ converting.auto 13 = false ∧
      [mild, mild].length = (zoneSensors 0).length ∧
      (∀ i ∈ zoneSensors 0, (converting.sensor i).broken = false ∧ (converting.sensor i).same < 63) ∧
      (∀ r ∈ [mild, hot], r.late = false ∧ outOfRange (Reading.celsius4 r.temp) = false) ∧
      maxTemp ([mild, mild].map (fun r => Reading.celsius4 r.temp)) < 4 * (converting.thm.lim.shut : Int) ∧
      4 * (converting.thm.lim.shut : Int) ≤ maxTemp ([mild, hot].map (fun r => Reading.celsius4 r.temp)) ∧ (converting.zone 0).step = 0) ∧
      opened.Calm ∧ converting.Calm) ∧
    ((throttled.thmRuns = true ∧ (throttled.zone 0).conv = true ∧ 2 ≤ (throttled.zone 0).step ∧
      maxTemp ([mild, mild].map (fun r => Reading.celsius4 r.temp)) < 4 * ((throttled.thm.lim.throt : Int) - 4) ∧
      4 * (converting.thm.lim.throt : Int) ≤ maxTemp ([mild, hot].map (fun r => Reading.celsius4 r.temp))) ∧ throttled.Calm) ∧
    ((rearming 80).thm.shut = .released ∧ ((rearming 80).sensor 0).same < 63 ∧ mild.late = false ∧
      outOfRange (Reading.celsius4 mild.temp) = false ∧ outOfRange (Reading.celsius4 0x3FF) = true ∧ ([mild] : List Reading)[1]? = none) ∧
    (rearming 80).Calm ∧
    ((early.boot.pwrgd = true ∧ 3 ≤ early.boot.step ∧ early.boot.step ≤ 4 ∧ early.thm.shut = .none ∧ early.boot.st = .booting ∧
      Reading.celsius4 mild.temp < 432 ∧ 432 ≤ Reading.celsius4 hot.temp ∧ converting.inStep 8 = false) ∧ early.Calm) := by
  refine ⟨⟨?_, Chip.calm_of_test ?_, Chip.calm_of_test ?_⟩, ⟨?_, Chip.calm_of_test ?_⟩, ?_, Chip.calm_of_test ?_, ?_, Chip.calm_of_test ?_⟩ <;>
    decide +kernel

/-- A shutdown whose grace is over. -/
def grace : Chip := { opened with thm := { shut := .grace } }
theorem meets_RailsLoseMemoryAndRearmHolds : grace.graceOver = true ∧ opened.boot.pwrgd = true ∧
    ((rearming 80).boot.pwrgd = true ∧ (rearming 80).thm.shut = .released ∧ (rearming 80).thm.lowSeen = true ∧ (rearming 80).boot.resetN = true ∧
      ∀ i, i < 52 → ((rearming 80).sensor i).broken = false → ((rearming 80).sensor i).temp < 4 * ((rearming 80).thm.rearm : Int)) ∧
    (4 < 52 ∧ ((rearming 400).sensor 4).broken = false ∧ 4 * ((rearming 400).thm.rearm : Int) ≤ ((rearming 400).sensor 4).temp) := by
  decide +kernel

/-- FLT at work over MGT's event register. -/
def event (cls : Nat) : Event := ⟨cls, 0x2C, 0⟩
def raised (e : Event) (caps : List Capture) : Chip :=
  { opened with flt := { on := true, aliveOn := true, evs := [(2, { pend := some e })], caps := caps, windows := [⟨2, [3], 40⟩] } }
def lineUp : Chip := raised (event 2) []
def captured (cls : Nat) (blank : Bool) : Chip := raised (event cls) [⟨2, 0, 0, blank, []⟩]
/-- The same, with a condition of the block that lasts and a record of it. -/
def lasting : Chip := { captured 2 false with flt := { (captured 2 false).flt with
  evs := [(2, { pend := some (event 2), levels := [event 1] })], recs := [(2, ⟨event 1, 0⟩)] } }
/-- The same, with a fatal condition that began behind the event. -/
def fatalBehind : Chip := { captured 1 false with flt := { (captured 1 false).flt with
  evs := [(2, { pend := some (event 1), levels := [event 3], owed := some (event 3), fatal := true })] } }

theorem meets_FaultsAreCollected :
    (lineUp.live = true ∧ lineUp.flt.on = true ∧ lineUp.lineHigh 2 = true ∧ 2 ∉ lineUp.flt.high ∧ lineUp.ignored 8 = false ∧ 8 ∉ lineUp.flt.high) ∧
    (∀ cls ∈ [1, 2, 3], ∀ blank, (captured cls blank).live = true ∧
      (captured cls blank).flt.caps.find? (fun x => x.blk == 2) = some ⟨2, 0, 0, blank, []⟩ ∧
      ((captured cls blank).flt.evs.get {} 2).pend = some (event cls)) ∧
    (lasting.live = true ∧ (lasting.flt.caps.find? (fun x => x.blk == 2)).isSome = true ∧ (lasting.flt.evs.get {} 2).pend = some (event 2) ∧
      (lasting.flt.evs.get {} 2).levels ≠ [] ∧ (lasting.flt.recs.look 2).isSome = true ∧ lasting.lineHigh 2 = true) ∧
    (fatalBehind.live = true ∧ (fatalBehind.flt.caps.find? (fun x => x.blk == 2)).isSome = true ∧
      (fatalBehind.flt.evs.get {} 2).pend = some (event 1) ∧ (fatalBehind.flt.evs.get {} 2).owed = some (event 3)) ∧
    lineUp.mgt.posted.has (frameNo .flt) = false ∧
    ((event 2).asksReset = false ∧ lineUp.flt.windows = [⟨2, [3], 40⟩] ∧ lineUp.flt.aliveOn = true) := by decide +kernel

/-! ### Management -/

/-- A port with a sideband, the management port. -/
def sideband (next : Nat) : Chip := { opened with mgt := { sbNext := next } }
/-- A command of the sideband unanswered. -/
def sidebandBusy : Chip := { opened with mgt := { sbBusy := true } }
/-- The I3C target as given. -/
def i3c (i : I3c) : Chip := { opened with mgt := { i3c := i } }
def jtag (busy : Bool) : Chip := { opened with mgt := { jtagBusy := busy } }

theorem meets_PacketsComeIn :
    (∀ k ∈ [0, 1], (sideband k).live = true ∧ (sideband k).sbPath 0 = true ∧ (sideband k).mgt.inReset = false ∧ (sideband k).mgt.sbBusy = false ∧
      (0 : BitVec 7).toNat = (sideband 0).mgt.sbNext ∧ (0 : BitVec 7).toNat ≠ (sideband 1).mgt.sbNext) ∧
    (∀ k ∈ [0, 1], (sideband k).Calm) ∧
    ((sidebandBusy.live = true ∧ sidebandBusy.sbPath 0 = true ∧ (0 : BitVec 7).toNat = 0 ∧ sidebandBusy.mgt.sbBusy = true) ∧ sidebandBusy.Calm) ∧
    (∀ c ∈ [i3c { addr := some 9 }, i3c {}], c.live = true ∧ c.i3cOn = true ∧ c.mgt.inReset = false) ∧ (i3c { addr := some 9 }).Calm ∧ (i3c {}).Calm ∧
    ((i3c { addr := some 9, reply := some [1] }).i3cOn = true ∧ (i3c { addr := some 9, reply := some [1] }).mgt.i3c.reply = some [1]) ∧
    ((jtag false).live = true ∧ (jtag false).mgt.jtagBusy = false ∧ (jtag true).live = true ∧ (jtag true).mgt.jtagBusy = true) := by
  refine ⟨?_, fun k hk => Chip.calm_of_test ?_, ⟨?_, Chip.calm_of_test ?_⟩, ?_, Chip.calm_of_test ?_, Chip.calm_of_test ?_, ?_, ?_⟩
  · decide +kernel
  · simp only [List.mem_cons, List.not_mem_nil, or_false] at hk
    rcases hk with rfl | rfl <;> decide +kernel
  all_goals decide +kernel

theorem meets_TargetAnswersAndAsks :
    (∀ i ∈ ([{}, { addr := some 9, ibiEn := true, ibi3 := some (1, 2) }, { addr := some 9, ibiEn := true, ibi2 := some (1, 2) },
        { addr := some 9, ibiEn := true, ibi1 := some (1, 2) }] : List I3c), (i3c i).i3cOn = true) ∧
    (opened.boot.pwrgd = true ∧ opened.thm.shut ≠ .released ∧ opened.live = true) := by decide +kernel

/-- A packet of Ilael's own. -/
def own (cmd : Nat) (ps : List Byte) : MgtPkt := ownPacket cmd ps
/-- A packet waits at the SBI on each path; MGT in its block reset with two commands queued, of a port and of the
sideband, and a long one besides, or with none of them. -/
def sbiWaits : Chip := { opened with mgt := { sbWait := [⟨1, 0, 0, 0, []⟩, ⟨2, 0, 0, 0, []⟩] } }
def resetting (q : List MgtPkt) (l : Option LongCmd) : Chip := { opened with mgt := { inReset := true, queue := q, long := l } }

theorem meets_MgtResetsAndAnswers :
    (sbiWaits.live = true ∧ (∃ k ∈ sbiWaits.mgt.sbWait, k.path = 1) ∧ ∃ k ∈ sbiWaits.mgt.sbWait, k.path = 2) ∧
    (opened.live = true ∧ opened.mgt.inReset = false) ∧
    (let q : List MgtPkt := [{ path := 0, port := 3, tag := 7, bytes := (own 0x38 []).bytes }, { path := 1, bytes := (own 0x12 []).bytes }]
     let l : LongCmd := ⟨0x28, own 0x28 [], .fuse⟩
     (∀ c ∈ [resetting q (some l), resetting q none, resetting [] (some l), resetting [] none], c.live = true ∧ c.calmTest = true ∧
       c.mgt.inReset = true) ∧
     ((q ++ [l.pkt]).filter (fun k => k.path == 1)).getLast? = some { path := 1, bytes := (own 0x12 []).bytes }) := by
  decide +kernel

/-- Ilael's own order of CMD `cmd` is taken by Ilael's commands, and by the register state machine, in a block without waiting packets. -/
theorem takes_own {c : Chip} {cmd : Nat} (ps : List Byte) (hl : c.live = true) (hr : c.mgt.inReset = false) (hq : c.mgt.queue = [])
    (hs : c.mgt.rsm = [] ∧ c.mgt.rsmLast = 4) (hc : (own cmd ps).cmd = cmd ∧ viaIs (.ilael ps) (own cmd ps) = true) :
    (isHwCmd cmd = false → c.Takes (.ilael ps) cmd (own cmd ps) { c with mgt := { c.mgt with queue := [] } }) ∧
    (isHwCmd cmd = true → c.Takes (.ilael ps) cmd (own cmd ps) { c with mgt := { c.mgt with rsm := [], rsmLast := 4 } }) := by
  have hw : ∀ d : Chip, d.claimWaits (own cmd ps) = false := fun d => rfl
  refine ⟨fun h => ⟨hl, ?_⟩, fun h => ⟨hl, ?_⟩⟩
  · simp only [Chip.take, Chip.orderOwn, h, hr, hq, Chip.takeIlael, takeFirst, List.any_nil, Bool.or_self, Bool.false_eq_true, if_false,
      List.nil_append, ← own.eq_def, hw, Bool.not_false, if_true, hc.1, hc.2, beq_self_eq_true, Bool.and_self]
  · have hn : roundRobin 5 4 ([own cmd ps].map (·.path)) = some 4 := rfl
    have hp : ((own cmd ps).path == 4) = true := rfl
    simp only [Chip.take, Chip.orderOwn, h, hs.1, Chip.takeHw, Chip.hwNext, hs.2, List.any_nil, Bool.false_eq_true, if_false, if_true,
      List.nil_append, ← own.eq_def, hw, Bool.not_false, List.filter_cons, List.filter_nil, hn, takeFirst, hp, hc.1, hc.2,
      beq_self_eq_true, Bool.and_self]
    rfl

/-- Such an order is granted, if its form is good and its interpreter ready. -/
theorem grants_own {c : Chip} {cmd : Nat} (ps : List Byte) (hl : c.live = true) (hr : c.mgt.inReset = false) (hq : c.mgt.queue = [])
    (hs : c.mgt.rsm = [] ∧ c.mgt.rsmLast = 4) (hc : (own cmd ps).cmd = cmd ∧ viaIs (.ilael ps) (own cmd ps) = true)
    (hf : (own cmd ps).formFault = none) (hi : (isHwCmd cmd || c.ilaelReady cmd) = true) :
    ∃ d, c.Grants (.ilael ps) cmd (own cmd ps) d 0 := by
  have hg : c.privilege (own cmd ps) = .granted 0 := by simp [Chip.privilege, own, ownPacket]
  cases h : isHwCmd cmd with
  | false => exact ⟨_, (takes_own ps hl hr hq hs hc).1 h, hf, hg, hi⟩
  | true => exact ⟨_, (takes_own ps hl hr hq hs hc).2 h, hf, hg, hi⟩

/-- A port's packet with a wrong P0 claim; READY with a long command running; boot step 6. -/
def claim : MgtPkt := { path := 0, bytes := (own 0x38 [92, 100, 108, 95]).bytes }
def claiming : Chip := { opened with mgt := { queue := [claim] } }
def busy : Chip := { opened with mgt := { long := some ⟨0x28, own 0x28 [], .fuse⟩ } }
def booting : Chip := { boot := inStep 6 }

theorem meets_CommandsAreChecked :
    (opened.Calm ∧ opened.Takes (.ilael [1, 0, 0, 0, 1, 0]) 0x01 (own 0x01 [1, 0, 0, 0, 1, 0]) { opened with mgt := { rsmLast := 4 } } ∧
      (own 0x01 [1, 0, 0, 0, 1, 0]).formFault = some (2, some 0)) ∧
    (claiming.Calm ∧ claiming.Takes (.inband 0) 0x38 claim opened ∧ claim.formFault = none ∧ claiming.privilege claim = .refused true) ∧
    (booting.Calm ∧ booting.Takes (.ilael [92, 100, 108, 95]) 0x38 (own 0x38 [92, 100, 108, 95]) booting ∧
      (own 0x38 [92, 100, 108, 95]).formFault = none ∧ booting.privilege (own 0x38 [92, 100, 108, 95]) = .granted 0 ∧ isHwCmd 0x38 = false ∧
      booting.ilaelReady 0x38 = false) ∧
    (busy.Calm ∧ (∃ d, busy.Grants (.ilael []) 0x12 (own 0x12 []) d 0) ∧ isLongCmd 0x12 = true ∧ busy.mgt.long.isSome = true) ∧
    (reservedCode (0 : Byte).toNat = true ∧ opened.take (.ilael []) 0 reservedCode = some (own 0 [], opened)) :=
  ⟨⟨openPort_calm, (takes_own _ (by decide +kernel) rfl rfl ⟨rfl, rfl⟩ (by decide +kernel)).2 rfl, by decide +kernel⟩,
   ⟨Chip.calm_of_test (by decide +kernel), ⟨by decide +kernel, by decide +kernel⟩, by decide +kernel, by decide +kernel⟩,
   ⟨Chip.calm_of_test (by decide +kernel), (takes_own _ (by decide +kernel) rfl rfl ⟨rfl, rfl⟩ (by decide +kernel)).1 rfl, by decide +kernel, by decide +kernel, rfl, by decide +kernel⟩,
   ⟨Chip.calm_of_test (by decide +kernel), grants_own _ (by decide +kernel) rfl rfl ⟨rfl, rfl⟩ (by decide +kernel) (by decide +kernel) (by decide +kernel), rfl, rfl⟩,
   rfl, by decide +kernel⟩

/-- READY with the cellar book open. -/
def bookOpen : Chip := { opened with nvm := { up := true } }

theorem bookOpen_calm : bookOpen.Calm := Chip.calm_of_test (by decide +kernel)

theorem meets_ReadingCommandsAnswer : opened.Calm ∧ opened.nvmOpen = false ∧ bookOpen.Calm ∧ bookOpen.nvmOpen = true ∧
    (target 0x9000 = some (.bst, 0) ∧ target 0xFFFFFC = none ∧ (own 0x01 [0, 0x90, 0, 0, 1, 0]).par 0 4 = 0x9000 ∧
      (own 0x01 [0xFC, 0xFF, 0xFF, 0, 1, 0]).par 0 4 = 0xFFFFFC ∧ (own 0x22 [4, 0, 0, 0, 0, 0, 0, 0]).par 0 1 < 5 ∧
      5 ≤ (own 0x22 [5, 0, 0, 0, 0, 0, 0, 0]).par 0 1) ∧
    ∀ x ∈ ([(0x01, [0, 0x90, 0, 0, 1, 0]), (0x01, [0xFC, 0xFF, 0xFF, 0, 1, 0]), (0x03, []), (0x3B, []), (0x2A, [0, 0, 1, 0]),
        (0x22, [4, 0, 0, 0, 0, 0, 0, 0]), (0x22, [5, 0, 0, 0, 0, 0, 0, 0]), (0x30, [9, 0, 0, 0, 0, 0, 0, 0])] : List (Nat × List Byte)),
      (∃ d, opened.Grants (.ilael x.2) x.1 (own x.1 x.2) d 0) ∧ ∃ d, bookOpen.Grants (.ilael x.2) x.1 (own x.1 x.2) d 0 := by
  refine ⟨openPort_calm, by decide +kernel, bookOpen_calm, by decide +kernel, by decide +kernel, fun x hx => ?_⟩
  have h : (own x.1 x.2).formFault = none ∧ (isHwCmd x.1 || opened.ilaelReady x.1) = true ∧ (isHwCmd x.1 || bookOpen.ilaelReady x.1) = true ∧
      ((own x.1 x.2).cmd = x.1 ∧ viaIs (.ilael x.2) (own x.1 x.2) = true) := by
    revert x; decide +kernel
  exact ⟨grants_own _ (by decide +kernel) rfl rfl ⟨rfl, rfl⟩ h.2.2.2 h.1 h.2.1, grants_own _ (by decide +kernel) rfl rfl ⟨rfl, rfl⟩ h.2.2.2 h.1 h.2.2.1⟩

/-- A posted write held; THM_LOCK set; the fused maxima of the part as shipped; what BWR can deliver. -/
def posted : Chip := { opened with mgt := { posted := [(9, ⟨0, 1⟩)] } }
def locked : Chip := { opened with thm := { lock := ⟨1, true⟩ } }
def fusedMax : Chip := { opened with thm := { fused := 0x5F6C64 } }
def delivers : Chip := { opened with bwr := { deliver := 100 } }
def noBwr : Chip := { opened with bwr := { bypass := true } }
/-- A test of channel 0 in its second step. -/
def hiddenTest : Chip := { opened with boot := { booted with field := some { block := 176, phase := 4, step := 1, q := 0, e := 64 } } }
/-- Parameters of SET_THERMAL as shipped, and of a set of guarantees of 50 and of 150 steps. -/
def shippedLimits : List Byte := [92, 100, 108, 95]
def guar (n : Byte) : List Byte := n :: List.replicate 15 0

theorem meets_SettingCommandsAct :
    (opened.Calm ∧ posted.Calm ∧ locked.Calm ∧ fusedMax.Calm ∧ delivers.Calm ∧ noBwr.Calm ∧ hiddenTest.Calm) ∧
    (target 0x9000 = some (.bst, 0) ∧ isPosted .bst = true ∧ opened.mgt.posted.has 9 = false ∧ posted.mgt.posted.has (frameNo .bst) = true ∧
      target 0x80208 = some (.xbr, 0x208) ∧ target 0xFFFFFC = none ∧ locked.thm.lock.v = 1 ∧ fusedMax.thm.lock.v ≠ 1 ∧
      limitsOk ⟨92, 100, 108, 95⟩ opened.thm.fused = false ∧ limitsOk ⟨92, 100, 108, 95⟩ fusedMax.thm.fused = true ∧ delivers.bwr.bypass = false ∧
      10 ≤ delivers.boot.step ∧ noBwr.bwr.bypass = true) ∧
    (target 0x100080 = some (.hpa 0, 0x080) ∧ isPosted (.hpa 0) = false ∧ rwMask (.hpa 0) 0x080 = some 0x7FF ∧ opened.inStep 9 = false ∧
      opened.frameHidden (.hpa 0) = false ∧ target 0x200000 = some (.chc 0, 0) ∧ isPosted (.chc 0) = false ∧
      hiddenTest.frameHidden (.chc 0) = true) ∧
    (posted.live = true ∧ posted.mgt.posted.look 9 = some ⟨0, 1⟩) ∧
    (∀ x ∈ ([(0x02, [0, 0x90, 0, 0, 1, 0, 0, 0]), (0x02, [8, 2, 8, 0, 1, 0, 0, 0]), (0x02, [0xFC, 0xFF, 0xFF, 0, 1, 0, 0, 0]),
        (0x02, [0x80, 0, 0x10, 0, 0xFF, 0xFF, 0, 0]), (0x02, [0, 0, 0x20, 0, 1, 0, 0, 0]), (0x3A, List.replicate 32 0), (0x38, shippedLimits), (0x39, guar 50), (0x39, guar 150)] : List (Nat × List Byte)),
      ∀ c ∈ [opened, posted, locked, fusedMax, delivers, noBwr, hiddenTest], ∃ d, c.Grants (.ilael x.2) x.1 (own x.1 x.2) d 0) := by
  refine ⟨⟨openPort_calm, Chip.calm_of_test ?_, Chip.calm_of_test ?_, Chip.calm_of_test ?_, Chip.calm_of_test ?_, Chip.calm_of_test ?_,
    Chip.calm_of_test ?_⟩, ?_, ?_, ?_, fun x hx c hc => ?_⟩
  iterate 9 decide +kernel
  have h : (own x.1 x.2).formFault = none ∧ ((own x.1 x.2).cmd = x.1 ∧ viaIs (.ilael x.2) (own x.1 x.2) = true) := by revert x; decide +kernel
  have h' : c.live = true ∧ c.mgt.inReset = false ∧ c.mgt.queue = [] ∧ (c.mgt.rsm = [] ∧ c.mgt.rsmLast = 4) ∧ c.boot.st = .ready := by
    revert c; decide +kernel
  exact grants_own _ h'.1 h'.2.1 h'.2.2.1 h'.2.2.2.1 h.2 h.1 (by simp [Chip.ilaelReady, h'.2.2.2.2])

/-- A channel 0 in service or held; the cellar book open and a CAL_STORE just ended; a slot just written. -/
def heldPc : Chip := withPc { state := .retrainHold }
def inService : Chip := withChc { pcs := [(0, { state := .normal }), (1, { state := .normal })] }
def calRecent : Chip := { opened with nvm := { up := true, calEnd := some 0 } }
def slotRecent : Chip := { opened with nvm := { up := true, recent := [(8, 0, 0)] } }

theorem meets_LongCommandsStart :
    (∀ c ∈ [opened, heldPc, inService, bookOpen, calRecent, slotRecent], c.calmTest = true ∧ c.mgt.long = none) ∧
    (∀ x ∈ ([(0x10, [0, 0, 3]), (0x11, [0, 0, 3]), (0x12, []), (0x31, 8 :: List.replicate 55 0), (0x31, 1 :: List.replicate 55 0)] : List (Nat × List Byte)),
      ∀ c ∈ [opened, heldPc, inService, bookOpen, calRecent, slotRecent], ∃ d, c.Grants (.ilael x.2) x.1 (own x.1 x.2) d 0) ∧
    ((∀ p, p < 2 → names 3 p = true → (inService.pc 0 p).state ≠ .retrainHold ∧ (inService.pc 0 p).state ≠ .rescue ∧ (inService.pc 0 p).state ≠ .fenced) ∧
      inService.boot.field = none ∧ (inService.chc 0).test = .normal ∧ (inService.chc 0).bistFail = false ∧ inService.testFailed 176 = false) ∧
    (∃ p, p < 2 ∧ names 3 p = true ∧ (heldPc.pc 0 p).state = .retrainHold) ∧
    ((∀ p, p < 2 → names 3 p = true → inService.calMayRun 0 p = true ∧ (inService.pc 0 p).cal = none) ∧ ∃ p, p < 2 ∧ names 3 p = true) ∧
    (opened.nvmOpen = false ∧ bookOpen.nvmOpen = true ∧ bookOpen.calTooSoon = false ∧ calRecent.nvmOpen = true ∧ calRecent.calTooSoon = true ∧
      bookOpen.slotRecent 8 0 = false ∧ slotRecent.nvmOpen = true ∧ slotRecent.slotRecent 8 0 = true ∧ (own 0x31 (8 :: List.replicate 55 0)).par 0 1 = 8 ∧ (own 0x31 (1 :: List.replicate 55 0)).par 0 1 = 1) := by
  refine ⟨by decide +kernel, fun x hx c hc => ?_, by decide +kernel, ⟨0, by decide +kernel⟩, ⟨by decide +kernel, 0, by decide +kernel⟩, by decide +kernel⟩
  have h : (own x.1 x.2).formFault = none ∧ ((own x.1 x.2).cmd = x.1 ∧ viaIs (.ilael x.2) (own x.1 x.2) = true) := by revert x; decide +kernel
  have h' : c.live = true ∧ c.mgt.inReset = false ∧ c.mgt.queue = [] ∧ (c.mgt.rsm = [] ∧ c.mgt.rsmLast = 4) ∧ c.boot.st = .ready := by
    revert c; decide +kernel
  exact grants_own _ h'.1 h'.2.1 h'.2.2.1 h'.2.2.2.1 h.2 h.1 (by simp [Chip.ilaelReady, h'.2.2.2.2])

/-- A field test of block `b` in a phase, with a long command. -/
def testing (b phase : Nat) (l : Option LongCmd) : Chip :=
  { opened with boot := { booted with field := some { block := b, phase := phase, q := 0, e := 64 } }, mgt := { long := l } }
/-- Its arrays drained. -/
def drained : Chip := { testing 48 1 (some ⟨0x19, own 0x19 [], .quiesce 48⟩) with slices := [(0, { mode := .bypassTest })] }
def arraysTest : Chip := testing 48 4 (some ⟨0x18, own 0x18 [], .bist 48⟩)
/-- A data channel at the third step of its test, its logic. -/
def logicTest : Chip := { opened with boot := { booted with field := some { block := 176, phase := 4, step := 2, q := 0, e := 64 } } }
/-- Press 0 quiesced, a job of it with a cancel that was recorded in the test. -/
def cancelKept : Chip :=
  { testing 248 2 none with presses := [(0, { mode := .underTest, ctxs := [(0, { job with cancel := true })] })] }

theorem meets_FieldTestsRun :
    (∀ c ∈ [opened, testing 48 2 none, testing 176 2 none, testing 176 3 none, testing 248 2 none, drained, arraysTest, logicTest, cancelKept], c.calmTest = true) ∧
    (∀ x ∈ ([(0x19, [48, 0, 0, 0, 64, 0, 0, 0]), (0x18, [48, 0]), (0x1A, [48, 0]), (0x18, [176, 0]), (0x1A, [176, 0]), (0x1A, [248, 0])] :
        List (Nat × List Byte)), fieldKind ((own x.1 x.2).par 0 2) ≠ none ∧
      ∀ c ∈ [opened, testing 48 2 none, testing 176 2 none, testing 248 2 none, cancelKept], c.mgt.long = none ∧ ∃ d, c.Grants (.ilael x.2) x.1 (own x.1 x.2) d 0) ∧
    (opened.targetHeld (.arrays 0) = false ∧ opened.targetFailed (.arrays 0) 48 = false ∧ opened.boot.field = none ∧
      opened.isQuiesced 48 = false ∧ (testing 48 2 none).isQuiesced 48 = true ∧ (testing 176 2 none).isQuiesced 176 = true ∧
      (testing 176 2 none).targetFailed (.data 0) 176 = false ∧ (testing 176 2 none).boot.saveRamFail = false ∧
      ((testing 176 2 none).chc 0).bistFail = false ∧ ((testing 248 2 none).press 0).mode ≠ .failed ∧ (testing 248 2 none).isQuiesced 248 = true) ∧
    (drained.live = true ∧ fieldKind 48 = some (.arrays 0) ∧ drained.quiesceWork (.arrays 0) = true ∧ (testing 176 3 none).live = true ∧
      fieldKind 176 = some (.data 0) ∧ arraysTest.live = true ∧ arraysTest.mgt.long = some ⟨0x18, own 0x18 [], .bist 48⟩ ∧
      drained.mgt.long = some ⟨0x19, own 0x19 [], .quiesce 48⟩ ∧ arraysTest.mgt.inReset = false ∧ logicTest.live = true ∧
      ∃ x, logicTest.boot.field = some x ∧ x.phase = 4 ∧ x.step = 2 ∧ x.res = 1 ∧ fieldKind x.block = some (.data 0)) ∧
    (cancelKept.isQuiesced 248 = true ∧ fieldKind 248 = some (.press 0) ∧
      (cancelKept.press 0).runnable.filter (fun e => e.2.cancel) = [(0, { job with cancel := true })] ∧
      (cancelKept.press 0).ctxs.look 0 = some { job with cancel := true }) ∧
    (FieldKind.scans (.data 0) = true ∧ (opened.chc 0).bistFail = false ∧ (opened.press 0).runnable = []) := by
  refine ⟨by decide +kernel, fun x hx => ?_, by decide +kernel, ⟨by decide +kernel, by decide +kernel, by decide +kernel, by decide +kernel,
    by decide +kernel, by decide +kernel, by decide +kernel, by decide +kernel, by decide +kernel, by decide +kernel, _, rfl, by decide +kernel⟩,
    by decide +kernel, by decide +kernel⟩
  have h : fieldKind ((own x.1 x.2).par 0 2) ≠ none ∧ (own x.1 x.2).formFault = none ∧ ((own x.1 x.2).cmd = x.1 ∧ viaIs (.ilael x.2) (own x.1 x.2) = true) := by revert x; decide +kernel
  refine ⟨h.1, fun c hc => ?_⟩
  have h' : c.mgt.long = none ∧ c.live = true ∧ c.mgt.inReset = false ∧ c.mgt.queue = [] ∧ (c.mgt.rsm = [] ∧ c.mgt.rsmLast = 4) ∧ c.boot.st = .ready := by
    revert c; decide +kernel
  exact ⟨h'.1, grants_own _ h'.2.1 h'.2.2.1 h'.2.2.2.1 h'.2.2.2.2.1 h.2.2 h.2.1 (by simp [Chip.ilaelReady, h'.2.2.2.2.2])⟩

/-- Bank 0 remapped; 64 rackings queued on its die; every row entry of bank 0, and every bank entry, taken. -/
def bankMoved : Chip := { bookOpen with addr := { remap := [(0, { valid := true, bank := 0 })] } }
def rackFull : Chip := { bookOpen with dies := [(0, { queue := List.replicate 64 rackJob })] }
def spent : Chip := { bookOpen with addr := {
  rowmap := (below 16).map (fun e => (e, { valid := true })), remap := (below 256).map (fun e => (e, { valid := true, bank := 2047 })) } }

theorem meets_RetirementsTakeEntries :
    (∀ c ∈ [opened, bookOpen, bankMoved, rackFull, spent], c.calmTest = true) ∧
    (∀ x ∈ ([(0x20, List.replicate 8 0), (0x21, [0, 0])] : List (Nat × List Byte)), ∀ c ∈ [opened, bookOpen, bankMoved, rackFull, spent],
      ∃ d, c.Grants (.ilael x.2) x.1 (own x.1 x.2) d 0) ∧
    (opened.nvmOpen = false ∧ bankMoved.nvmOpen = true ∧ bankMoved.notRetirable 0 = true) ∧
    (rackFull.nvmOpen = true ∧ rackFull.notRetirable 0 = false ∧ 64 ≤ (rackFull.die 0).pending) ∧
    (spent.nvmOpen = true ∧ spent.notRetirable 0 = false ∧ (spent.die 0).pending < 64 ∧ spent.freeRow 0 = none ∧ spent.packEntry = none) ∧
    (bookOpen.nvmOpen = true ∧ bookOpen.notRetirable 0 = false ∧ (bookOpen.die 0).pending < 64 ∧ (bookOpen.freeRow 0).isSome = true ∧
      bookOpen.packEntry.isSome = true) := by
  refine ⟨by decide +kernel, fun x hx c hc => ?_, by decide +kernel⟩
  have h : (own x.1 x.2).formFault = none ∧ ((own x.1 x.2).cmd = x.1 ∧ viaIs (.ilael x.2) (own x.1 x.2) = true) := by revert x; decide +kernel
  have h' : c.live = true ∧ c.mgt.inReset = false ∧ c.mgt.queue = [] ∧ (c.mgt.rsm = [] ∧ c.mgt.rsmLast = 4) ∧ c.boot.st = .ready := by
    revert c; decide +kernel
  exact grants_own _ h'.1 h'.2.1 h'.2.2.1 h'.2.2.2.1 h.2 h.1 (by simp [Chip.ilaelReady, h'.2.2.2.2])

/-- Fuse programming enabled with its supply; a pulse in progress, in its first phase, its second, and at the last bit. -/
def fusing : Chip := { opened with fus := { progEn := true, vprogOk := true } }
def pulsing (x : FuseCmd) : Chip :=
  { opened with fus := { progEn := true, vprogOk := true, cmd := some x }, mgt := { long := some ⟨0x28, own 0x28 [], .fuse⟩ } }
def fuse1 : FuseCmd := { word := 64, bits := [0] }
/-- REINFORCE with two weak bits, none pulsed yet. -/
def weak2 : FuseCmd := { word := 5, bits := [26, 27], reinforce := true, blind := [26, 27] }

theorem meets_FusesAreProgrammed :
    (∀ c ∈ [opened, fusing, pulsing fuse1, pulsing weak2], c.calmTest = true) ∧
    (∀ x ∈ ([(0x28, [64, 0, 0, 0, 1, 0, 0, 0]), (0x28, [64, 0, 0, 0, 0, 0, 0, 0]), (0x29, [0]), (0x29, [1])] : List (Nat × List Byte)),
      ∀ c ∈ [opened, fusing], c.mgt.long = none ∧ ∃ d, c.Grants (.ilael x.2) x.1 (own x.1 x.2) d 0) ∧
    (opened.programRefused 64 false = some 2 ∧ fusing.programRefused 64 false = none ∧ programBits (shippedFuses.get {} 64) 1 ≠ [] ∧
      programBits (shippedFuses.get {} 64) 0 = [] ∧ fusing.sealRefused shippedFuses 0 = some 4) ∧
    ((pulsing fuse1).live = true ∧ (pulsing fuse1).thm.shut = .none ∧ (pulsing fuse1).fus.cmd = some fuse1 ∧
      fuse1.next {} = .goesOn { fuse1 with phase := 1 } ∧
      ({ fuse1 with phase := 3 } : FuseCmd).next {} = .bitFails 0 ∧
      ({ fuse1 with phase := 1 } : FuseCmd).next ⟨1, 1, 1, 1⟩ = .ends { fuse1 with bits := [], pulsed := 1 } ∧
      ({ fuse1 with word := 126, sealing := true, phase := 1 } : FuseCmd).next ⟨1, 1, 1, 1⟩ =
        .ends { fuse1 with word := 126, sealing := true, bits := [], pulsed := 1 } ∧
      (pulsing fuse1).mgt.long = some ⟨0x28, own 0x28 [], .fuse⟩ ∧ (pulsing fuse1).fus.en = true ∧
      (pulsing fuse1).mgt.inReset = false ∧ fuse1.bit = some 0 ∧ fuse1.blind = [] ∧ fuse1.phase = 0 ∧ fuse1.bits.head? = some 0) ∧
    ((pulsing weak2).fus.cmd = some weak2 ∧ weak2.bit = some 26 ∧ weak2.blind = [26, 27] ∧ opened.fus.en = false) := by
  refine ⟨by decide +kernel, fun x hx c hc => ?_, by decide +kernel⟩
  have h : (own x.1 x.2).formFault = none ∧ ((own x.1 x.2).cmd = x.1 ∧ viaIs (.ilael x.2) (own x.1 x.2) = true) := by revert x; decide +kernel
  have h' : c.mgt.long = none ∧ c.live = true ∧ c.mgt.inReset = false ∧ c.mgt.queue = [] ∧ (c.mgt.rsm = [] ∧ c.mgt.rsmLast = 4) ∧ c.boot.st = .ready := by
    revert c; decide +kernel
  exact ⟨h'.1, grants_own _ h'.2.1 h'.2.2.1 h'.2.2.2.1 h'.2.2.2.2.1 h.2 h.1 (by simp [Chip.ilaelReady, h'.2.2.2.2.2])⟩

/-- A region that seals: its check word matches its contents. -/
def region1 : FuseArray := [(127, solidWord (crc32c (padBytes 248 [])))]
theorem meets_FusesAreProgrammed_seal : fusing.sealRefused region1 1 = none := by decide +kernel

/-! ### Cellar book, registers -/

/-- A journal's record and one of CAL_STORE on their way into the book. -/
def writing (r : NvmReq) : Chip := { opened with nvm := { up := true, cur := some { req := r } } }
def journalRec : NvmReq := { area := 4, slot := none, body := [] }
def thirdTry : Chip := { opened with nvm := { up := true, cur := some { req := journalRec, tries := 2 } } }
def calRec : NvmReq := { area := 7, slot := some 0, body := [], gen := 1, what := .calStore }

theorem meets_CellarBookIsWritten :
    (∀ r ∈ [journalRec, calRec], (writing r).on = true ∧ (writing r).nvm.cur = some { req := r } ∧ (writing r).thm.shut = .none ∧
      (writing r).calmTest = true ∧ (writing r).nvm.pop = none) ∧
    (thirdTry.on = true ∧ thirdTry.nvm.cur = some { req := journalRec, tries := 2 } ∧ thirdTry.thm.shut = .none ∧ thirdTry.calmTest = true ∧
      journalRec.area ≠ 0 ∧ thirdTry.nvm.reloc = []) ∧
    (isJournal journalRec.area = true ∧ journalRec.what = .nothing ∧ calRec.what = .calStore ∧ calRec.slot = some 0) ∧
    (bookOpen.live = true ∧ bookOpen.nvm.up = true ∧ bookOpen.nvm.failed = false ∧ bookOpen.thm.shut = .none ∧ bookOpen.auto 14 = false ∧
      ∀ d, d < 18 → (bookOpen.zone d).band < 3) ∧ bookOpen.baseMax.isSome = true := by decide +kernel

/-- WL fields written; test mode locked. -/
def written : Chip := { opened with thm := { lock := ⟨0, true⟩ }, fus := { progLock := ⟨0, true⟩ } }
def testLocked : Chip := { up with boot := { booted with testLock := ⟨1, true⟩ } }
/-- Controller 0 with CHC_CAL_SEL at a setting in force or at a stored point. -/
def selecting (v : Nat) (s : PcState) : Chip := withChc { pcs := [(0, { state := s })], calSel := v }

/-- The first event of FLT's log, complete. -/
def firstSeen : Chip := { opened with flt := { first := some ⟨event 2, 2, 0, 0, [], true⟩ } }

theorem meets_RegistersTakeWrites :
    (opened.live = true ∧ opened.inStep 9 = false ∧ resolve .xbr 0x208 = some 0x208 ∧ resolve .bwr 0 = some 0 ∧ resolve (.hpa 0) 0x080 = some 0x080 ∧
      resolve .xbr 0 = none) ∧ opened.Calm ∧
    (rwMask .xbr 0x208 = some 0x3F ∧ opened.frameHidden .xbr = false ∧ resolve .xbr 0x200 = some 0x200 ∧ opened.addr.waiting = false) ∧
    ((testing 176 4 none).live = true ∧ hiddenTest.frameHidden (.chc 0) = true ∧ hiddenTest.live = true ∧ hiddenTest.inStep 9 = false) ∧ hiddenTest.Calm ∧
    (resolve .mgt 0x0C = some 0x0C ∧ resolve .thm 0x0C = some 0x0C ∧ resolve .fus 0x08 = some 0x08 ∧ resolve .bst 0x10 = some 0x10 ∧
      isWl .xbr 0x208 = false) ∧
    (resolve (.dct 0) 0x20 = some 0x20 ∧ resolve (.chc 0) 0x20 = some 0x20 ∧ resolve (.prs 0) 0x20 = some 0x20 ∧ resolve .bwr 0x48 = some 0x48 ∧
      resolve .flt 0x0C = some 0x0C ∧ resolve .flt 0x40 = some 0x40 ∧ firstSeen.live = true ∧ firstSeen.frameHidden .flt = false ∧
      firstSeen.flt.first.all (·.done) = true ∧ firstSeen.flt.first.isSome = true) ∧
    (posted.live = true ∧ posted.mgt.posted.look (frameNo .bst) = some ⟨0, 1⟩ ∧ posted.inStep 9 = false ∧ isPosted .bst = true ∧
      posted.mgt.posted.has (frameNo .bst) = true ∧ resolve .bst 0 = some 0 ∧ rwMask .bst 0 = some 0x1FF ∧ opened.mgt.posted = []) ∧ posted.Calm ∧
    ((3 < 2 ^ 8 ∧ 2 < 2 ^ 2 ∧ 31 < 2 ^ 5 ∧ 1023 < 2 ^ 10 ∧ 65535 < 2 ^ 16 ∧ 2047 < 2 ^ 11 ∧ 15 < 2 ^ 4) ∧
      ({} : Ring).unread < 1024 ∧ ({ unread := 1024 } : Ring).unread = 1024) ∧
    (opened.thm.lock.done = false ∧ opened.fus.progLock.done = false ∧ written.thm.lock.done = true ∧ written.fus.progLock.done = true) ∧
    (up.live = true ∧ up.boot.testLock.v = 0 ∧ (∀ n, n < 32 → (up.port n).state ≠ .active) ∧ testLocked.boot.testLock.v ≠ 0 ∧ (opened.port 0).state = .active) ∧
    (inTraining.live = true ∧ inTraining.frameHidden (.chc 0) = false ∧ (inTraining.pc 0 0).mayCompare = true ∧ (opened.pc 0 0).mayCompare = false) ∧
    (((selecting 0 .training).chc 0).calSelected = some (0, 0, 0) ∧ ((selecting 0 .training).pc 0 0).mayCompare = true ∧
      ((selecting 0 .normal).pc 0 0).mayCompare = false ∧ ((selecting 0x800 .normal).chc 0).calSelected.map (fun x => x.1 != 0) = some true) :=
  ⟨by decide +kernel, openPort_calm, by decide +kernel, by decide +kernel, Chip.calm_of_test (by decide +kernel), by decide +kernel, by decide +kernel,
   by decide +kernel, Chip.calm_of_test (by decide +kernel), by decide, by decide +kernel, by decide +kernel, by decide +kernel, by decide +kernel⟩

theorem meets_ClearsClear : opened.live = true ∧ opened.frameHidden (.dct 0) = false ∧ opened.frameHidden (.prs 0) = false ∧
    opened.frameHidden (.chc 0) = false ∧ opened.mgt.posted = [] ∧ (opened.port 0).copies = none := by decide +kernel
theorem meets_EventsStayInTheirUnit : exec (.pad 0) State.reset = .next State.reset ∧ portOf (.pad 0) = some 0 ∧ channelOf (.chcClr 3) = some 3 ∧
    isFltEvent .fltClr = true ∧ isMgtEvent .hotJoinRequest = true ∧ isThmEvent .thmClr = true ∧ isNvmEvent .nvmClr = true ∧ isFusEvent .fusClr = true :=
  ⟨rfl, rfl, rfl, rfl, rfl, rfl, rfl, rfl⟩
theorem meets_AluComputes : (0 + 16 ≤ 64 ∧ 9 ≤ 9) ∧ (3 < 4 ∧ 7 < 64 / accumWidth 3) ∧
    (255 * 2 ^ 7 < 0x7FFF % 2 ^ (7 + 8) ∧ 0x3F80 % 2 ^ (7 + 8) < 255 * 2 ^ 7 ∧ 0x3F80 % 2 ^ (7 + 8) ≠ 0) ∧
    (0x7F7F < 2 ^ (7 + 9) ∧ 0x7F7F % 2 ^ (7 + 8) < 255 * 2 ^ 7 ∧ 0x8000 < 2 ^ (7 + 9) ∧ 0x8000 % 2 ^ (7 + 8) < 255 * 2 ^ 7) := by decide

end Sys2Proof.Tests
end

section
/-! SUPPORT. Tables, folds, sums of digits, and the fields of a word. -/

namespace Sys2Proof

/-! ### Tables -/

/-- A removed key is not listed. -/
theorem Tab.look_del_same {α : Type} (t : Tab α) (i : Nat) : Tab.look (Tab.del t i) i = none := by
  induction t with
  | nil => rfl
  | cons x t ih =>
    simp only [Tab.del]
    split
    · exact ih
    · rename_i h; simp [Tab.look, h, ih]

theorem Tab.has_del_same {α : Type} (t : Tab α) (i : Nat) : Tab.has (Tab.del t i) i = false := by
  induction t with
  | nil => rfl
  | cons x t ih =>
    simp only [Tab.del]
    split
    · exact ih
    · rename_i h; simp [Tab.has, h, ih]

/-- A written entry is looked up. -/
theorem Tab.look_put {α : Type} (t : Tab α) (i j : Nat) (v : α) : Tab.look (Tab.put t i v) j = if j = i then some v else Tab.look t j := by
  induction t with
  | nil => rfl
  | cons x t ih =>
    obtain ⟨k, w⟩ := x
    simp only [Tab.put]
    split
    · next h => subst h; simp only [Tab.look]; split <;> rfl
    · split
      · rfl
      · simp only [Tab.look, ih]
        split
        · next h _ hj => rw [if_neg (by omega)]
        · rfl

/-- No entry that a removal leaves has the removed key. -/
theorem Tab.key_ne_of_mem_del {α : Type} {t : Tab α} {i : Nat} {e : Nat × α} (h : e ∈ Tab.del t i) : e.1 ≠ i := by
  induction t with
  | nil => cases h
  | cons x t ih =>
    simp only [Tab.del] at h
    split at h
    · exact ih h
    · rcases List.mem_cons.mp h with rfl | h
      · exact Ne.symm ‹_›
      · exact ih h

/-- What a map over a table's entries, each by its key, makes of the value read at a key. -/
theorem Tab.get_map_rel {α : Type} (R : α → α → Prop) (d : α) (f : Nat → α → α) (t : Tab α) (i : Nat) (hf : ∀ k v, R v (f k v))
    (hd : R d d) : R (Tab.get d t i) (Tab.get d (List.map (fun x => (x.1, f x.1 x.2)) t) i) := by
  induction t with
  | nil => exact hd
  | cons x t ih =>
    simp only [List.map_cons, Tab.get]
    split
    · exact hf _ _
    · exact ih

/-! ### Folds of which one step tells -/

/-- A fold of which the step `i` alone tells in a view changes the view as that step does, if it comes to it. -/
theorem view_foldl_upFrom {α γ : Type} (view : α → γ) (u : γ → γ) (f : α → Nat → α) (i n k : Nat) (a : α)
    (other : ∀ d j, j ≠ i → view (f d j) = view d) (here : ∀ d, view (f d i) = u (view d)) :
    view ((upFrom n k).foldl f a) = if n ≤ i ∧ i < n + k then u (view a) else view a := by
  induction k generalizing n a with
  | zero => rw [if_neg (by omega)]; rfl
  | succ k ih =>
    rw [upFrom, List.foldl_cons, ih]
    by_cases hn : n = i
    · subst hn
      rw [if_neg (by omega), if_pos (by omega), here]
    · rw [other a n hn]
      by_cases hi : n + 1 ≤ i ∧ i < n + 1 + k
      · rw [if_pos hi, if_pos (by omega)]
      · rw [if_neg hi, if_neg (by omega)]

/-! ### Sums over the numbers below a bound -/

theorem upFrom_succ (n k : Nat) : upFrom n (k + 1) = upFrom n k ++ [n + k] := by
  induction k generalizing n with
  | zero => rfl
  | succ k ih => rw [upFrom, ih, upFrom, List.cons_append]; congr 3; omega

theorem sumBelow_succ (k : Nat) (f : Nat → Nat) : sumBelow (k + 1) f = sumBelow k f + f k := by
  simp [sumBelow, foldBelow, below, upFrom_succ]

/-- A number is less than its base to the number of its digits. -/
theorem sumBelow_digits_lt (b : Nat) (d : Nat → Nat) (h : ∀ i, d i < b) (n : Nat) : sumBelow n (fun i => d i * b ^ i) < b ^ n := by
  induction n with
  | zero => exact Nat.one_pos
  | succ n ih =>
    rw [sumBelow_succ, Nat.pow_succ]
    calc sumBelow n (fun i => d i * b ^ i) + d n * b ^ n < b ^ n + d n * b ^ n := Nat.add_lt_add_right ih _
      _ = (d n + 1) * b ^ n := by rw [Nat.add_mul, Nat.one_mul, Nat.add_comm]
      _ ≤ b * b ^ n := Nat.mul_le_mul_right _ (h n)
      _ = b ^ n * b := Nat.mul_comm _ _

/-- Each digit of a number is read back. -/
theorem sumBelow_digit (b : Nat) (d : Nat → Nat) (h : ∀ i, d i < b) (n i : Nat) (hi : i < n) :
    sumBelow n (fun j => d j * b ^ j) / b ^ i % b = d i := by
  have hb : 0 < b := Nat.lt_of_le_of_lt (Nat.zero_le _) (h 0)
  induction n with
  | zero => omega
  | succ n ih =>
    rw [sumBelow_succ]
    by_cases hn : i = n
    · subst hn
      rw [Nat.add_mul_div_right _ _ (Nat.pow_pos hb), Nat.div_eq_of_lt (sumBelow_digits_lt b d h i), Nat.zero_add, Nat.mod_eq_of_lt (h i)]
    · obtain ⟨m, rfl⟩ : ∃ m, n = i + 1 + m := ⟨n - i - 1, by omega⟩
      have e : d (i + 1 + m) * b ^ (i + 1 + m) = d (i + 1 + m) * b ^ m * b * b ^ i := by
        rw [Nat.add_comm (i + 1) m, Nat.add_comm i 1, Nat.pow_add, Nat.pow_add, Nat.pow_one, Nat.mul_assoc, Nat.mul_assoc]
      rw [e, Nat.add_mul_div_right _ _ (Nat.pow_pos hb), Nat.add_mul_mod_self_right]
      exact ih (by omega)

/-! ### Fields of a word -/

/-- The low field of a word is a mask of it. -/
theorem natBits_zero (v w : Nat) : natBits v 0 w = v &&& (2 ^ w - 1) := by
  rw [natBits, Nat.shiftRight_zero, Nat.and_two_pow_sub_one_eq_mod]

/-- A bit of a word, as `Nat.testBit` has it. -/
theorem natBit_eq_testBit (v i : Nat) : natBit v i = v.testBit i := by
  show (v >>> i % 2 == 1) = v.testBit i
  refine Eq.trans ?_ Nat.testBit_eq_decide_div_mod_eq.symm
  exact congrArg (fun x => decide (x % 2 = 1)) (Nat.shiftRight_eq_div_pow v i)

namespace Machine

/-- A field shown where it stands in a word, above a masked part of that word, widens the mask by the field. -/
theorem fld_natBits_add_and (v lo w m : Nat) (hm : m < 2 ^ lo) :
    fld lo w (natBits v lo w) + (v &&& m) = v &&& (2 ^ lo * (2 ^ w - 1) + m) := by
  rw [fld, natBits, Nat.mod_mod, Nat.mul_comm, Nat.two_pow_add_eq_or_of_lt (Nat.lt_of_le_of_lt Nat.and_le_right hm),
    Nat.two_pow_add_eq_or_of_lt hm]
  refine Nat.eq_of_testBit_eq fun i => ?_
  by_cases h : lo ≤ i
  · simp [Nat.testBit_two_pow_mul, Nat.testBit_lt_two_pow (Nat.lt_of_lt_of_le hm (Nat.pow_le_pow_right (by decide) h)), h, Bool.and_comm]
  · simp [Nat.testBit_two_pow_mul, h]

/-- A flag shown where it stands in a word widens the mask of the part below it. -/
theorem flag_natBit_add_and (v lo m : Nat) (hm : m < 2 ^ lo) : flag lo (natBit v lo) + (v &&& m) = v &&& (2 ^ lo + m) := by
  have e : flag lo (natBit v lo) = fld lo 1 (natBits v lo 1) := by
    rcases Nat.mod_two_eq_zero_or_one (v >>> lo) with h | h <;> simp [flag, natBit, fld, natBits, h]
  rw [e, fld_natBits_add_and v lo 1 m hm, Nat.pow_one, Nat.mul_one]

/-- The lowest flag of a word. -/
theorem flag_zero_natBit (v : Nat) : flag 0 (natBit v 0) = v &&& 1 := by
  simpa using flag_natBit_add_and v 0 0 (by decide)

/-- The low field of a word, shown where it stands. -/
theorem fld_zero_natBits (v w : Nat) : fld 0 w (natBits v 0 w) = v &&& (2 ^ w - 1) := by
  simpa using fld_natBits_add_and v 0 w 0 (by decide)

end Machine

end Sys2Proof
end

section
/-! SUPPORT. What follows a write in a calm block: no more than the taking of the shadow that was written. -/

namespace Sys2Proof.Machine

/-! ### What follows a write (`Chip.settle`) where a shadow waits -/

/-- Nothing goes on by itself but what a shadow that waits, or a packet before MGT, sets going: of `Chip.Calm`, the parts that
`Chip.settle` looks at after the registers, with boot outside step 9. -/
structure Chip.Rests (c : Chip) : Prop where
  long   : ∀ l, c.mgt.long = some l → l.job.still = true
  field  : ∀ t, c.boot.field = some t → t.still = true
  slices : ∀ s, (c.slice s).mode ≠ .draining
  chcs   : ∀ k, (c.chc k).still = true
  step   : c.inStep 9 = false

theorem Chip.Calm.rests {c : Chip} (h : c.Calm) (h9 : c.inStep 9 = false) : c.Rests := ⟨h.long, h.field, h.slices, h.chcs, h9⟩

/-- Where nothing else goes on and no packet waits, what follows an event is the applications that have become due. -/
theorem Chip.settle_eq_settleRegs {c : Chip} (hl : c.live = true) (hb : c.mgt.buf = []) (hw : c.mgt.sbWait = []) (h : c.settleRegs.Rests) :
    c.settle = c.settleRegs := by
  have ht : c.mgtTake = c := by simp [Chip.mgtTake, hb, hw]
  rw [Chip.settle, if_pos hl, ht, Chip.cleanTick_of_still _ h.slices h.chcs, Chip.fieldTick_of_still _ h.field,
    Chip.longTick_of_still _ h.long, Chip.endStep9If_of_not _ h.step]

@[simp] theorem Rws.write_shadow (r : Rws) (v : Nat) : (r.write v).shadow = v := rfl
@[simp] theorem Rws.apply_shadow (r : Rws) : r.apply.shadow = r.shadow := by unfold Rws.apply; split <;> rfl
/-- A field whose shadow does not wait stays as it is. -/
theorem Rws.apply_of_clean {r : Rws} (h : r.dirty = false) : r.apply = r := by simp [Rws.apply, h]

/-! ### A port's shadow -/

/-- From `c` to `t` port `n` may have applied its shadow, and nothing else differs. -/
structure PortUpdated (n : Nat) (c t : Chip) : Prop where
  frame  : t = { c with ports := t.ports }
  others : ∀ m, m ≠ n → t.port m = c.port m
  shadow : (t.port n).cfg.shadow = (c.port n).cfg.shadow
  system : (t.port n).system = (c.port n).system

theorem PortUpdated.refl (n : Nat) (c : Chip) : PortUpdated n c c := ⟨rfl, fun _ _ => rfl, rfl, rfl⟩

theorem PortUpdated.trans {n : Nat} {c d t : Chip} (h : PortUpdated n c d) (h' : PortUpdated n d t) : PortUpdated n c t where
  frame  := h'.frame.trans (congrArg (fun x : Chip => { x with ports := t.ports }) h.frame)
  others := fun m hm => (h'.others m hm).trans (h.others m hm)
  shadow := h'.shadow.trans h.shadow
  system := h'.system.trans h.system

theorem Chip.applyPort_updated (c : Chip) (n : Nat) : PortUpdated n c (c.applyPort n) := by
  unfold Chip.applyPort
  split
  · exact ⟨rfl, fun m hm => by simp [Chip.onPort_port, hm], by simp, by simp⟩
  · exact .refl n c

/-- A port whose shadow does not wait applies nothing. -/
theorem Chip.applyPort_of_clean {c : Chip} {n : Nat} (h : (c.port n).cfg.dirty = false) : c.applyPort n = c := by
  simp [Chip.applyPort, h]

/-- Where no shadow waits but that of port `n`, what settles the ports does no more than apply it. -/
theorem Chip.settlePorts_updated {c : Chip} {n : Nat} (h : ∀ m, m < 32 → m ≠ n → (c.port m).cfg.dirty = false) :
    PortUpdated n c c.settlePorts := by
  refine List.foldlRecOn (motive := PortUpdated n c) (below 32) _ (.refl n c) fun d hd m hm => ?_
  split
  · by_cases hmn : m = n
    · subst hmn; exact hd.trans (d.applyPort_updated m)
    · rw [Chip.applyPort_of_clean (by rw [hd.others m hmn]; exact h m (by simpa using hm) hmn)]
      exact hd
  · exact hd

/-- Where no port's shadow waits, none is applied. -/
theorem Chip.settlePorts_of_clean {c : Chip} (h : ∀ n, n < 32 → (c.port n).cfg.dirty = false) : c.settlePorts = c :=
  foldl_id _ _ _ fun n hn => by rw [Chip.applyPort_of_clean (h n (by simpa using hn)), ite_self]

/-- Where no channel's shadow waits, none is applied. -/
theorem Chip.settleChannels_of_clean {c : Chip} (h : ∀ k, k < 72 → c.channelDirty k = false) : c.settleChannels = c :=
  foldl_id _ _ _ fun k hk => by simp [h k (by simpa using hk)]

/-- In a calm block a write to a port is followed by no more than that port's taking of its shadow. -/
theorem Chip.Calm.settle_onPort {c : Chip} (h : c.Calm) (hl : c.live = true) (h9 : c.inStep 9 = false) (n : Nat) (f : Port → Port) :
    PortUpdated n (c.onPort n f) ((c.onPort n f).settlePorts.settle) := by
  have clean : ∀ {d : Chip}, PortUpdated n (c.onPort n f) d → ∀ m, m < 32 → m ≠ n → (d.port m).cfg.dirty = false := fun hd m hm hmn => by
    rw [hd.others m hmn, Chip.onPort_port, if_neg hmn]; exact h.ports m hm
  have h1 := Chip.settlePorts_updated (clean (.refl n _))
  have h2 := Chip.settlePorts_updated (clean h1)
  have h12 := h1.trans h2
  have h3 : (c.onPort n f).settlePorts.settleRegs = (c.onPort n f).settlePorts.settlePorts := by
    refine Chip.settleChannels_of_clean fun k hk => ?_
    rw [h12.frame]; exact h.chans k hk
  have rests : (c.onPort n f).settlePorts.settleRegs.Rests := by
    rw [h3, h12.frame]; exact ⟨h.long, h.field, h.slices, h.chcs, h9⟩
  rw [Chip.settle_eq_settleRegs (by rw [h1.frame]; exact hl) (by rw [h1.frame]; exact h.buf) (by rw [h1.frame]; exact h.sbWait) rests, h3]
  exact h12

/-! ### A channel's shadows -/

/-- A field test whose update waits for its end. -/
def FieldTest.deferred (t : FieldTest) : FieldTest := { t with upd := true }

/-- The words that wait, or last waited, in the shadows of channel `k`'s controller and slice. -/
def Chip.shadowWords (c : Chip) (k : Nat) : Nat × Nat × Nat × Nat × Nat × Nat :=
  let h := c.chc k
  (h.schedCfg.shadow, h.refCfg.shadow, h.rdCfg.shadow, h.calCfg.shadow, h.eccCfg.shadow, (c.slice k).cfg.shadow)

/-- From `c` to `t` nothing differs but the controller and the slice of channel `k`, and the mark that an update waits for a test; what goes
on by itself there is what went on before. -/
structure ChannelOnly (k : Nat) (c t : Chip) : Prop where
  frame  : t = { c with chcs := t.chcs, slices := t.slices, boot := { c.boot with field := t.boot.field } }
  others : ∀ j, j ≠ k → t.chc j = c.chc j ∧ t.slice j = c.slice j
  field  : t.boot.field = c.boot.field ∨ t.boot.field = c.boot.field.map FieldTest.deferred
  still  : (t.chc k).still = (c.chc k).still
  mode   : (t.slice k).mode = (c.slice k).mode

/-- From `c` to `t` the shadows of channel `k` may have been applied, and nothing else differs. -/
structure ChannelUpdated (k : Nat) (c t : Chip) : Prop extends ChannelOnly k c t where
  shadows : t.shadowWords k = c.shadowWords k

theorem ChannelOnly.refl (k : Nat) (c : Chip) : ChannelOnly k c c := ⟨rfl, fun _ _ => ⟨rfl, rfl⟩, .inl rfl, rfl, rfl⟩

theorem ChannelOnly.trans {k : Nat} {c d t : Chip} (h : ChannelOnly k c d) (h' : ChannelOnly k d t) : ChannelOnly k c t where
  frame  := h'.frame.trans (congrArg
    (fun x : Chip => { x with chcs := t.chcs, slices := t.slices, boot := { x.boot with field := t.boot.field } }) h.frame)
  others := fun j hj => ⟨((h'.others j hj).1).trans (h.others j hj).1, ((h'.others j hj).2).trans (h.others j hj).2⟩
  field  := by
    have twice : ∀ o : Option FieldTest, (o.map FieldTest.deferred).map FieldTest.deferred = o.map FieldTest.deferred := by
      rintro (_ | t) <;> rfl
    rcases h.field with e | e <;> rcases h'.field with e' | e' <;> simp [e, e', twice]
  still  := h'.still.trans h.still
  mode   := h'.mode.trans h.mode

theorem ChannelUpdated.refl (k : Nat) (c : Chip) : ChannelUpdated k c c := ⟨.refl k c, rfl⟩

theorem ChannelUpdated.trans {k : Nat} {c d t : Chip} (h : ChannelUpdated k c d) (h' : ChannelUpdated k d t) : ChannelUpdated k c t :=
  ⟨h.toChannelOnly.trans h'.toChannelOnly, h'.shadows.trans h.shadows⟩

theorem ChannelOnly.onChc (c : Chip) (k : Nat) (f : Chc → Chc) (h : (f (c.chc k)).still = (c.chc k).still) : ChannelOnly k c (c.onChc k f) :=
  ⟨rfl, fun j hj => by simp [Chip.onChc_chc, hj], .inl rfl, by simpa using h, rfl⟩

theorem ChannelOnly.onSlice (c : Chip) (k : Nat) (f : Slice → Slice) (h : (f (c.slice k)).mode = (c.slice k).mode) :
    ChannelOnly k c (c.onSlice k f) :=
  ⟨rfl, fun j hj => by simp [Chip.onSlice_slice, hj], .inl rfl, rfl, by simpa using h⟩

theorem Chip.deferUpdate_updated (c : Chip) (k : Nat) : ChannelUpdated k c c.deferUpdate :=
  ⟨⟨rfl, fun _ _ => ⟨rfl, rfl⟩, .inr rfl, rfl, rfl⟩, rfl⟩

/-- POSTPONE_MAX bears on nothing that a pseudo-channel goes on with by itself. -/
theorem Pc.newPostMax_still (pc : Pc) (m : Nat) (t : TestState) :
    (pc.newPostMax m).still t = pc.still t ∧ (pc.newPostMax m).mayCompare = pc.mayCompare := by
  unfold Pc.newPostMax
  split
  · exact ⟨rfl, rfl⟩
  · split
    · exact ⟨rfl, rfl⟩
    · split <;> exact ⟨rfl, rfl⟩

/-- The shadows of a channel controller bear on nothing that it goes on with by itself. -/
theorem Chc.applyShadows_still (h : Chc) : h.applyShadows.still = h.still := by
  have pcs : ∀ q, ∃ m, h.applyShadows.pc q = h.pc q ∨ h.applyShadows.pc q = (h.pc q).newPostMax m := by
    intro q
    by_cases h1 : q = 1
    · exact ⟨_, .inr (by subst h1; simp [Chc.applyShadows, Chc.onPc_pc]; rfl)⟩
    · by_cases h0 : q = 0
      · exact ⟨_, .inr (by subst h0; simp [Chc.applyShadows, Chc.onPc_pc]; rfl)⟩
      · exact ⟨0, .inl (by simp [Chc.applyShadows, Chc.onPc_pc, h0, h1]; rfl)⟩
  have still : ∀ q t, (h.applyShadows.pc q).still t = (h.pc q).still t ∧ (h.applyShadows.pc q).mayCompare = (h.pc q).mayCompare := by
    intro q t
    obtain ⟨m, e | e⟩ := pcs q
    · rw [e]; exact ⟨rfl, rfl⟩
    · rw [e]; exact (h.pc q).newPostMax_still m t
  have rest : h.applyShadows.test = h.test ∧ h.applyShadows.trnBusy = h.trnBusy ∧ h.applyShadows.runCtl = h.runCtl := ⟨rfl, rfl, rfl⟩
  simp only [Chc.still, rest, (still _ _).1, (still _ h.test).2]

/-- CFG_UPDATE of a channel applies its shadows, or leaves them for the end of a test, and changes nothing else. -/
theorem Chip.updateChannel_updated (c : Chip) (k : Nat) : ChannelUpdated k c (c.updateChannel k) := by
  have chc : ∀ d : Chip, ChannelUpdated k d (d.onChc k Chc.applyShadows) := fun d =>
    ⟨.onChc d k _ (Chc.applyShadows_still _), by simp [Chip.shadowWords, Chc.applyShadows, Chc.onPc]⟩
  have slice : ∀ d : Chip, ChannelUpdated k d (d.onSlice k Slice.applyShadows) := fun d =>
    ⟨.onSlice d k _ rfl, by simp [Chip.shadowWords, Slice.applyShadows]⟩
  have h1 : ChannelUpdated k c (if c.scanned (176 + k) then c.deferUpdate else c.onChc k Chc.applyShadows) := by
    split
    · exact c.deferUpdate_updated k
    · exact chc c
  have h2 : ∀ d : Chip, ChannelUpdated k d
      (if 64 ≤ k then d else if d.scanned (112 + k) then d.deferUpdate else d.onSlice k Slice.applyShadows) := by
    intro d
    split
    · exact .refl k d
    · split
      · exact d.deferUpdate_updated k
      · exact slice d
  exact h1.trans (h2 _)

/-- Whether a shadow of a channel waits is read off its controller and its slice. -/
theorem ChannelOnly.dirty_other {k : Nat} {c t : Chip} (h : ChannelOnly k c t) {j : Nat} (hj : j ≠ k) : t.channelDirty j = c.channelDirty j := by
  simp only [Chip.channelDirty, (h.others j hj).1, (h.others j hj).2]

/-- Where no shadow waits but those of channel `k`, what settles the channels does no more than apply them. -/
theorem Chip.settleChannels_updated {c : Chip} {k : Nat} (h : ∀ j, j < 72 → j ≠ k → c.channelDirty j = false) :
    ChannelUpdated k c c.settleChannels := by
  refine List.foldlRecOn (motive := ChannelUpdated k c) (below 72) _ (.refl k c) fun d hd j hj => ?_
  by_cases hjk : j = k
  · subst hjk
    split
    · exact hd.trans (d.updateChannel_updated j)
    · exact hd
  · have clean : d.channelDirty j = false := by rw [hd.dirty_other hjk]; exact h j (by simpa using hj) hjk
    simpa [clean] using hd

/-- A change of channel `k` alone leaves the rest of the block, and the channel itself, with nothing more to go on with. -/
theorem ChannelOnly.rests {k : Nat} {c t : Chip} (h : ChannelOnly k c t) (hc : c.Rests) : t.Rests where
  long   := fun l hl => hc.long l ((congrArg (fun d : Chip => d.mgt.long) h.frame).symm.trans hl)
  field  := fun t' ht => by
    rcases h.field with e | e
    · exact hc.field t' (e ▸ ht)
    · rw [e, Option.map_eq_some_iff] at ht
      obtain ⟨t0, h0, rfl⟩ := ht
      exact hc.field t0 h0
  slices := fun s => by
    by_cases hs : s = k
    · subst hs; rw [h.mode]; exact hc.slices s
    · rw [(h.others s hs).2]; exact hc.slices s
  chcs   := fun j => by
    by_cases hj : j = k
    · subst hj; rw [h.still]; exact hc.chcs j
    · rw [(h.others j hj).1]; exact hc.chcs j
  step   := (congrArg (fun d : Chip => d.inStep 9) h.frame).trans hc.step

/-- In a calm block a write to a channel is followed by no more than that channel's taking of its shadows. -/
theorem Chip.Calm.settle_channel {c d : Chip} {k : Nat} (h : c.Calm) (hl : c.live = true) (h9 : c.inStep 9 = false) (hd : ChannelOnly k c d) :
    ChannelUpdated k d d.settleChannels.settle := by
  have clean : ∀ {t : Chip}, ChannelOnly k c t → ∀ j, j < 72 → j ≠ k → t.channelDirty j = false := fun ht j hj hjk => by
    rw [ht.dirty_other hjk]; exact h.chans j hj
  have h1 := Chip.settleChannels_updated (clean hd)
  have hc1 := hd.trans h1.toChannelOnly
  have h2 := Chip.settleChannels_updated (clean hc1)
  have ports : d.settleChannels.settlePorts = d.settleChannels := by
    refine Chip.settlePorts_of_clean fun n hn => ?_
    rw [hc1.frame]; exact h.ports n hn
  have regs : d.settleChannels.settleRegs = d.settleChannels.settleChannels := by rw [Chip.settleRegs, ports]
  have rests : d.settleChannels.settleRegs.Rests := by
    rw [regs]; exact (hc1.trans h2.toChannelOnly).rests (h.rests h9)
  rw [Chip.settle_eq_settleRegs (by rw [hc1.frame]; exact hl) (by rw [hc1.frame]; exact h.buf) (by rw [hc1.frame]; exact h.sbWait) rests, regs]
  exact h1.trans h2

end Sys2Proof.Machine
end

section
/-! SUPPORT. Writes of registers whose fields a write does no more than set: what they show, and what they leave. -/

namespace Sys2Proof.Machine

/-! ### Writes of registers whose fields a write does no more than set -/

/-- A mark that an update waits hides no frame. -/
theorem Chip.frameHidden_of_field {c t : Chip} (f : Frame)
    (h : t.boot.field = c.boot.field ∨ t.boot.field = c.boot.field.map FieldTest.deferred) : t.frameHidden f = c.frameHidden f := by
  rcases h with e | e
  · simp only [Chip.frameHidden, e]
  · simp only [Chip.frameHidden, e]
    cases c.boot.field <;> rfl

/-- Of a channel the change of its controller and its slice is a change of its block alone. -/
theorem ChannelOnly.onlyBlock_chc {k : ChcIx} {c t : Chip} (h : ChannelOnly k.val c t) : OnlyBlock (.chc k) c t := ⟨h.frame, h.others⟩
theorem ChannelOnly.onlyBlock_dct {k : SliceIx} {c t : Chip} (h : ChannelOnly k.val c t) : OnlyBlock (.dct k) c t := ⟨h.frame, h.others⟩

/-- From `c` to what follows `d`, nothing outside the block of `f` changes, and the register of `f` at `o` comes to show `x`. -/
def Chip.Sets (c d : Chip) (f : Frame) (o x : Nat) : Prop := OnlyBlock f c d.settle ∧ d.settle.regValue f o = x

/-- A write that leaves the block calm is followed by nothing. -/
theorem Chip.Calm.sets {c d : Chip} {f : Frame} {o x : Nat} (hd : d.Calm) (h9 : d.inStep 9 = false) (ho : OnlyBlock f c d)
    (hx : d.regValue f o = x) : c.Sets d f o x := by
  rw [Chip.Sets, d.settle_eq hd h9]
  exact ⟨ho, hx⟩

/-! What a register shows outside the common registers of R683, in a frame that no test hides. -/

theorem Chip.regValue_chc {c : Chip} {k : ChcIx} {o : Nat} (ho : o < 0x3F4) (hh : c.frameHidden (.chc k) = false) :
    c.regValue (.chc k) o = c.readChc k.val o := by
  rw [Chip.regValue, if_neg (by omega), if_neg (by omega), if_neg (by omega), hh]; rfl

theorem Chip.regValue_dct {c : Chip} {k : SliceIx} {o : Nat} (ho : o < 0x3F4) (hh : c.frameHidden (.dct k) = false) :
    c.regValue (.dct k) o = c.readDct k.val o := by
  rw [Chip.regValue, if_neg (by omega), if_neg (by omega), if_neg (by omega), hh]; rfl

theorem Chip.regValue_prs {c : Chip} {p : PressIx} {o : Nat} (ho : o < 0x3F4) (hh : c.frameHidden (.prs p) = false) :
    c.regValue (.prs p) o = c.readPrs p.val o := by
  rw [Chip.regValue, if_neg (by omega), if_neg (by omega), if_neg (by omega), hh]; rfl

/-- A write to a block that neither a shadow's application nor a test in progress goes on from is followed by nothing. -/
theorem Chip.Calm.sets_apart {c d : Chip} {f : Frame} {o x : Nat} (h : c.Calm) (h9 : c.inStep 9 = false)
    (he : d = { c with
      presses := d.presses, xbr := d.xbr, addr := d.addr, bwr := d.bwr, flt := d.flt, ring := d.ring, fus := d.fus, nvm := d.nvm
      boot := { c.boot with sel := d.boot.sel }, thm := { c.thm with cfg := d.thm.cfg, zones := d.thm.zones, sel := d.thm.sel }
      mgt := { c.mgt with updAuto := d.mgt.updAuto } })
    (ho : OnlyBlock f c d) (hx : d.regValue f o = x) : c.Sets d f o x := by
  refine Chip.Calm.sets ?_ ?_ ho hx
  · rw [he]; exact h.of_eq rfl rfl rfl rfl (fun _ => rfl) (fun _ => rfl) (fun _ => id) (fun _ => id)
  · exact (congrArg (fun x : Chip => x.inStep 9) he).trans h9

theorem Chip.regValue_bwr {c : Chip} {o : Nat} (ho : o < 0x3F4) : c.regValue .bwr o = c.readBwr o := by
  rw [Chip.regValue, if_neg (by omega), if_neg (by omega), if_neg (by omega), c.frameHidden_bwr]; rfl

theorem Chip.regValue_flt {c : Chip} {o : Nat} (ho : o < 0x3F4) : c.regValue .flt o = c.readFlt o := by
  rw [Chip.regValue, if_neg (by omega), if_neg (by omega), if_neg (by omega), c.frameHidden_of_posted .flt rfl]; rfl

section
variable {c : Chip} (h : c.Calm) (hl : c.live = true) (h9 : c.inStep 9 = false) (v : Nat)
include h hl h9

/-- PORT_CFG: the shadow and SYSTEM, whether or not the port applies the shadow at once (R82, R672). -/
theorem Chip.Calm.sets_portCfg (n : PortIx) : c.Sets (c.writeHpa n 0x000 v) (.hpa n) 0x000 (v &&& 0x7F) := by
  have u := h.settle_onPort hl h9 n.val (·.writeCfg v)
  have shown : ∀ t : Chip, t.regValue (.hpa n) 0x000 = fld 0 6 (t.port n.val).cfg.shadow + flag 6 (t.port n.val).system := fun t => by
    simp [Chip.regValue, Chip.readHpa]
  refine ⟨⟨u.frame, fun m hm => (u.others m hm).trans (by rw [Chip.onPort_port, if_neg hm])⟩, ?_⟩
  rw [shown]
  show fld 0 6 ((c.onPort n.val _).settlePorts.settle.port n.val).cfg.shadow +
    flag 6 ((c.onPort n.val _).settlePorts.settle.port n.val).system = _
  rw [u.shadow, u.system, Chip.onPort_port_same]
  simp only [Port.writeCfg, Rws.write_shadow]
  rw [Nat.add_comm, fld_zero_natBits]
  exact flag_natBit_add_and v 6 0x3F (by decide)

/-- A register of a channel's shadow: the write lands in the shadow, whether or not it is applied at once (R258, R394, R669). -/
theorem Chip.Calm.sets_shadow {d : Chip} {k : Nat} {f : Frame} {o x : Nat} (hh : c.frameHidden f = false) (hd : ChannelOnly k c d)
    (hf : ∀ t, ChannelOnly k c t → OnlyBlock f c t)
    (hx : ∀ t : Chip, t.frameHidden f = false → t.shadowWords k = d.shadowWords k → t.regValue f o = x) :
    c.Sets d.settleChannels f o x := by
  have u := h.settle_channel hl h9 hd
  have w := hd.trans u.toChannelOnly
  exact ⟨hf _ w, hx _ ((Chip.frameHidden_of_field f w.field).trans hh) u.shadows⟩

/-- A register of a channel controller's shadow; which one, the place in `Chip.shadowWords` says. -/
theorem Chip.Calm.sets_chcShadow {o x : Nat} (k : ChcIx) (g : Chc → Chc) (hh : c.frameHidden (.chc k) = false)
    (hg : (g (c.chc k.val)).still = (c.chc k.val).still) (ho : o < 0x3F4)
    (hx : ∀ t : Chip, t.shadowWords k.val = (c.onChc k.val g).shadowWords k.val → t.readChc k.val o = x) :
    c.Sets (c.onChc k.val g).settleChannels (.chc k) o x :=
  h.sets_shadow hl h9 hh (.onChc c k.val g hg) (fun _ => ChannelOnly.onlyBlock_chc) fun t ht hs => by
    rw [Chip.regValue_chc ho ht]; exact hx t hs

omit hl in
/-- A register of a channel controller that is no shadow. -/
theorem Chip.Calm.sets_onChc {o x : Nat} (k : ChcIx) (g : Chc → Chc) (hh : c.frameHidden (.chc k) = false)
    (hg : let a := g (c.chc k.val); let b := c.chc k.val
      (a.schedCfg = b.schedCfg ∧ a.refCfg = b.refCfg ∧ a.rdCfg = b.rdCfg ∧ a.calCfg = b.calCfg ∧ a.eccCfg = b.eccCfg) ∧ a.still = b.still)
    (ho : o < 0x3F4) (hx : (c.onChc k.val g).readChc k.val o = x) : c.Sets (c.onChc k.val g) (.chc k) o x :=
  Chip.Calm.sets (h.onChc k.val g hg.1 (hg.2.trans (h.chcs k.val))) h9 (ChannelOnly.onChc c k.val g hg.2).onlyBlock_chc
    ((Chip.regValue_chc (c := c.onChc k.val g) ho hh).trans hx)

omit hl h9 in
/-- MGT_UPD_AUTO: in a calm block no boundary stands open for a shadow that waits (R672). -/
theorem Chip.Calm.writeMgt_updAuto : c.writeMgt 0x04 v = { c with mgt := { c.mgt with updAuto := natBits v 0 16 } } := by
  have quiet : ∀ d : Chip, d.ports = c.ports → d.channelDirty = c.channelDirty → d.settlePorts.settleChannels = d := fun d hp hd => by
    rw [d.settlePorts_of_clean fun n hn => by rw [Chip.port, hp]; exact h.ports n hn]
    exact d.settleChannels_of_clean fun k hk => by rw [hd]; exact h.chans k hk
  exact quiet _ rfl rfl

/-- A write of a register whose fields it does no more than set is read back in those fields, 0 elsewhere; nothing outside the block of its
frame changes. -/
theorem Chip.Calm.regWrite_sets {f : Frame} {o m : Nat} (hh : c.frameHidden f = false) (hm : rwMask f o = some m) :
    c.Sets (c.regWrite f o v) f o (v &&& m) := by
  unfold Chip.regWrite
  rw [if_neg (by simp [hl, hh])]
  unfold rwMask at hm
  split at hm <;> cases hm
  case h_1 n => exact h.sets_portCfg hl h9 v n
  case h_2 n =>
    refine Chip.Calm.sets (d := c.onPort n.val _) (h.onPort n.val _ rfl) h9 ⟨rfl, fun m hm => ?_⟩ ?_
    · rw [Chip.onPort_port, if_neg hm]
    · simp [Chip.regValue, Chip.readHpa, natBits_zero]
  case h_3 k =>
    refine h.sets_shadow hl h9 hh (.onSlice c k.val _ rfl) (fun _ => ChannelOnly.onlyBlock_dct) fun t ht hs => ?_
    simp only [Chip.shadowWords, Prod.mk.injEq, Chip.onSlice_slice_same, Rws.write_shadow] at hs
    obtain ⟨-, -, -, -, -, hs⟩ := hs
    rw [Chip.regValue_dct (by decide) ht]
    simp (disch := decide) [Chip.readDct, hs, flag_zero_natBit, fld_natBits_add_and, Nat.add_assoc, -Nat.and_one_is_mod]
  case h_4 k =>
    refine Chip.Calm.sets (d := c.onSlice k.val _) (h.onSlice k.val _ rfl (h.slices k.val)) h9
      (ChannelOnly.onSlice c k.val _ rfl).onlyBlock_dct ((Chip.regValue_dct (c := c.onSlice k.val _) (by decide) hh).trans ?_)
    simp [Chip.readDct, natBits_zero]
  case h_5 => exact h.sets_apart h9 rfl rfl (by simp [Chip.regValue, Chip.writeBwr, Chip.readBwr, natBits_zero])
  case h_6 =>
    refine h.sets_apart h9 rfl rfl ?_
    simp (disch := decide) [Chip.regValue, Chip.writeBwr, Chip.readBwr, natBits_zero, fld_natBits_add_and, Nat.add_assoc]
  case h_7 | h_8 | h_9 | h_10 => exact h.sets_apart h9 rfl rfl (by simp [Chip.regValue, Chip.writeXbr, Chip.readXbr, natBits_zero])
  case h_11 p | h_12 p | h_13 p =>
    refine h.sets_apart (d := c.onPress p.val _) h9 rfl ⟨rfl, fun q hq => by rw [Chip.onPress_press, if_neg hq]⟩
      ((Chip.regValue_prs (c := c.onPress p.val _) (by decide) hh).trans ?_)
    simp [Chip.readPrs, natBits_zero]
  case h_14 k | h_15 k | h_16 k | h_17 k =>
    refine h.sets_chcShadow hl h9 k _ hh rfl (by decide) fun t ht => ?_
    simp only [Chip.shadowWords, Prod.mk.injEq] at ht
    simp [Chip.readChc, ht, natBits_zero]
  case h_18 k | h_21 k =>
    refine h.sets_onChc h9 k _ hh ⟨⟨rfl, rfl, rfl, rfl, rfl⟩, rfl⟩ (by decide) ?_
    simp [Chip.readChc, natBits_zero]
  case h_19 k | h_20 k =>
    refine h.sets_onChc h9 k _ hh ⟨⟨rfl, rfl, rfl, rfl, rfl⟩, rfl⟩ (by decide) ?_
    simpa [Chip.readChc] using (Nat.and_two_pow_sub_one_eq_mod v 32).symm
  case h_22 k =>
    refine h.sets_onChc h9 k _ hh ⟨⟨rfl, rfl, rfl, rfl, rfl⟩, rfl⟩ (by decide) ?_
    simp (disch := decide) [Chip.readChc, natBits_zero, fld_natBits_add_and]
  case h_23 k =>
    refine h.sets_chcShadow hl h9 k _ hh rfl (by decide) fun t ht => ?_
    simp only [Chip.shadowWords, Prod.mk.injEq] at ht
    simp (disch := decide) [Chip.readChc, ht, natBits_zero, fld_natBits_add_and, flag_natBit_add_and, Nat.add_assoc]
  case h_24 =>
    show c.Sets (c.writeMgt 0x04 v) .mgt 0x04 _
    rw [h.writeMgt_updAuto]
    refine h.sets_apart h9 rfl rfl ?_
    simp [Chip.regValue, Chip.frameHidden_of_posted _ .mgt rfl, Chip.readMgt, natBits_zero]
  case h_25 =>
    refine h.sets_apart h9 rfl rfl ?_
    simp (disch := decide) [Chip.regValue, Chip.frameHidden_of_posted _ .fus rfl, Chip.writeFus, Fus.readFus, flag_zero_natBit,
      fld_natBits_add_and, -Nat.and_one_is_mod]
  case h_26 =>
    refine h.sets_apart h9 rfl rfl ?_
    simp [Chip.regValue, Chip.frameHidden_of_posted _ .nvm rfl, Chip.writeNvm, Nvm.readNvm, natBits_zero]
  case h_27 =>
    refine h.sets_apart h9 rfl rfl ?_
    simp (disch := decide) [Chip.regValue, Chip.frameHidden_of_posted _ .flt rfl, Chip.writeFlt, Chip.readFlt, flag_zero_natBit,
      flag_natBit_add_and, -Nat.and_one_is_mod]
  case h_28 =>
    refine h.sets_apart h9 rfl rfl ?_
    simp [Chip.regValue, Chip.frameHidden_of_posted _ .flt rfl, Chip.writeFlt, Chip.readFlt, natBits_zero]
  case h_29 =>
    refine h.sets_apart h9 rfl rfl ?_
    simp [Chip.regValue, Chip.frameHidden_of_posted _ .err rfl, Chip.writeErr, Ring.readErr, natBits_zero]
  case h_30 =>
    refine h.sets_apart h9 rfl rfl ?_
    simp (disch := decide) [Chip.regValue, Chip.frameHidden_of_posted _ .thm rfl, Chip.writeThm, Chip.readThm, natBits_zero,
      fld_natBits_add_and, Nat.add_assoc]
  case h_31 =>
    refine h.sets_apart h9 rfl rfl ?_
    simp [Chip.regValue, Chip.frameHidden_of_posted _ .thm rfl, Chip.writeThm, Chip.readThm, natBits_zero]
  case h_32 =>
    refine h.sets_apart h9 rfl rfl ?_
    simp [Chip.regValue, Chip.frameHidden_of_posted _ .bst rfl, Chip.writeBst, Chip.readBst, natBits_zero]
end

end Sys2Proof.Machine
end

section
/-! SUPPORT. Writes that come to a frame: discarded, held and applied, taken, or without effect. -/

namespace Sys2Proof.Machine

/-! ### Writes that come to a frame (R670) -/

/-- A change of the block is what it makes of the block as it stands. -/
theorem State.onChip_congr {s : State} {f g : Chip → Chip} (h : f s.chip = g s.chip) : s.onChip f = s.onChip g := by
  rw [State.onChip, State.onChip, h]

/-- A change that leaves the block as it stands leaves the state. -/
theorem State.onChip_of_eq {s : State} {f : Chip → Chip} (h : f s.chip = s.chip) : s.onChip f = s := by
  rw [State.onChip, h]

/-- A frame that holds no write takes what comes to it. -/
theorem Chip.atFrame_of_free {c : Chip} {f : Frame} (g : Chip → Chip) (h : isPosted f = true → c.mgt.posted.has (frameNo f) = false) :
    c.atFrame f g = g c := by
  unfold Chip.atFrame
  cases hp : isPosted f
  · simp
  · simp [h hp]

/-- A posted frame that holds a write discards what comes to it, and counts it. -/
theorem Chip.atFrame_of_held {c : Chip} {f : Frame} (g : Chip → Chip) (hl : c.live = true) (hp : isPosted f = true)
    (hh : c.mgt.posted.has (frameNo f) = true) :
    c.atFrame f g = { c with mgt := { c.mgt with drops := c.mgt.drops.put (frameNo f) (bump32 (c.mgt.drops.get 0 (frameNo f))) } } := by
  rw [Chip.atFrame, if_pos (by simp [hl, hp, hh])]
  rfl

/-- A frame that a test hides takes no write (R668). -/
theorem Chip.regWrite_of_hidden {c : Chip} {f : Frame} (o v : Nat) (h : c.frameHidden f = true) : c.regWrite f o v = c := if_pos (by simp [h])

/-- A write to an offset that is a register's goes to the register. -/
theorem Chip.writeOff_of_resolve {c : Chip} {f : Frame} {off o : Nat} (v : Nat) (h : resolve f off = some o) :
    c.writeOff f off v = c.regWrite f o v := by rw [Chip.writeOff, h]

/-- A write where no register is, to a frame that none can write, or to one that a test hides, does nothing. -/
theorem Chip.writeOff_of_idle {c : Chip} {f : Frame} {off v : Nat}
    (h : resolve f off = none ∨ f = .id ∨ f = .clk ∨ f = .rst ∨ c.frameHidden f = true) : c.writeOff f off v = c := by
  unfold Chip.writeOff
  split
  · rename_i o ho
    rcases h with h | rfl | rfl | rfl | h
    · rw [ho] at h; cases h
    · exact ite_self c
    · exact ite_self c
    · exact ite_self c
    · exact Chip.regWrite_of_hidden o v h
  · rfl

/-- Where the frame takes it, REGISTER_WRITE acts on the register, and what it makes due follows. -/
theorem exec_registerWrite_of_free {s : State} {f : Frame} (off : BitVec 12) (v : Word)
    (h : isPosted f = true → s.chip.mgt.posted.has (frameNo f) = false) :
    exec (.registerWrite f off v) s = .next (s.onChip (fun c => (c.writeOff f off.toNat v.toNat).settle)) :=
  congrArg Host.Outcome.next (State.onChip_congr (congrArg Chip.settle (Chip.atFrame_of_free _ h)))

/-- Outside the block of MGT, what changes the block of a frame alone leaves MGT. -/
theorem OnlyBlock.mgt_eq {f : Frame} {c t : Chip} (h : OnlyBlock f c t) (hf : f ≠ .mgt) : t.mgt = c.mgt := by
  cases f
  case mgt => exact absurd rfl hf
  case hpa n | prs n | chc n | dct n => exact (congrArg Chip.mgt h.1 :)
  all_goals exact (congrArg Chip.mgt h :)

/-- Of MGT's registers only MGT_UPD_AUTO has fields that a write only sets. -/
theorem rwMask_mgt {o m : Nat} (h : rwMask .mgt o = some m) : o = 0x04 := by
  unfold rwMask at h
  split at h <;> simp_all

/-- A write of a register whose fields it only sets touches no write that a frame holds. -/
theorem Chip.Calm.regWrite_posted {c : Chip} (h : c.Calm) (hl : c.live = true) (h9 : c.inStep 9 = false) (v : Nat) {f : Frame} {o m : Nat}
    (hm : rwMask f o = some m) : (c.regWrite f o v).settle.mgt.posted = c.mgt.posted := by
  by_cases hh : c.frameHidden f = true
  · rw [Chip.regWrite_of_hidden _ _ hh, Chip.settle_mgt _ h]
  by_cases hf : f = .mgt
  · subst hf
    obtain rfl := rwMask_mgt hm
    have e : c.regWrite .mgt 0x04 v = c.writeMgt 0x04 v := if_neg (by simp [hl, hh])
    rw [e, h.writeMgt_updAuto, Chip.settle_mgt]
    exact h.of_eq rfl rfl rfl rfl (fun _ => rfl) (fun _ => rfl) (fun _ => id) (fun _ => id)
  · rw [(h.regWrite_sets hl h9 v (by simpa using hh) hm).1.mgt_eq hf]

/-- The block with the write that a frame holds taken out of it. -/
def Chip.freed (c : Chip) (f : Frame) : Chip := { c with mgt := { c.mgt with posted := c.mgt.posted.del (frameNo f) } }

section
variable {s : State} (hl : s.chip.live = true) (h : s.chip.Calm) (h9 : s.chip.inStep 9 = false) (f : Frame) (off : BitVec 12) (v : Word)
include hl h h9

/-- A write that comes to a posted frame which holds one is discarded and counted (R670). -/
theorem exec_registerWrite_of_held (hp : isPosted f = true) (hh : s.chip.mgt.posted.has (frameNo f) = true) :
    exec (.registerWrite f off v) s = .next (s.onChip (fun c => { c with mgt := { c.mgt with
      drops := c.mgt.drops.put (frameNo f) (bump32 (c.mgt.drops.get 0 (frameNo f))) } })) := by
  refine congrArg Host.Outcome.next (State.onChip_congr ?_)
  rw [Chip.atFrame_of_held _ hl hp hh, Chip.settle_eq]
  · exact h.of_eq rfl rfl rfl rfl (fun _ => rfl) (fun _ => rfl) (fun _ => id) (fun _ => id)
  · exact h9

/-- A register whose fields a write only sets takes it (R17). -/
theorem exec_registerWrite_sets (hp : isPosted f = true → s.chip.mgt.posted.has (frameNo f) = false) {o m : Nat}
    (ho : resolve f off.toNat = some o) (hm : rwMask f o = some m) (hh : s.chip.frameHidden f = false) :
    ∃ t, exec (.registerWrite f off v) s = .next t ∧ t = { s with chip := t.chip } ∧ OnlyBlock f s.chip t.chip ∧
      t.chip.regValue f o = v.toNat &&& m := by
  refine ⟨_, exec_registerWrite_of_free off v hp, rfl, ?_⟩
  rw [State.onChip_chip, Chip.writeOff_of_resolve _ ho]
  exact h.regWrite_sets hl h9 v.toNat hh hm

omit hl in
/-- A write where no register is, of a read-only frame, or of a block in a test changes nothing. -/
theorem exec_registerWrite_of_idle (hp : isPosted f = true → s.chip.mgt.posted.has (frameNo f) = false)
    (hi : resolve f off.toNat = none ∨ f = .id ∨ f = .clk ∨ f = .rst ∨ s.chip.frameHidden f = true) :
    exec (.registerWrite f off v) s = .next s := by
  rw [exec_registerWrite_of_free off v hp, State.onChip_of_eq]
  rw [Chip.writeOff_of_idle hi, s.chip.settle_eq h h9]

/-- A frame applies the write it held as a write of that register (R670). -/
theorem exec_postedWriteApply {w : Posted} (hw : s.chip.mgt.posted.look (frameNo f) = some w) (ho : resolve f off.toNat = some w.off)
    (hv : w.v = v.toNat) :
    ∃ t, exec (.postedWriteApply f) s = .next t ∧ exec (.registerWrite f off v) (s.onChip (·.freed f)) = .next t ∧
      ∀ m, rwMask f w.off = some m → t.chip.mgt.posted.look (frameNo f) = none := by
  have calm : (s.chip.freed f).Calm := h.of_eq rfl rfl rfl rfl (fun _ => rfl) (fun _ => rfl) (fun _ => id) (fun _ => id)
  have apply : exec (.postedWriteApply f) s = .next ((s.onChip (·.freed f)).onChip (fun c => (c.writeOff f off.toNat v.toNat).settle)) := by
    rw [State.onChip_onChip]
    refine congrArg Host.Outcome.next (State.onChip_congr (congrArg Chip.settle ?_))
    rw [Chip.writeOff_of_resolve _ ho, ← hv, Chip.postedApply, if_neg (by simp [hl]), hw]
    rfl
  refine ⟨_, apply, exec_registerWrite_of_free off v fun _ => Tab.has_del_same _ _, fun m hm => ?_⟩
  rw [State.onChip_chip, State.onChip_chip, Chip.writeOff_of_resolve _ ho, calm.regWrite_posted hl h9 _ hm]
  exact Tab.look_del_same _ _
end

end Sys2Proof.Machine
end

section
/-! SUPPORT. CFG_UPDATE: what each group's step changes, and so what a mask's groups make of each block. -/

namespace Sys2Proof.Machine

/-! ### CFG_UPDATE (R671) -/

/-- What an update of group `g` brings about, step by step: ports for the groups 0 and 1, channels for 2 to 10, and the others. -/
theorem Chip.applyGroup_ind {P : Chip → Prop} {c : Chip} {g : Nat} (start : P c)
    (port : ∀ d n, g = n / 16 → P d → P (d.applyPort n))
    (chan : ∀ d k, g = 2 + k / 8 → P d → P (d.updateChannel k))
    (press : g = 11 → ∀ d p, P d → P (d.updatePress p))
    (bwr : g = 12 → P { c with bwr := { c.bwr with cfg := c.bwr.cfg.apply, thr := c.bwr.thr.apply } })
    (thm : g = 13 → P c.applyThm)
    (nvm : g = 14 → P { c with nvm := { c.nvm with cfg := c.nvm.cfg.apply } }) : P (c.applyGroup g) := by
  unfold Chip.applyGroup
  split
  · exact List.foldlRecOn _ _ start fun d hd n hn => port d n (by have := mem_below.mp hn; omega) hd
  · exact List.foldlRecOn _ _ start fun d hd n hn => port d n (by have := mem_upFrom.mp hn; omega) hd
  · exact List.foldlRecOn _ _ start fun d hd k hk => chan d k (by have := mem_upFrom.mp hk; omega) hd
  · exact List.foldlRecOn _ _ start fun d hd p _ => press rfl d p hd
  · exact bwr rfl
  · exact thm rfl
  · exact nvm rfl
  · exact start
  · rename_i h0 h1 _ _ _ _ _ _
    have : g ≠ 0 ∧ g ≠ 1 := ⟨h0, h1⟩
    split
    · exact List.foldlRecOn _ _ start fun d hd k hk => chan d k (by have := mem_upFrom.mp hk; omega) hd
    · exact start

/-! What the steps of an update change, and what they leave. -/

/-- The groups of ports, and those of channels, take the members of the group in order. -/
theorem Chip.applyGroup_ports (c : Chip) {g : Nat} (h : g < 2) : c.applyGroup g = (upFrom (16 * g) 16).foldl Chip.applyPort c := by
  match g, h with
  | 0, _ => rfl
  | 1, _ => rfl

theorem Chip.applyGroup_channels (c : Chip) {g : Nat} (h : 2 ≤ g) (h' : g ≤ 10) :
    c.applyGroup g = (upFrom (8 * (g - 2)) 8).foldl Chip.updateChannel c := by
  match g, h, h' with
  | 2, _, _ | 3, _, _ | 4, _, _ | 5, _, _ | 6, _, _ | 7, _, _ | 8, _, _ | 9, _, _ | 10, _, _ => rfl

/-- A port with PORT_CFG applied. -/
def Port.applied (p : Port) : Port := { p with cfg := p.cfg.apply }

theorem Chip.applyPort_port (c : Chip) (n : Nat) : (c.applyPort n).port n = (c.port n).applied := by
  unfold Chip.applyPort Port.applied
  split
  · rw [Chip.onPort_port_same]
  · rename_i h
    rw [Rws.apply_of_clean (by simpa using h)]

/-- A mark that an update waits moves no state to the save RAM. -/
theorem Chip.scanned_of_field {c t : Chip} (b : Nat)
    (h : t.boot.field = c.boot.field ∨ t.boot.field = c.boot.field.map FieldTest.deferred) : t.scanned b = c.scanned b := by
  rcases h with e | e
  · simp only [Chip.scanned, e]
  · simp only [Chip.scanned, e]
    cases c.boot.field <;> rfl

@[simp] theorem Chip.updateChannel_scanned (c : Chip) (k b : Nat) : (c.updateChannel k).scanned b = c.scanned b :=
  Chip.scanned_of_field b (c.updateChannel_updated k).field

@[simp] theorem Chip.deferUpdate_scanned (c : Chip) (b : Nat) : c.deferUpdate.scanned b = c.scanned b := Chip.scanned_of_field b (.inr rfl)

/-- CFG_UPDATE of a channel applies the shadows of its controller, unless a test holds the controller's state. -/
theorem Chip.updateChannel_chc (c : Chip) (k : Nat) :
    (c.updateChannel k).chc k = if c.scanned (176 + k) then c.chc k else (c.chc k).applyShadows := by
  have slice : ∀ d : Chip,
      (if 64 ≤ k then d else if d.scanned (112 + k) then d.deferUpdate else d.onSlice k Slice.applyShadows).chc k = d.chc k := by
    intro d
    split
    · rfl
    · split <;> rfl
  refine (slice _).trans ?_
  split
  · rfl
  · rw [Chip.onChc_chc_same]

/-- CFG_UPDATE of a data channel applies the shadow of its slice, unless a test holds the slice's state. -/
theorem Chip.updateChannel_slice (c : Chip) {k : Nat} (hk : k < 64) :
    (c.updateChannel k).slice k = if c.scanned (112 + k) then c.slice k else (c.slice k).applyShadows := by
  have chc : ∀ b, (if c.scanned (176 + k) then c.deferUpdate else c.onChc k Chc.applyShadows).scanned b = c.scanned b ∧
      (if c.scanned (176 + k) then c.deferUpdate else c.onChc k Chc.applyShadows).slice k = c.slice k := by
    intro b
    split
    · exact ⟨c.deferUpdate_scanned b, rfl⟩
    · exact ⟨rfl, rfl⟩
  obtain ⟨hs, hd⟩ := chc (112 + k)
  unfold Chip.updateChannel
  dsimp only
  rw [if_neg (by omega), hs]
  split
  · exact hd
  · rw [Chip.onSlice_slice_same, hd]

/-- CFG_UPDATE of a press changes nothing but the press, and the mark that an update waits. -/
theorem Chip.updatePress_frame (c : Chip) (p : Nat) :
    (c.updatePress p = { c with presses := (c.updatePress p).presses, boot := { c.boot with field := (c.updatePress p).boot.field } }) ∧
    (∀ q, q ≠ p → (c.updatePress p).press q = c.press q) ∧ ∀ b, (c.updatePress p).scanned b = c.scanned b := by
  unfold Chip.updatePress
  split
  · exact ⟨rfl, fun _ _ => rfl, c.deferUpdate_scanned⟩
  · exact ⟨rfl, fun q hq => by rw [Chip.onPress_press, if_neg hq], fun _ => rfl⟩

/-- CFG_UPDATE of a press applies its shadows, unless a test holds its state. -/
theorem Chip.updatePress_press (c : Chip) (p : Nat) :
    (c.updatePress p).press p = if c.scanned (248 + p) then c.press p else (c.press p).applyShadows := by
  unfold Chip.updatePress
  split
  · rfl
  · rw [Chip.onPress_press_same]

/-- A port but for its flit slots, which the pacing of R511 changes. -/
def Port.unpaced (p : Port) : Port := { p with slots := {} }

/-- The pacing of ports changes nothing of a port but its slots. -/
theorem Chip.repace_unpaced (c : Chip) (n : Nat) : (c.repace.port n).unpaced = (c.port n).unpaced :=
  Tab.get_map_rel (fun p q => q.unpaced = p.unpaced) {}
    (fun m p => { p with slots := { p.slots with pace := if c.paces m then (c.zone (26 + m / 4)).pace else 16 } }) c.ports n (fun _ _ => rfl) rfl

/-- CFG_UPDATE of THM's group changes nothing but THM and the pacing of ports. -/
theorem Chip.applyThm_frame (c : Chip) :
    c.applyThm = { c with thm := c.applyThm.thm, ports := c.applyThm.ports } ∧ c.applyThm.thm.cfg = c.thm.cfg.apply ∧
    ∀ n, (c.applyThm.port n).unpaced = (c.port n).unpaced := by
  unfold Chip.applyThm
  split
  · rename_i h
    exact ⟨rfl, (Rws.apply_of_clean (by simpa using h)).symm, fun _ => rfl⟩
  · exact ⟨rfl, rfl, Chip.repace_unpaced _⟩

/-! A port, a slice, a press and a controller are read off their tables. -/

theorem Chip.port_congr {c d : Chip} (h : d.ports = c.ports) (n : Nat) : d.port n = c.port n := by unfold Chip.port; rw [h]
theorem Chip.slice_congr {c d : Chip} (h : d.slices = c.slices) (n : Nat) : d.slice n = c.slice n := by unfold Chip.slice; rw [h]
theorem Chip.press_congr {c d : Chip} (h : d.presses = c.presses) (n : Nat) : d.press n = c.press n := by unfold Chip.press; rw [h]
theorem Chip.chc_congr {c d : Chip} (h : d.chcs = c.chcs) (n : Nat) : d.chc n = c.chc n := by unfold Chip.chc; rw [h]

/-! The parts that each step leaves. -/

@[simp] theorem Chip.applyPort_chc (c : Chip) (n j : Nat) : (c.applyPort n).chc j = c.chc j :=
  Chip.chc_congr (c := c) (congrArg Chip.chcs (c.applyPort_updated n).frame :) j
@[simp] theorem Chip.applyPort_slice (c : Chip) (n j : Nat) : (c.applyPort n).slice j = c.slice j :=
  Chip.slice_congr (c := c) (congrArg Chip.slices (c.applyPort_updated n).frame :) j
@[simp] theorem Chip.applyPort_press (c : Chip) (n j : Nat) : (c.applyPort n).press j = c.press j :=
  Chip.press_congr (c := c) (congrArg Chip.presses (c.applyPort_updated n).frame :) j
@[simp] theorem Chip.applyPort_boot (c : Chip) (n : Nat) : (c.applyPort n).boot = c.boot := (congrArg Chip.boot (c.applyPort_updated n).frame :)
@[simp] theorem Chip.applyPort_bwr (c : Chip) (n : Nat) : (c.applyPort n).bwr = c.bwr := (congrArg Chip.bwr (c.applyPort_updated n).frame :)
@[simp] theorem Chip.applyPort_thm (c : Chip) (n : Nat) : (c.applyPort n).thm = c.thm := (congrArg Chip.thm (c.applyPort_updated n).frame :)
@[simp] theorem Chip.applyPort_nvm (c : Chip) (n : Nat) : (c.applyPort n).nvm = c.nvm := (congrArg Chip.nvm (c.applyPort_updated n).frame :)
@[simp] theorem Chip.updateChannel_port (c : Chip) (k j : Nat) : (c.updateChannel k).port j = c.port j :=
  Chip.port_congr (c := c) (congrArg Chip.ports (c.updateChannel_updated k).frame :) j
@[simp] theorem Chip.updateChannel_press (c : Chip) (k j : Nat) : (c.updateChannel k).press j = c.press j :=
  Chip.press_congr (c := c) (congrArg Chip.presses (c.updateChannel_updated k).frame :) j
@[simp] theorem Chip.updateChannel_bwr (c : Chip) (k : Nat) : (c.updateChannel k).bwr = c.bwr :=
  (congrArg Chip.bwr (c.updateChannel_updated k).frame :)
@[simp] theorem Chip.updateChannel_thm (c : Chip) (k : Nat) : (c.updateChannel k).thm = c.thm :=
  (congrArg Chip.thm (c.updateChannel_updated k).frame :)
@[simp] theorem Chip.updateChannel_nvm (c : Chip) (k : Nat) : (c.updateChannel k).nvm = c.nvm :=
  (congrArg Chip.nvm (c.updateChannel_updated k).frame :)
@[simp] theorem Chip.updatePress_port (c : Chip) (p j : Nat) : (c.updatePress p).port j = c.port j :=
  Chip.port_congr (c := c) (congrArg Chip.ports (c.updatePress_frame p).1 :) j
@[simp] theorem Chip.updatePress_chc (c : Chip) (p j : Nat) : (c.updatePress p).chc j = c.chc j :=
  Chip.chc_congr (c := c) (congrArg Chip.chcs (c.updatePress_frame p).1 :) j
@[simp] theorem Chip.updatePress_slice (c : Chip) (p j : Nat) : (c.updatePress p).slice j = c.slice j :=
  Chip.slice_congr (c := c) (congrArg Chip.slices (c.updatePress_frame p).1 :) j
@[simp] theorem Chip.updatePress_bwr (c : Chip) (p : Nat) : (c.updatePress p).bwr = c.bwr := (congrArg Chip.bwr (c.updatePress_frame p).1 :)
@[simp] theorem Chip.updatePress_thm (c : Chip) (p : Nat) : (c.updatePress p).thm = c.thm := (congrArg Chip.thm (c.updatePress_frame p).1 :)
@[simp] theorem Chip.updatePress_nvm (c : Chip) (p : Nat) : (c.updatePress p).nvm = c.nvm := (congrArg Chip.nvm (c.updatePress_frame p).1 :)
@[simp] theorem Chip.applyThm_chc (c : Chip) (j : Nat) : c.applyThm.chc j = c.chc j :=
  Chip.chc_congr (c := c) (congrArg Chip.chcs c.applyThm_frame.1 :) j
@[simp] theorem Chip.applyThm_slice (c : Chip) (j : Nat) : c.applyThm.slice j = c.slice j :=
  Chip.slice_congr (c := c) (congrArg Chip.slices c.applyThm_frame.1 :) j
@[simp] theorem Chip.applyThm_press (c : Chip) (j : Nat) : c.applyThm.press j = c.press j :=
  Chip.press_congr (c := c) (congrArg Chip.presses c.applyThm_frame.1 :) j
@[simp] theorem Chip.applyThm_boot (c : Chip) : c.applyThm.boot = c.boot := (congrArg Chip.boot c.applyThm_frame.1 :)
@[simp] theorem Chip.applyThm_bwr (c : Chip) : c.applyThm.bwr = c.bwr := (congrArg Chip.bwr c.applyThm_frame.1 :)
@[simp] theorem Chip.applyThm_nvm (c : Chip) : c.applyThm.nvm = c.nvm := (congrArg Chip.nvm c.applyThm_frame.1 :)
@[simp] theorem Chip.applyPort_scanned (c : Chip) (n b : Nat) : (c.applyPort n).scanned b = c.scanned b :=
  Chip.scanned_of_field b (.inl (congrArg Boot.field (c.applyPort_boot n)))
@[simp] theorem Chip.updatePress_scanned (c : Chip) (p b : Nat) : (c.updatePress p).scanned b = c.scanned b := (c.updatePress_frame p).2.2 b
@[simp] theorem Chip.applyThm_scanned (c : Chip) (b : Nat) : c.applyThm.scanned b = c.scanned b :=
  Chip.scanned_of_field b (.inl (congrArg Boot.field c.applyThm_boot))

/-- A view in which of a mask's groups none tells but `i` is changed by CFG_UPDATE as that group changes it. -/
theorem Chip.cfgUpdate_view {γ : Type} (view : Chip → γ) (u : γ → γ) {c : Chip} (hl : c.live = true) (mask : BitVec 16)
    {i : Nat} (hi : i < 16) (other : ∀ d g, mask.getLsbD g = true → g ≠ i → view (d.applyGroup g) = view d)
    (here : ∀ d, view (d.applyGroup i) = u (view d)) :
    view (c.cfgUpdate mask.toNat) = if mask.getLsbD i then u (view c) else view c := by
  have bit : ∀ g, natBit mask.toNat g = mask.getLsbD g := fun g => natBit_eq_testBit _ _
  have e := view_foldl_upFrom view (fun x => if mask.getLsbD i then u x else x) (fun c g => if natBit mask.toNat g then c.applyGroup g else c)
    i 0 16 c
    (fun d g hg => by
      rw [bit]
      split
      · exact other d g ‹_› hg
      · rfl)
    (fun d => by
      rw [bit]
      split
      · exact here d
      · rfl)
  rw [if_pos (by omega)] at e
  rw [Chip.cfgUpdate, if_neg (by simp [hl])]
  exact e

/-- A block's shadows applied, unless a test holds its state: what an update makes of the block, beside the mark of that test. -/
def appliedUnless {α : Type} (f : α → α) (x : α × Bool) : α × Bool := (if x.2 then x.1 else f x.1, x.2)

/-- A block that took its shadows or not, as the mask and the test say. -/
theorem fst_appliedUnless {α : Type} (f : α → α) (b t : Bool) (a : α) :
    (if b then appliedUnless f (a, t) else (a, t)).1 = if b = true ∧ t = false then f a else a := by
  cases b <;> cases t <;> rfl

section
variable {c : Chip} (hl : c.live = true) (mask : BitVec 16) {γ : Type} (view : Chip → γ) (u : γ → γ)
include hl

/-- A view in which of all the steps only port `n`'s tells, and, where the mask names its group, THM's does not. -/
theorem Chip.cfgUpdate_view_port {n : Nat} (hn : n < 32) (chan : ∀ d k, view (d.updateChannel k) = view d)
    (press : ∀ d p, view (d.updatePress p) = view d) (bwr : ∀ (d : Chip) b, view { d with bwr := b } = view d)
    (thm : mask.getLsbD 13 = true → ∀ d, view d.applyThm = view d) (nvm : ∀ (d : Chip) x, view { d with nvm := x } = view d)
    (other : ∀ d m, m ≠ n → view (d.applyPort m) = view d) (here : ∀ d, view (d.applyPort n) = u (view d)) :
    view (c.cfgUpdate mask.toNat) = if mask.getLsbD (n / 16) then u (view c) else view c := by
  refine Chip.cfgUpdate_view view u hl mask (by omega) (fun d g hm hg => ?_) fun d => ?_
  · exact Chip.applyGroup_ind (P := fun e => view e = view d) rfl (fun e m _ he => (other e m (by omega)).trans he)
      (fun e k _ he => (chan e k).trans he) (fun _ e p he => (press e p).trans he) (fun _ => bwr d _) (fun h => thm (h ▸ hm) d)
      (fun _ => nvm d _)
  · rw [d.applyGroup_ports (by omega), view_foldl_upFrom view u Chip.applyPort n _ _ d other here, if_pos (by omega)]

/-- A view in which of all the steps only channel `k`'s tells. -/
theorem Chip.cfgUpdate_view_channel {k : Nat} (hk : k < 72) (port : ∀ d n, view (d.applyPort n) = view d)
    (press : ∀ d p, view (d.updatePress p) = view d) (bwr : ∀ (d : Chip) b, view { d with bwr := b } = view d)
    (thm : ∀ d, view d.applyThm = view d) (nvm : ∀ (d : Chip) x, view { d with nvm := x } = view d)
    (other : ∀ d j, j ≠ k → view (d.updateChannel j) = view d) (here : ∀ d, view (d.updateChannel k) = u (view d)) :
    view (c.cfgUpdate mask.toNat) = if mask.getLsbD (2 + k / 8) then u (view c) else view c := by
  refine Chip.cfgUpdate_view view u hl mask (by omega) (fun d g hm hg => ?_) fun d => ?_
  · exact Chip.applyGroup_ind (P := fun e => view e = view d) rfl (fun e m _ he => (port e m).trans he)
      (fun e j _ he => (other e j (by omega)).trans he) (fun _ e p he => (press e p).trans he) (fun _ => bwr d _) (fun _ => thm d)
      (fun _ => nvm d _)
  · rw [d.applyGroup_channels (by omega) (by omega), view_foldl_upFrom view u Chip.updateChannel k _ _ d other here, if_pos (by omega)]

end

section
variable {c : Chip} (hl : c.live = true) (mask : BitVec 16)
include hl

/-- What CFG_UPDATE makes of a port: PORT_CFG applied if the mask names its group, and the pacing of R511. -/
theorem Chip.cfgUpdate_unpaced {n : Nat} (hn : n < 32) : ((c.cfgUpdate mask.toNat).port n).unpaced =
    if mask.getLsbD (n / 16) then (c.port n).unpaced.applied else (c.port n).unpaced :=
  Chip.cfgUpdate_view_port hl mask (fun d => (d.port n).unpaced) Port.applied hn (fun _ _ => by simp) (fun _ _ => by simp) (fun _ _ => rfl)
    (fun _ d => d.applyThm_frame.2.2 n) (fun _ _ => rfl) (fun d m hm => by rw [(d.applyPort_updated m).others n hm.symm])
    (fun d => by rw [d.applyPort_port]; rfl)

/-- Of a port CFG_UPDATE changes PORT_CFG in force, if the mask names its group, and the slots. -/
theorem Chip.cfgUpdate_portCfg {n : Nat} (hn : n < 32) :
    ((c.cfgUpdate mask.toNat).port n).cfg = if mask.getLsbD (n / 16) then (c.port n).cfg.apply else (c.port n).cfg := by
  refine (congrArg Port.cfg (Chip.cfgUpdate_unpaced hl mask hn)).trans ?_
  rw [apply_ite Port.cfg]; rfl

theorem Chip.cfgUpdate_port_frame {n : Nat} (hn : n < 32) : (c.cfgUpdate mask.toNat).port n =
    { c.port n with cfg := ((c.cfgUpdate mask.toNat).port n).cfg, slots := ((c.cfgUpdate mask.toNat).port n).slots } := by
  generalize hp : (c.cfgUpdate mask.toNat).port n = p
  have u := congrArg (fun q : Port => { q with cfg := p.cfg, slots := p.slots }) (Chip.cfgUpdate_unpaced hl mask hn)
  rw [hp] at u
  refine Eq.trans u ?_
  split <;> rfl

/-- Without THM's group CFG_UPDATE makes no more of a port than to apply PORT_CFG, if the mask names its group. -/
theorem Chip.cfgUpdate_port {n : Nat} (hn : n < 32) (h13 : mask.getLsbD 13 = false) : (c.cfgUpdate mask.toNat).port n =
    if mask.getLsbD (n / 16) then (c.port n).applied else c.port n :=
  Chip.cfgUpdate_view_port hl mask (fun d => d.port n) Port.applied hn (fun _ _ => by simp) (fun _ _ => by simp) (fun _ _ => rfl)
    (fun h => by rw [h13] at h; cases h) (fun _ _ => rfl) (fun d m hm => (d.applyPort_updated m).others n hm.symm)
    (fun d => d.applyPort_port n)

/-- What CFG_UPDATE makes of a channel controller: its shadows applied if the mask names its group, but for one in a test. -/
theorem Chip.cfgUpdate_chc {k : Nat} (hk : k < 72) : (c.cfgUpdate mask.toNat).chc k =
    if mask.getLsbD (2 + k / 8) = true ∧ c.scanned (176 + k) = false then (c.chc k).applyShadows else c.chc k := by
  have e := Chip.cfgUpdate_view_channel hl mask (fun d => (d.chc k, d.scanned (176 + k))) (appliedUnless Chc.applyShadows) hk
    (fun _ _ => by simp) (fun _ _ => by simp) (fun _ _ => rfl) (fun _ => by simp) (fun _ _ => rfl)
    (fun d j hj => by rw [d.updateChannel_scanned, ((d.updateChannel_updated j).others k hj.symm).1])
    (fun d => by rw [d.updateChannel_scanned, d.updateChannel_chc]; rfl)
  exact (congrArg Prod.fst e).trans (fst_appliedUnless _ _ _ _)

/-- What CFG_UPDATE makes of a slice: its shadow applied if the mask names its channel's group, but for one in a test. -/
theorem Chip.cfgUpdate_slice {k : Nat} (hk : k < 64) : (c.cfgUpdate mask.toNat).slice k =
    if mask.getLsbD (2 + k / 8) = true ∧ c.scanned (112 + k) = false then (c.slice k).applyShadows else c.slice k := by
  have e := Chip.cfgUpdate_view_channel hl mask (fun d => (d.slice k, d.scanned (112 + k))) (appliedUnless Slice.applyShadows)
    (show k < 72 by omega) (fun _ _ => by simp) (fun _ _ => by simp) (fun _ _ => rfl) (fun _ => by simp) (fun _ _ => rfl)
    (fun d j hj => by rw [d.updateChannel_scanned, ((d.updateChannel_updated j).others k hj.symm).2])
    (fun d => by rw [d.updateChannel_scanned, d.updateChannel_slice hk]; rfl)
  exact (congrArg Prod.fst e).trans (fst_appliedUnless _ _ _ _)

/-- What CFG_UPDATE makes of a press: its shadows applied if the mask names the presses' group, but for one in a test. -/
theorem Chip.cfgUpdate_press {p : Nat} (hp : p < 16) : (c.cfgUpdate mask.toNat).press p =
    if mask.getLsbD 11 = true ∧ c.scanned (248 + p) = false then (c.press p).applyShadows else c.press p := by
  have group (d : Chip) := view_foldl_upFrom (fun d : Chip => (d.press p, d.scanned (248 + p))) (appliedUnless Press.applyShadows)
    Chip.updatePress p 0 16 d (fun e q hq => by rw [e.updatePress_scanned, (e.updatePress_frame q).2.1 p hq.symm])
    (fun e => by rw [e.updatePress_scanned, e.updatePress_press]; rfl)
  have e := Chip.cfgUpdate_view (fun d => (d.press p, d.scanned (248 + p))) (appliedUnless Press.applyShadows) hl mask (i := 11) (by omega)
    (fun d g _ hg => Chip.applyGroup_ind (P := fun e => (e.press p, e.scanned (248 + p)) = (d.press p, d.scanned (248 + p))) rfl
      (fun e m _ he => by simpa using he) (fun e k _ he => by simpa using he) (fun h => absurd h hg) (fun _ => rfl) (fun _ => by simp)
      (fun _ => rfl))
    (fun d => (group d).trans (if_pos (by omega)))
  exact (congrArg Prod.fst e).trans (fst_appliedUnless _ _ _ _)

/-- What CFG_UPDATE makes of BWR, THM's configuration and NVM: the shadows of each applied if the mask names its group. -/
theorem Chip.cfgUpdate_bwr : (c.cfgUpdate mask.toNat).bwr =
    if mask.getLsbD 12 then { c.bwr with cfg := c.bwr.cfg.apply, thr := c.bwr.thr.apply } else c.bwr :=
  Chip.cfgUpdate_view (·.bwr) (fun b => { b with cfg := b.cfg.apply, thr := b.thr.apply }) hl mask (by omega)
    (fun d g _ hg => Chip.applyGroup_ind (P := fun e => e.bwr = d.bwr) rfl (fun e m _ he => by simpa using he)
      (fun e k _ he => by simpa using he) (fun _ e p he => by simpa using he) (fun h => absurd h hg) (fun _ => by simp) (fun _ => rfl))
    (fun _ => rfl)

theorem Chip.cfgUpdate_thmCfg : (c.cfgUpdate mask.toNat).thm.cfg = if mask.getLsbD 13 then c.thm.cfg.apply else c.thm.cfg :=
  Chip.cfgUpdate_view (·.thm.cfg) Rws.apply hl mask (by omega)
    (fun d g _ hg => Chip.applyGroup_ind (P := fun e => e.thm.cfg = d.thm.cfg) rfl (fun e m _ he => by simpa using he)
      (fun e k _ he => by simpa using he) (fun _ e p he => by simpa using he) (fun _ => rfl) (fun h => absurd h hg) (fun _ => rfl))
    (fun d => d.applyThm_frame.2.1)

theorem Chip.cfgUpdate_nvm : (c.cfgUpdate mask.toNat).nvm = if mask.getLsbD 14 then { c.nvm with cfg := c.nvm.cfg.apply } else c.nvm :=
  Chip.cfgUpdate_view (·.nvm) (fun n => { n with cfg := n.cfg.apply }) hl mask (by omega)
    (fun d g _ hg => Chip.applyGroup_ind (P := fun e => e.nvm = d.nvm) rfl (fun e m _ he => by simpa using he)
      (fun e k _ he => by simpa using he) (fun _ e p he => by simpa using he) (fun _ => rfl) (fun _ => by simp) (fun h => absurd h hg))
    (fun _ => rfl)

end

/-- MGT_UPD_STROBE is a CFG_UPDATE of the groups of its mask. -/
theorem exec_mgtUpdStrobe {s : State} (mask : BitVec 16) (h : s.chip.mgt.posted.has (frameNo .mgt) = false) :
    exec (.mgtUpdStrobe mask) s = .next (s.onChip (·.cfgUpdate mask.toNat)) :=
  congrArg Host.Outcome.next (State.onChip_congr (Chip.atFrame_of_free _ fun _ => h))

end Sys2Proof.Machine
end

section
/-! SUPPORT. Locks, the error ring, and the pulses of posted frames. -/

namespace Sys2Proof.Machine

/-! ### WL fields (R17, R676) -/

/-- The first write of a WL field holds. -/
def Wl.first (w : Wl) (v : Nat) : Wl := if w.done then w else ⟨v % 2, true⟩

theorem Wl.write_low (w : Wl) (v : Nat) : w.write (natBits v 0 1) = w.first v := by simp [Wl.write, Wl.first, natBits]

section
variable {s : State} (f : Frame) (off : BitVec 12) (v : Word) (hp : isPosted f = true → s.chip.mgt.posted.has (frameNo f) = false)
include hp

/-- Where its frame takes it, WL_FIELD_WRITE is a write of the register, if that holds a WL field. -/
theorem exec_wlFieldWrite : exec (.wlFieldWrite f off v) s = .next (s.onChip (fun c => c.wlWrite f off.toNat v.toNat)) :=
  congrArg Host.Outcome.next (State.onChip_congr (Chip.atFrame_of_free _ hp))

/-- WL_FIELD_WRITE of a register with no WL field does nothing. -/
theorem exec_wlFieldWrite_of_not (h : ∀ o, resolve f off.toNat = some o → isWl f o = false) : exec (.wlFieldWrite f off v) s = .next s := by
  rw [exec_wlFieldWrite f off v hp, State.onChip_of_eq]
  unfold Chip.wlWrite
  split
  · rename_i o ho
    rw [h o ho]; rfl
  · rfl

/-- WL_FIELD_WRITE of a register with a WL field acts on the register. -/
theorem exec_wlFieldWrite_of_wl {o : Nat} (ho : resolve f off.toNat = some o) (hw : isWl f o = true) {g : Chip → Chip}
    (hg : s.chip.regWrite f o v.toNat = g s.chip) : exec (.wlFieldWrite f off v) s = .next (s.onChip g) := by
  rw [exec_wlFieldWrite f off v hp]
  refine congrArg Host.Outcome.next (State.onChip_congr ?_)
  rw [Chip.wlWrite, ho, ← hg]
  exact if_pos hw

end

/-- ADDR_MAP_CFG.REQ written outside the map wait: the first write holds, and no map changes (R193). -/
theorem Chip.mapReqWrite_of_not_waiting {c : Chip} (hl : c.live = true) (hw : c.addr.waiting = false) (v : Nat) :
    c.mapReqWrite v = { c with addr := if c.addr.reqSet then c.addr else { c.addr with req := v / 16 % 4, reqSet := true } } := by
  unfold Chip.mapReqWrite
  rw [if_neg (by simp [c.on_of_live hl])]
  have req : natBits v 4 2 = v / 16 % 4 := congrArg (· % 2 ^ 2) (Nat.shiftRight_eq_div_pow v 4)
  cases hr : c.addr.reqSet <;> simp [hw, req]

/-! ### The error ring (R481-R483) -/

/-- What a record's entry makes of the ring (R482). -/
theorem Ring.push_full {r : Ring} (us : Nat) (a : RingArgs) (h : r.unread = 1024) :
    (r.push us a).unread = 1024 ∧ (r.push us a).rd = (r.rd + 1) % 1024 ∧ (r.push us a).ovwr = bump32 r.ovwr := by
  simp [Ring.push, h]

theorem Ring.push_room {r : Ring} (us : Nat) (a : RingArgs) (h : r.unread < 1024) :
    (r.push us a).unread = r.unread + 1 ∧ (r.push us a).rd = r.rd ∧ (r.push us a).ovwr = r.ovwr := by
  have : (r.unread == 1024) = false := by simp; omega
  simp [Ring.push, this]

/-- The record stands at the write pointer, and every other where it stood. -/
theorem Ring.push_look (r : Ring) (us : Nat) (a : RingArgs) (i : Nat) :
    (r.push us a).recs.look i = if i = r.wr then some (ringWords r.seq us a) else r.recs.look i := Tab.look_put _ _ _ _

/-- A field whose value fits is shown in full. -/
theorem fld_of_lt {lo w v : Nat} (h : v < 2 ^ w) : fld lo w v = 2 ^ lo * v := by rw [fld, Nat.mod_eq_of_lt h, Nat.mul_comm]

/-- The eight words of a record whose arguments fit their fields (R481). -/
theorem ringWords_of_fit (seq us : Nat) {a : RingArgs} (ht : a.type < 2 ^ 8) (hc : a.cls < 2 ^ 2) (hs : a.source < 2 ^ 8)
    (hp : a.port < 2 ^ 5) (hg : a.tag < 2 ^ 10) (hr : a.row < 2 ^ 16) (hb : a.bank < 2 ^ 11) (hk : a.block < 2 ^ 4) :
    ringWords seq us a = [seq % 2 ^ 32, us % 2 ^ 32, us / 2 ^ 32 % 2 ^ 16 + 2 ^ 16 * a.type + 2 ^ 24 * a.cls,
      a.source + 2 ^ 8 * a.port + 2 ^ 13 * a.tag, a.row + 2 ^ 16 * a.bank + 2 ^ 27 * a.block,
      a.arg0 % 2 ^ 32, a.arg1 % 2 ^ 32, a.arg2 % 2 ^ 32] := by
  rw [ringWords, fld_of_lt ht, fld_of_lt hc, fld_of_lt hs, fld_of_lt hp, fld_of_lt hg, fld_of_lt hr, fld_of_lt hb, fld_of_lt hk]
  simp only [fld, Nat.pow_zero, Nat.mul_one, Nat.one_mul]

/-- The cellar book's copy of a record changes nothing of the ring. -/
theorem Chip.journal_ring (c : Chip) (area : Nat) (body : List Byte) : (c.journal area body).ring = c.ring := by
  unfold Chip.journal
  split
  · rfl
  · split
    · split <;> rfl
    · rfl

/-! ### Pulses of posted frames (R483, R549, R608) -/

/-- A pulse field of a posted frame that holds no write acts in a live block. -/
theorem Chip.atFrame_pulse {c : Chip} {f : Frame} (g : Chip → Chip) (hl : c.live = true) (hp : isPosted f = true)
    (hh : c.mgt.posted.has (frameNo f) = false) : c.atFrame f (·.pulse f g) = g c := by
  rw [Chip.atFrame_of_free _ (fun _ => hh), Chip.pulse_of_live c f g hl (c.frameHidden_of_posted f hp)]

theorem exec_errRingRdptrWrite {s : State} (hl : s.chip.live = true) (v : Word) (h : s.chip.mgt.posted.has (frameNo .err) = false) :
    exec (.errRingRdptrWrite v) s = .next (s.onChip (fun c => { c with ring := c.ring.release v.toNat })) :=
  congrArg Host.Outcome.next (State.onChip_congr (Chip.atFrame_pulse (fun c => { c with ring := c.ring.release v.toNat }) hl rfl h))

theorem exec_fusLockSet {s : State} (hl : s.chip.live = true) (v : Word) (h : s.chip.mgt.posted.has (frameNo .fus) = false) :
    exec (.fusLockSet v) s = .next (s.onChip (fun c => { c with fus := { c.fus with locked := c.fus.locked ||| v.toNat % 256 } })) :=
  congrArg Host.Outcome.next (State.onChip_congr (Chip.atFrame_pulse (fun c => { c with fus := c.fus.setLocks v.toNat }) hl rfl h))

/-- ERR_RING_RDPTR moves forward by what is unread at most (R483). -/
theorem Ring.release_eq (r : Ring) (v : Nat) : r.release v =
    if (v % 1024 + 1024 - r.rd) % 1024 ≤ r.unread then
      { r with rd := v % 1024, unread := r.unread - (v % 1024 + 1024 - r.rd) % 1024 }
    else r := rfl

/-- Test mode is entered where it is not locked and no port is active (R549). -/
theorem Chip.enterTestMode_of_free {c : Chip} (hl : c.live = true) (hv : c.boot.testLock.v = 0)
    (hp : ∀ n, n < 32 → (c.port n).state ≠ .active) : c.enterTestMode = { c with boot := { c.boot with testMode := true } } :=
  if_pos (by simpa [hl, hv] using hp)

/-- Test mode is not entered where it is locked or a port is active (R549). -/
theorem Chip.enterTestMode_of_barred {c : Chip} (h : c.boot.testLock.v ≠ 0 ∨ ∃ n, n < 32 ∧ (c.port n).state = .active) :
    c.enterTestMode = c := by
  refine if_neg ?_
  rcases h with h | ⟨n, hn, ha⟩
  · simp [h]
  · have : (below 32).any (fun n => (c.port n).state == .active) = true := List.any_eq_true.mpr ⟨n, by simpa using hn, by simp [ha]⟩
    simp [this]

end Sys2Proof.Machine
end

section
/-! SUPPORT. Reads that latch: the high word that a low word's read takes. -/

namespace Sys2Proof.Machine

/-! ### Reads that latch (R17, R596, R667) -/

/-- A word of a set of blocks has 32 bits. -/
theorem wordOf_lt (p : Nat → Bool) (k : Nat) : wordOf p k < 2 ^ 32 := by
  have digit : (fun i => flag i (p (32 * k + i))) = fun i => flagNat (p (32 * k + i)) * 2 ^ i := by
    funext i; cases p (32 * k + i) <;> simp [flag, flagNat]
  rw [wordOf, maskOf, digit]
  exact sumBelow_digits_lt 2 _ (fun i => by unfold flagNat; split <;> decide) 32

/-- FLT's latch of its eight status words gives each of them. -/
theorem natBits_statusWords (p : Nat → Bool) {i : Nat} (hi : i < 8) :
    natBits (sumBelow 8 (fun k => wordOf p k * 2 ^ (32 * k))) (32 * i) 32 = wordOf p i := by
  simp only [natBits, Nat.shiftRight_eq_div_pow, Nat.pow_mul]
  exact sumBelow_digit (2 ^ 32) (wordOf p) (wordOf_lt p) 8 i hi

/-- The high words of a slice's counters, of a class's bytes and of FLT's status stand at their offsets. -/
theorem Chip.readDct_high (c : Chip) (k : Nat) {i : Nat} (hi : i < 9) :
    c.readDct k (0x20 + 8 * i + 4) = ((c.slice k).cnts.getD i {}).latch := by
  match i, hi with
  | 0, _ | 1, _ | 2, _ | 3, _ | 4, _ | 5, _ | 6, _ | 7, _ | 8, _ => rfl

theorem Chip.readBwr_high (c : Chip) {i : Nat} (hi : i < 8) : c.readBwr (0x48 + 16 * i + 4) = (c.cls i).latch := by
  match i, hi with
  | 0, _ | 1, _ | 2, _ | 3, _ | 4, _ | 5, _ | 6, _ | 7, _ => rfl

theorem Chip.readFlt_status (c : Chip) {i : Nat} (h0 : 0 < i) (hi : i < 8) :
    c.readFlt (0x40 + 4 * i) = natBits c.flt.statusLatch (32 * i) 32 := by
  match i, h0, hi with
  | 1, _, _ | 2, _, _ | 3, _, _ | 4, _, _ | 5, _, _ | 6, _, _ | 7, _, _ => rfl

/-- The counter that a low word's read latches, and no other, takes its high word. -/
theorem Slice.latchCnt_latch (s : Slice) {i : Nat} (hi : i < 9) : ((s.latchCnt i).cnts.getD i {}).latch = (s.cnts.getD i {}).count / 2 ^ 32 := by
  match i, hi with
  | 0, _ | 1, _ | 2, _ | 3, _ | 4, _ | 5, _ | 6, _ | 7, _ | 8, _ => rfl

/-- A read changes nothing outside its frame's block. -/
theorem Chip.readLatch_onlyBlock (c : Chip) (f : Frame) (o : Nat) : OnlyBlock f c (c.readLatch f o) := by
  have same : OnlyBlock f c c := by
    cases f
    case hpa | prs => exact ⟨rfl, fun _ _ => rfl⟩
    case chc | dct => exact ⟨rfl, fun _ _ => ⟨rfl, rfl⟩⟩
    all_goals exact rfl
  unfold Chip.readLatch
  split
  · exact same
  cases f <;> dsimp only
  case dct k =>
    split
    · exact ⟨rfl, fun j hj => ⟨rfl, by rw [Chip.onSlice_slice, if_neg hj]⟩⟩
    · exact same
  case chc k =>
    split
    · exact ⟨rfl, fun j hj => ⟨by rw [Chip.onChc_chc, if_neg hj], rfl⟩⟩
    · exact same
  case prs p =>
    split
    · exact ⟨rfl, fun q hq => by rw [Chip.onPress_press, if_neg hq]⟩
    · exact same
  case bwr =>
    split
    · exact rfl
    · exact same
  case flt =>
    split
    · exact rfl
    · split
      · exact rfl
      · exact same
  all_goals exact same

/-! What each low word's read latches, which the high word then shows. -/

theorem Chip.readLatch_dct {c : Chip} {k : SliceIx} (hh : c.frameHidden (.dct k) = false) {i : Nat} (hi : i < 9) :
    (c.readLatch (.dct k) (0x20 + 8 * i)).regValue (.dct k) (0x20 + 8 * i + 4) = ((c.slice k.val).cnts.getD i {}).count / 2 ^ 32 := by
  have e : c.readLatch (.dct k) (0x20 + 8 * i) = c.onSlice k.val (·.latchCnt i) := by
    rw [Chip.readLatch, if_neg (by simp [hh])]
    show (if _ then _ else _) = _
    rw [if_pos (by simp [inRun]; omega), show (0x20 + 8 * i - 0x20) / 8 = i by omega]
  rw [e, Chip.regValue_dct (c := c.onSlice k.val _) (by omega) hh, Chip.readDct_high _ _ hi, Chip.onSlice_slice_same, Slice.latchCnt_latch _ hi]

theorem Chip.readLatch_chc {c : Chip} {k : ChcIx} (hh : c.frameHidden (.chc k) = false) :
    (c.readLatch (.chc k) 0x20).regValue (.chc k) 0x24 = (c.chc k.val).cntAct.count / 2 ^ 32 := by
  have e : c.readLatch (.chc k) 0x20 = c.onChc k.val (fun h => { h with cntAct := h.cntAct.latchHigh }) := if_neg (by simp [hh])
  rw [e, Chip.regValue_chc (c := c.onChc k.val _) (by decide) hh]
  simp [Chip.readChc, Cnt64.latchHigh, hiWord]

theorem Chip.readLatch_prs {c : Chip} {p : PressIx} (hh : c.frameHidden (.prs p) = false) :
    (c.readLatch (.prs p) 0x20).regValue (.prs p) 0x24 = (c.press p.val).cntChunk.count / 2 ^ 32 := by
  have e : c.readLatch (.prs p) 0x20 = c.onPress p.val (fun x => { x with cntChunk := x.cntChunk.latchHigh }) := if_neg (by simp [hh])
  rw [e, Chip.regValue_prs (c := c.onPress p.val _) (by decide) hh]
  simp [Chip.readPrs, Cnt64.latchHigh, hiWord]

theorem Chip.readLatch_bwr (c : Chip) {i : Nat} (hi : i < 8) :
    (c.readLatch .bwr (0x48 + 16 * i)).regValue .bwr (0x48 + 16 * i + 4) = (c.cls i).bytes / 2 ^ 32 := by
  have e : c.readLatch .bwr (0x48 + 16 * i) =
      { c with bwr := { c.bwr with cls := c.bwr.cls.upd {} i (fun x => { x with latch := hiWord x.bytes }) } } := by
    rw [Chip.readLatch, if_neg (by simp)]
    dsimp only
    rw [if_pos (by simp [inRun]; omega), show (0x48 + 16 * i - 0x40) / 16 = i by omega]
  rw [e, Chip.regValue_bwr (by omega), Chip.readBwr_high _ hi]
  simp [Chip.cls, hiWord]

theorem Chip.readLatch_flt_first {c : Chip} {x : First} (hx : c.flt.first = some x) (hd : x.done = true) :
    (c.readLatch .flt 0x0C).regValue .flt 0x10 = x.time / 2 ^ 32 % 2 ^ 16 := by
  have e : c.readLatch .flt 0x0C = { c with flt := { c.flt with firstLatch := natBits x.time 32 16 } } := by
    simp [Chip.readLatch, Chip.frameHidden_of_posted _ .flt rfl, hx, hd]
  rw [e, Chip.regValue_flt (by omega)]
  simp [Chip.readFlt, natBits, Nat.shiftRight_eq_div_pow]

theorem Chip.readLatch_flt_status {c : Chip} (hl : c.live = true) {i : Nat} (h0 : 0 < i) (hi : i < 8) :
    (c.readLatch .flt 0x40).regValue .flt (0x40 + 4 * i) = wordOf c.lineHigh i := by
  have bits : c.statusBit = c.lineHigh := by
    simp only [Chip.live, Bool.and_eq_true, Bool.not_eq_true'] at hl
    funext b
    simp [Chip.statusBit, hl]
  have e : c.readLatch .flt 0x40 =
      { c with flt := { c.flt with statusLatch := sumBelow 8 (fun k => wordOf c.lineHigh k * 2 ^ (32 * k)) } } := by
    simp [Chip.readLatch, Chip.frameHidden_of_posted _ .flt rfl, bits]
  rw [e, Chip.regValue_flt (by omega), Chip.readFlt_status _ h0 hi, natBits_statusWords _ hi]

/-- RLL_LOW_READ of a register is a read of it. -/
theorem exec_rllLowRead {s : State} {f : Frame} {off : BitVec 12} {o : Nat} (hl : s.chip.live = true) (ho : resolve f off.toNat = some o) :
    exec (.rllLowRead f off) s = .next (s.onChip (fun c => c.readLatch f o)) := by
  refine congrArg Host.Outcome.next (State.onChip_congr ?_)
  simp only [Chip.rllRead, hl, ho, Bool.not_true, Bool.false_eq_true, if_false]

end Sys2Proof.Machine
end

section
/-! SUPPORT. Writes of CHC_LANE_MAP and CHC_CAL_VAL. -/

namespace Sys2Proof.Machine

/-! ### Register writes of R440 -/

/-- The fields of CHC_LANE_MAP that a write takes: all bits but 6, 14, 22 and 30. -/
theorem laneMap_fields (v : Nat) : flag 31 (natBit v 31) + fld 24 6 (natBits v 24 6) + flag 23 (natBit v 23) + fld 16 6 (natBits v 16 6) +
    flag 15 (natBit v 15) + fld 8 6 (natBits v 8 6) + flag 7 (natBit v 7) + fld 0 6 (natBits v 0 6) = v &&& 0xBFBFBFBF := by
  simp (disch := decide) [Nat.add_assoc, fld_zero_natBits, fld_natBits_add_and, flag_natBit_add_and]

theorem natBit_laneMap (v : Nat) {b : Nat} (hb : b < 32) : natBit (v &&& 0xBFBFBFBF) b = (b % 8 != 6 && natBit v b) := by
  have mask : ∀ b < 32, Nat.testBit 0xBFBFBFBF b = (b % 8 != 6) := by decide
  rw [natBit_eq_testBit, natBit_eq_testBit, Nat.testBit_and, mask b hb, Bool.and_comm]

/-- A write of CHC_LANE_MAP, and LANE_MUX after it: at once in a training, else with the next REFab (R398, R401, R412). -/
def Pc.writeMap (pc : Pc) (x : Nat) : Pc :=
  let pc : Pc := { pc with laneMap := x }
  if pc.trains then { pc with laneMux := pc.muxWord, mrPend := pc.mrPend.del 0x40 }
  else { pc with changes := pc.changes ++ [⟨[], [(0x40, pc.muxWord)]⟩] }

theorem Pc.writeMap_laneMap (pc : Pc) (x : Nat) : (pc.writeMap x).laneMap = x := by
  unfold Pc.writeMap
  dsimp only
  split <;> rfl

theorem Chip.writeLaneMap_of_compares {c : Chip} (hl : c.live = true) {k p : Nat} (hm : (c.pc k p).mayCompare = true) (v : Nat) :
    c.writeLaneMap k p v = c.onPc k p (·.writeMap (v &&& 0xBFBFBFBF)) := by
  unfold Chip.writeLaneMap
  rw [if_pos (by simp [c.on_of_live hl, hm])]
  simp only [laneMap_fields]
  rfl

theorem Chip.writeLaneMap_of_not {c : Chip} {k p : Nat} (hm : (c.pc k p).mayCompare = false) (v : Nat) : c.writeLaneMap k p v = c :=
  if_neg (by simp [hm])

/-- The setting that CHC_CAL_SEL names has a key below 256. -/
theorem Chc.calSelected_key {h : Chc} {n p key : Nat} (hs : h.calSelected = some (n, p, key)) : key < 256 := by
  have lanes : ∀ g l, l < groupLanes g → 64 * g + l < 256 := by
    intro g l hl
    match g with
    | 0 | 1 | 2 => simp only [groupLanes] at hl; omega
    | g + 3 => simp only [groupLanes] at hl; omega
  unfold Chc.calSelected at hs
  dsimp only at hs
  split at hs
  · next h => cases hs; exact lanes _ _ h
  · cases hs

/-- A stored point of another setting stays. -/
theorem Pc.setPoint_point (pc : Pc) (n key : Nat) (x : Setting) (hk : key < 256) {i : Nat} (hi : i < 256) (hne : i ≠ key) (m : Nat) :
    (pc.setPoint n key x).point m i = pc.point m i :=
  Tab.get_put_other _ _ _ (by simp only [pointKey]; omega)

/-- A setting in force that has changed since training began is the changed value, else what the stored points give. -/
theorem Pc.setting_eq (pc : Pc) (i : Nat) :
    pc.setting i = (pc.inForce.look i).getD (pc.base.elim .default (fun t => pc.fromPoints t i)) := by
  unfold Pc.setting
  cases pc.inForce.look i <;> cases pc.base <;> rfl

/-- A write of a stored point changes no setting in force (R431, R440). -/
theorem Pc.setPoint_setting (pc : Pc) (n key : Nat) (x : Setting) (hk : key < 256) {i : Nat} (hi : i < 256) :
    (pc.setPoint n key x).setting i = pc.setting i := by
  have inForce : (pc.setPoint n key x).inForce = if pc.base.isSome then pc.inForce.put key (pc.setting key) else pc.inForce := rfl
  have base : (pc.setPoint n key x).base = pc.base := rfl
  rw [Pc.setting_eq, inForce, base]
  cases hb : pc.base with
  | none => rw [pc.setting_eq i, hb]; rfl
  | some t =>
    rw [Option.isSome_some, if_pos rfl, Tab.look_put]
    by_cases hik : i = key
    · rw [if_pos hik, hik, Option.getD_some]
    · have points : (pc.setPoint n key x).fromPoints t i = pc.fromPoints t i := by
        simp only [Pc.fromPoints, Pc.exact, pc.setPoint_point n key x hk hi hik]
      rw [if_neg hik, pc.setting_eq, hb, Option.elim_some, Option.elim_some, points]

/-- No change that waits holds the setting that has just been set in a training (R401). -/
theorem Pc.setOne_changes (pc : Pc) (key : Nat) (x : Setting) : ∀ y ∈ (pc.setOne key x).changes, ∀ e ∈ y.set, e.1 ≠ key := by
  intro y hy e he
  simp only [Pc.setOne, List.mem_map] at hy
  obtain ⟨z, -, rfl⟩ := hy
  exact Tab.key_ne_of_mem_del he

section
variable {c : Chip} (hl : c.live = true) {k : Nat} (v : Nat)
include hl

theorem Chip.writeCalVal_of_compares {p key : Nat} (hs : (c.chc k).calSelected = some (0, p, key)) (hm : (c.pc k p).mayCompare = true) :
    c.writeCalVal k v = c.onPc k p (·.setOne key ⟨natBits v 0 7, natBits v 8 6⟩) := by
  unfold Chip.writeCalVal
  simp only [c.on_of_live hl, hs]
  exact if_pos hm

theorem Chip.writeCalVal_of_not {p key : Nat} (hs : (c.chc k).calSelected = some (0, p, key)) (hm : (c.pc k p).mayCompare = false) :
    c.writeCalVal k v = c := by
  unfold Chip.writeCalVal
  simp only [c.on_of_live hl, hs]
  show (if (c.pc k p).mayCompare then _ else c) = c
  rw [hm]; rfl

omit hl in
theorem Chip.writeCalVal_of_none (hs : (c.chc k).calSelected = none) : c.writeCalVal k v = c := by
  simp only [Chip.writeCalVal, hs, ite_self]

theorem Chip.writeCalVal_point {n p key : Nat} (hs : (c.chc k).calSelected = some (n + 1, p, key)) :
    c.writeCalVal k v = c.onPc k p (·.setPoint (n + 1) key ⟨natBits v 0 7, natBits v 8 6⟩) := by
  unfold Chip.writeCalVal
  simp only [c.on_of_live hl, hs]
  rfl

end

end Sys2Proof.Machine
end

section
/-! Registers take writes, updates and latches as their access codes say (O57). -/

namespace Sys2Proof.Machine

/-! ### Register writes, updates and latches, as the statement puts them -/

section
variable {s : State} (hl : s.chip.live = true)
include hl

/-- The first write of each WL field holds and a later one changes nothing; elsewhere WL_FIELD_WRITE does nothing (R17, R676). -/
theorem exec_wlFieldWrite_first (f : Frame) (off : BitVec 12) (v : Word)
    (hp : isPosted f = true → s.chip.mgt.posted.has (frameNo f) = false) :
    let sets (g : Chip → Chip) : Prop := exec (.wlFieldWrite f off v) s = .next (s.onChip g)
    (f = .mgt → resolve f off.toNat = some 0x0C → sets (fun c => { c with mgt := { c.mgt with lock := c.mgt.lock.first v.toNat } })) ∧
    (f = .thm → resolve f off.toNat = some 0x0C → sets (fun c => { c with thm := { c.thm with lock := c.thm.lock.first v.toNat } })) ∧
    (f = .fus → resolve f off.toNat = some 0x08 → sets (fun c => { c with fus := { c.fus with progLock := c.fus.progLock.first v.toNat } })) ∧
    (f = .bst → resolve f off.toNat = some 0x10 →
      sets (fun c => { c with boot := { c.boot with testLock := c.boot.testLock.first v.toNat } })) ∧
    (f = .xbr → resolve f off.toNat = some 0x200 → s.chip.addr.waiting = false → sets (fun c => { c with addr :=
      if c.addr.reqSet then c.addr else { c.addr with req := v.toNat / 16 % 4, reqSet := true } })) := by
  have acts : ∀ {f}, s.chip.frameHidden f = false → ¬(!s.chip.live || s.chip.frameHidden f) = true := fun hh => by simp [hl, hh]
  refine ⟨?_, ?_, ?_, ?_, ?_⟩ <;> rintro rfl ho
  · refine exec_wlFieldWrite_of_wl _ _ _ hp ho rfl ((if_neg (acts (s.chip.frameHidden_of_posted .mgt rfl))).trans ?_)
    simp only [Chip.writeMgt, Wl.write_low]
  · refine exec_wlFieldWrite_of_wl _ _ _ hp ho rfl ((if_neg (acts (s.chip.frameHidden_of_posted .thm rfl))).trans ?_)
    simp only [Chip.writeThm, Wl.write_low]
  · refine exec_wlFieldWrite_of_wl _ _ _ hp ho rfl ((if_neg (acts (s.chip.frameHidden_of_posted .fus rfl))).trans ?_)
    simp only [Chip.writeFus, Wl.write_low]
  · refine exec_wlFieldWrite_of_wl _ _ _ hp ho rfl ((if_neg (acts (s.chip.frameHidden_of_posted .bst rfl))).trans ?_)
    simp only [Chip.writeBst, Wl.write_low]
  · intro hw
    exact exec_wlFieldWrite_of_wl _ _ _ hp ho rfl
      ((if_neg (acts s.chip.frameHidden_xbr)).trans (Chip.mapReqWrite_of_not_waiting hl hw _))

/-- A read of a low word latches the high word of its pair, or the other words of FLT's status, and changes nothing outside its block. -/
theorem exec_rllLowRead_latches (f : Frame) (off : BitVec 12) {o : Nat} (ho : resolve f off.toNat = some o)
    (hh : s.chip.frameHidden f = false) :
    ∃ t, exec (.rllLowRead f off) s = .next t ∧ t = { s with chip := t.chip } ∧ OnlyBlock f s.chip t.chip ∧
      (∀ k i, f = .dct k → i < 9 → o = 0x20 + 8 * i →
        t.chip.regValue f (o + 4) = ((s.chip.slice k.val).cnts.getD i {}).count / 2 ^ 32) ∧
      (∀ k, f = .chc k → o = 0x20 → t.chip.regValue f (o + 4) = (s.chip.chc k.val).cntAct.count / 2 ^ 32) ∧
      (∀ p, f = .prs p → o = 0x20 → t.chip.regValue f (o + 4) = (s.chip.press p.val).cntChunk.count / 2 ^ 32) ∧
      (∀ i, f = .bwr → i < 8 → o = 0x48 + 16 * i → t.chip.regValue f (o + 4) = (s.chip.cls i).bytes / 2 ^ 32) ∧
      (∀ x, f = .flt → o = 0x0C → s.chip.flt.first = some x → x.done = true → t.chip.regValue f (o + 4) = x.time / 2 ^ 32 % 2 ^ 16) ∧
      (∀ i, f = .flt → o = 0x40 → 0 < i → i < 8 → t.chip.regValue f (o + 4 * i) = wordOf s.chip.lineHigh i) := by
  refine ⟨_, exec_rllLowRead hl ho, rfl, s.chip.readLatch_onlyBlock f o, ?_, ?_, ?_, ?_, ?_, ?_⟩
  · rintro k i rfl hi rfl; exact Chip.readLatch_dct hh hi
  · rintro k rfl rfl; exact Chip.readLatch_chc hh
  · rintro p rfl rfl; exact Chip.readLatch_prs hh
  · rintro i rfl hi rfl; exact s.chip.readLatch_bwr hi
  · rintro x rfl rfl hx hd; exact Chip.readLatch_flt_first hx hd
  · rintro i rfl rfl h0 hi; exact Chip.readLatch_flt_status hl h0 hi

end

/-- A record enters the error ring, as the eight words of R481 (R482). -/
theorem Ring.push_takes_record (c : Chip) (r : Ring) (us : Nat) (a : RingArgs) (ht : a.type < 2 ^ 8) (hc : a.cls < 2 ^ 2)
    (hs : a.source < 2 ^ 8) (hp : a.port < 2 ^ 5) (hg : a.tag < 2 ^ 10) (hr : a.row < 2 ^ 16) (hb : a.bank < 2 ^ 11) (hk : a.block < 2 ^ 4) :
    let q := r.push us a
    q.recs.look r.wr = some [r.seq % 2 ^ 32, us % 2 ^ 32, us / 2 ^ 32 % 2 ^ 16 + 2 ^ 16 * a.type + 2 ^ 24 * a.cls,
      a.source + 2 ^ 8 * a.port + 2 ^ 13 * a.tag, a.row + 2 ^ 16 * a.bank + 2 ^ 27 * a.block,
      a.arg0 % 2 ^ 32, a.arg1 % 2 ^ 32, a.arg2 % 2 ^ 32] ∧
    (∀ i, i ≠ r.wr → q.recs.look i = r.recs.look i) ∧ q.wr = (r.wr + 1) % 1024 ∧ q.seq = (r.seq + 1) % 2 ^ 32 ∧
    (r.unread < 1024 → q.unread = r.unread + 1 ∧ q.rd = r.rd ∧ q.ovwr = r.ovwr) ∧
    (r.unread = 1024 → q.unread = 1024 ∧ q.rd = (r.rd + 1) % 1024 ∧ q.ovwr = bump32 r.ovwr) ∧
    (c.ringRec a).ring = c.ring.push c.us a := by
  refine ⟨?_, fun i hi => ?_, rfl, rfl, Ring.push_room us a, Ring.push_full us a, Chip.journal_ring _ _ _⟩
  · rw [r.push_look, if_pos rfl, ringWords_of_fit r.seq us ht hc hs hp hg hr hb hk]
  · rw [r.push_look, if_neg hi]

section
variable {s : State} {k : ChcIx} (hl : s.chip.live = true) (hh : s.chip.frameHidden (.chc k) = false)
include hl hh

/-- CHC_LANE_MAP takes a write while its pseudo-channel trains, and leaves it out otherwise (R440). -/
theorem exec_chcLaneMapWrite (p : PcIx) (v : Word) :
    ((s.chip.pc k.val p.val).mayCompare = true →
      exec (.chcLaneMapWrite k p v) s = .next (s.onChip (·.onPc k.val p.val (·.writeMap (v.toNat &&& 0xBFBFBFBF))))) ∧
    ((s.chip.pc k.val p.val).mayCompare = false → exec (.chcLaneMapWrite k p v) s = .next s) := by
  have e : exec (.chcLaneMapWrite k p v) s = .next (s.onChip (·.writeLaneMap k.val p.val v.toNat)) :=
    congrArg Host.Outcome.next (State.onChip_congr (s.chip.pulse_of_live _ _ hl hh))
  exact ⟨fun hm => e.trans (congrArg _ (State.onChip_congr (Chip.writeLaneMap_of_compares hl hm _))),
    fun hm => e.trans (congrArg _ (State.onChip_of_eq (Chip.writeLaneMap_of_not hm _)))⟩

/-- CHC_CAL_VAL_WRITE in a block that serves is a write of CHC_CAL_VAL. -/
theorem exec_chcCalValWrite (v : Word) : exec (.chcCalValWrite k v) s = .next (s.onChip (·.writeCalVal k.val v.toNat)) :=
  congrArg Host.Outcome.next (State.onChip_congr (s.chip.pulse_of_live _ _ hl hh))

/-- The setting in force that CHC_CAL_SEL names takes a write while its pseudo-channel trains. -/
theorem exec_chcCalValWrite_inForce (v : Word) {p key : Nat} (hs : (s.chip.chc k.val).calSelected = some (0, p, key))
    (hm : (s.chip.pc k.val p).mayCompare = true) :
    exec (.chcCalValWrite k v) s = .next (s.onChip (·.onPc k.val p (·.setOne key ⟨natBits v.toNat 0 7, natBits v.toNat 8 6⟩))) :=
  (exec_chcCalValWrite hl hh v).trans (congrArg _ (State.onChip_congr (Chip.writeCalVal_of_compares hl _ hs hm)))

/-- A stored point takes a write always. -/
theorem exec_chcCalValWrite_point (v : Word) {n p key : Nat} (hs : (s.chip.chc k.val).calSelected = some (n + 1, p, key)) :
    exec (.chcCalValWrite k v) s = .next (s.onChip (·.onPc k.val p (·.setPoint (n + 1) key ⟨natBits v.toNat 0 7, natBits v.toNat 8 6⟩))) :=
  (exec_chcCalValWrite hl hh v).trans (congrArg _ (State.onChip_congr (Chip.writeCalVal_point hl _ hs)))

end

/-- Settles O57: a write changes its frame's block alone and is read back through its mask, for in a calm block the only step that can follow
it is the taking of the shadow it wrote; each group of an update tells in its own block alone, so that the fold over the mask's groups comes
down to one step per block. -/
theorem registersTakeWrites : Obligations.RegistersTakeWrites := by
  unfold Obligations.RegistersTakeWrites
  refine ⟨fun s hl => ⟨fun f off v h h9 => exec_registerWrite_of_held hl h h9 f off v, fun f off v h h9 hp => ⟨?_, ?_⟩,
    ?_, ?_, ?_, ?_, ?_, ?_, ?_, ?_⟩, fun s k hl hh => ⟨?_, ?_⟩⟩
  · exact fun o m ho hm hh => exec_registerWrite_sets hl h h9 f off v hp ho hm hh
  · exact exec_registerWrite_of_idle h h9 f off v hp
  · exact fun f off v h h9 w hw ho hv => exec_postedWriteApply hl h h9 f off v hw ho hv
  · intro mask hp
    refine ⟨_, exec_mgtUpdStrobe mask hp, rfl, fun n hn => ⟨Chip.cfgUpdate_port hl mask hn, Chip.cfgUpdate_portCfg hl mask hn,
      Chip.cfgUpdate_port_frame hl mask hn⟩, fun k hk => ?_, fun k hk => Chip.cfgUpdate_slice hl mask hk,
      fun p hp => Chip.cfgUpdate_press hl mask hp, Chip.cfgUpdate_bwr hl mask, ?_, Chip.cfgUpdate_nvm hl mask⟩
    · rw [State.onChip_chip, Chip.cfgUpdate_chc hl mask hk]
      dsimp only
      split
      · exact ⟨rfl, rfl, rfl, rfl, rfl⟩
      · rfl
    · refine (Chip.cfgUpdate_thmCfg hl mask).trans ?_
      cases hd : s.chip.thm.cfg.dirty
      · simp [Rws.apply_of_clean hd]
      · simp
  · intro f off v hp
    obtain ⟨mgt, thm, fus, bst, xbr⟩ := exec_wlFieldWrite_first hl f off v hp
    exact ⟨mgt, thm, fus, bst, xbr, exec_wlFieldWrite_of_not f off v hp⟩
  · exact fun r us a => Ring.push_takes_record s.chip r us a
  · exact fun v he hf => ⟨⟨_, exec_errRingRdptrWrite hl v he, rfl, s.chip.ring.release_eq _⟩, exec_fusLockSet hl v hf⟩
  · exact fun hp hv ha => congrArg Host.Outcome.next
      (State.onChip_congr ((Chip.atFrame_of_free _ fun _ => hp).trans (Chip.enterTestMode_of_free hl hv ha)))
  · exact fun hp hb => congrArg Host.Outcome.next
      (State.onChip_of_eq ((Chip.atFrame_of_free _ fun _ => hp).trans (Chip.enterTestMode_of_barred hb)))
  · exact fun f off o ho hh => exec_rllLowRead_latches hl f off ho hh
  · intro p v
    obtain ⟨takes, leaves⟩ := exec_chcLaneMapWrite hl hh p v
    have pc := s.chip.onPc_pc_same k.val p.val (·.writeMap (v.toNat &&& 0xBFBFBFBF))
    exact ⟨fun hm => ⟨_, _, takes hm, (congrArg Pc.laneMap pc).trans (Pc.writeMap_laneMap _ _), pc, fun b hb => natBit_laneMap _ hb,
      fun q hq => by rw [State.onChip_chip, Chip.onPc_pc, if_neg (by simp [hq])]⟩, leaves⟩
  · intro v
    refine ⟨fun p key hs hm => ?_, fun p key hs hm => ?_, fun hs => ?_, fun n p key hs => ?_⟩
    · refine ⟨_, exec_chcCalValWrite_inForce hl hh v hs hm, ?_⟩
      rw [State.onChip_chip, Chip.onPc_pc_same]
      exact ⟨rfl, Pc.setOne_changes _ _ _⟩
    · exact (exec_chcCalValWrite hl hh v).trans (congrArg _ (State.onChip_of_eq (Chip.writeCalVal_of_not hl _ hs hm)))
    · exact (exec_chcCalValWrite hl hh v).trans (congrArg _ (State.onChip_of_eq (Chip.writeCalVal_of_none _ hs)))
    · refine ⟨_, exec_chcCalValWrite_point hl hh v hs, ?_⟩
      rw [State.onChip_chip, Chip.onPc_pc_same]
      exact ⟨rfl, fun i hi => Pc.setPoint_setting _ _ _ _ (Chc.calSelected_key hs) hi⟩

end Sys2Proof.Machine
end

section
/-! SUPPORT. Retirement: what its records leave, why it is refused, and what it makes of the block once it is accepted. -/

namespace Sys2Proof.Machine

/-! ### Records of a retirement (R472, R474, R481) -/

/-- The cellar book's copy of a record changes nothing but NVM. -/
theorem Chip.journal_frame (c : Chip) (area : Nat) (body : List Byte) : ∃ n, c.journal area body = { c with nvm := n } := by
  unfold Chip.journal
  split
  · exact ⟨_, rfl⟩
  · split
    · split <;> exact ⟨_, rfl⟩
    · exact ⟨_, rfl⟩

/-- A record changes nothing but the ring, which takes it, and NVM. -/
theorem Chip.ringRec_frame (c : Chip) (a : RingArgs) : ∃ n, c.ringRec a = { c with ring := c.ring.push c.us a, nvm := n } :=
  Chip.journal_frame _ _ _

/-- An item of the retirement log changes nothing but NVM. -/
theorem Chip.logRetire_frame (c : Chip) (item v : Nat) (what : NvmFor) : ∃ n, c.logRetire item v what = { c with nvm := n } := by
  unfold Chip.logRetire
  split <;> exact ⟨_, rfl⟩

/-- A retirement's racking joins its die's queue last (R475). -/
theorem Chip.queueRack_queue (c : Chip) {j : RackJob} (h : j.kind ≠ .rescue) :
    ((c.queueRack j).die (j.bank / 128)).queue = (c.die (j.bank / 128)).queue ++ [j] := by
  have last : (j.kind == .rescue) = false := beq_eq_false_iff_ne.mpr h
  simp only [Chip.queueRack, Chip.onDie_die_same, last, Bool.false_eq_true, if_false]

/-! ### The answer to a retirement -/

/-- A packet names the command whose row takes it. -/
theorem Chip.Takes.cmd_eq {c c' : Chip} {via : Via} {cmd : Nat} {m : MgtPkt} (h : c.Takes via cmd m c') : m.cmd = cmd := by
  have ht := h.take
  unfold Chip.take Chip.takeHw Chip.takeIlael at ht
  dsimp only at ht
  split at ht
  case isTrue hw =>
    split at ht
    · split at ht
      · next k _ _ fits =>
        obtain ⟨rfl, _⟩ := Prod.mk.inj (Option.some.inj ht)
        simp only [Bool.and_eq_true, beq_iff_eq] at fits
        exact fits.1
      · cases ht
    · cases ht
  case isFalse ilael =>
    split at ht
    · cases ht
    · split at ht
      · split at ht
        · next k _ _ fits =>
          obtain ⟨rfl, _⟩ := Prod.mk.inj (Option.some.inj ht)
          simp only [Bool.and_eq_true, beq_iff_eq] at fits
          exact fits.1
        · cases ht
      · cases ht

/-- From `c` to `t` packet `m` is answered, and the block is as calm as it was, with boot where it stood. -/
structure Chip.Answers (c t : Chip) (m : MgtPkt) (rc arg : Nat) : Prop where
  replied : Replied c t m rc arg []
  calm    : c.Calm → t.Calm
  boot    : t.boot = c.boot

/-- A retirement is refused: the address map and the racking queues stay as they were. -/
structure Chip.RefusesRetire (c t : Chip) (m : MgtPkt) (reason : Nat) : Prop extends c.Answers t m 6 reason where
  addr : t.addr = c.addr
  dies : t.dies = c.dies

/-- A retirement is accepted: the address map becomes `a`, racking `j` joins its die's queue, and the error ring takes `rec`. -/
structure Chip.AcceptsRetire (c t : Chip) (m : MgtPkt) (a : Addr) (j : RackJob) (rec : RingArgs) : Prop
    extends c.Answers t m 0 j.entry where
  addr  : t.addr = a
  queue : (t.die (j.bank / 128)).queue = (c.die (j.bank / 128)).queue ++ [j]
  ring  : t.ring = c.ring.push c.us rec

/-- In a calm block that is ready nothing follows an event. -/
theorem Chip.settle_of_ready {c : Chip} (h : c.Calm) (hr : c.boot.st = .ready) : c.settle = c :=
  c.settle_eq h (by simp [Chip.inStep, hr])

/-! What a reply leaves. -/

@[simp] theorem Chip.reply_boot (c : Chip) (m : MgtPkt) (rc arg : Nat) (data : List Byte) : (c.reply m rc arg data).boot = c.boot := by
  obtain ⟨x, g, e, _⟩ := c.reply_frame m rc arg data; rw [e]
@[simp] theorem Chip.reply_addr (c : Chip) (m : MgtPkt) (rc arg : Nat) (data : List Byte) : (c.reply m rc arg data).addr = c.addr := by
  obtain ⟨x, g, e, _⟩ := c.reply_frame m rc arg data; rw [e]
@[simp] theorem Chip.reply_dies (c : Chip) (m : MgtPkt) (rc arg : Nat) (data : List Byte) : (c.reply m rc arg data).dies = c.dies := by
  obtain ⟨x, g, e, _⟩ := c.reply_frame m rc arg data; rw [e]
@[simp] theorem Chip.reply_ring (c : Chip) (m : MgtPkt) (rc arg : Nat) (data : List Byte) : (c.reply m rc arg data).ring = c.ring := by
  obtain ⟨x, g, e, _⟩ := c.reply_frame m rc arg data; rw [e]

/-- A reply answers its packet, whatever became of the address map, the racking queues, the ring and NVM. -/
theorem Chip.answers_reply (c : Chip) (a : Addr) (ds : Tab DieCtx) (r : Ring) (n : Nvm) (m : MgtPkt) (rc arg : Nat) :
    c.Answers (({ c with addr := a, dies := ds, ring := r, nvm := n } : Chip).reply m rc arg []) m rc arg where
  replied := replied_of_reply { c with addr := a, dies := ds, ring := r, nvm := n } m rc arg []
  calm h :=
    have calm : ({ c with addr := a, dies := ds, ring := r, nvm := n } : Chip).Calm :=
      h.of_eq rfl rfl rfl rfl (fun _ => rfl) (fun _ => rfl) (fun _ => id) (fun _ => id)
    calm.reply m rc arg []
  boot := Chip.reply_boot _ m rc arg []

/-! ### A retirement is refused (R469, R471, R474) -/

/-- A refused retirement changes neither map nor queue. -/
theorem Chip.refusesRetire_refuseRetire (c : Chip) (m : MgtPkt) (row : Bool) (bank r reason : Nat) :
    c.RefusesRetire (c.refuseRetire m row bank r reason) m reason := by
  obtain ⟨ring, n, e⟩ : ∃ ring n, c.refuseRetire m row bank r reason = ({ c with ring := ring, nvm := n } : Chip).refuse m reason := by
    unfold Chip.refuseRetire
    split
    · obtain ⟨n, e⟩ := c.ringRec_frame
        { type := 0x05, cls := 0, source := 2, bank := bank, row := if row then r else 0, arg0 := if row then 0 else 1, arg1 := reason }
      exact ⟨_, n, congrArg (Chip.refuse · m reason) e⟩
    · exact ⟨_, _, rfl⟩
  rw [e]
  exact ⟨c.answers_reply c.addr c.dies ring n m 6 reason, Chip.reply_addr _ m 6 reason [], Chip.reply_dies _ m 6 reason []⟩

/-- The order that Ilael gives itself after a refusal takes nothing of the refusal back (R460). -/
theorem Chip.RefusesRetire.selfOrder {c t : Chip} {m : MgtPkt} {reason : Nat} (h : c.RefusesRetire t m reason) (cmd : Nat)
    (params : List Byte) : c.RefusesRetire (t.selfOrder cmd params) m reason where
  replied := h.replied
  calm hc := (h.calm hc).of_eq rfl rfl rfl rfl (fun _ => rfl) (fun _ => rfl) (fun _ => id) (fun _ => id)
  boot := h.boot
  addr := h.addr
  dies := h.dies

/-- RETIRE_ROW or RETIRE_BANK. -/
def Chip.doRetire (isRow : Bool) : Chip → MgtPkt → Chip := if isRow then Chip.doRetireRow else Chip.doRetireBank

/-- The entry that a retirement takes (R208, R469). -/
def Chip.spareEntry (c : Chip) (isRow : Bool) (bank : Nat) : Option Nat := if isRow then c.freeRow bank else c.packEntry

section
variable {c : Chip} (isRow : Bool) {m : MgtPkt}

/-- While the book is closed a retirement is refused NVM_FAILED. -/
theorem Chip.doRetire_of_closed (closed : c.nvmOpen = false) : c.RefusesRetire (c.doRetire isRow m) m 0x11 := by
  have refuse (row : Nat) := c.refusesRetire_refuseRetire m isRow (m.par 0 2) row 0x11
  cases isRow <;>
    simpa only [Chip.doRetire, Chip.doRetireRow, Chip.doRetireBank, closed,
      Bool.not_false, Bool.false_eq_true, if_true, if_false] using refuse _

variable (isOpen : c.nvmOpen = true)
include isOpen

/-- A retirement of a bank unserved or remapped is refused NOT_RETIRABLE. -/
theorem Chip.doRetire_of_notRetirable (barred : c.notRetirable (m.par 0 2) = true) : c.RefusesRetire (c.doRetire isRow m) m 8 := by
  have refuse (row : Nat) := c.refusesRetire_refuseRetire m isRow (m.par 0 2) row 8
  cases isRow <;>
    simpa only [Chip.doRetire, Chip.doRetireRow, Chip.doRetireBank, isOpen, barred,
      Bool.not_true, Bool.false_eq_true, if_true, if_false] using refuse _

variable (retirable : c.notRetirable (m.par 0 2) = false)
include retirable

/-- With 64 retirements pending on the bank's die another is refused BUSY. -/
theorem Chip.doRetire_of_full (full : 64 ≤ (c.die (m.par 0 2 / 128)).pending) : c.RefusesRetire (c.doRetire isRow m) m 1 := by
  have refuse (row : Nat) := c.refusesRetire_refuseRetire m isRow (m.par 0 2) row 1
  cases isRow <;>
    simpa only [Chip.doRetire, Chip.doRetireRow, Chip.doRetireBank, isOpen, retirable, full,
      Bool.not_true, Bool.false_eq_true, if_true, if_false] using refuse _

variable (room : (c.die (m.par 0 2 / 128)).pending < 64)
include room

/-- With no entry left a retirement is refused NO_SPARE, after which Ilael may order its bank's retirement (R460). -/
theorem Chip.doRetire_of_spent (spent : c.spareEntry isRow (m.par 0 2) = none) : c.RefusesRetire (c.doRetire isRow m) m 9 := by
  have refuse (row : Nat) := c.refusesRetire_refuseRetire m isRow (m.par 0 2) row 9
  cases isRow with
  | true =>
    have spent : c.freeRow (m.par 0 2) = none := spent
    have run : c.doRetire true m = let d := c.refuseRetire m true (m.par 0 2) (m.par 4 4) 9
        if m.path = 4 then d.selfOrder 0x21 (leBytes 2 (m.par 0 2)) else d := by
      simp only [Chip.doRetire, Chip.doRetireRow, isOpen, retirable, Nat.not_le.mpr room, spent,
        Bool.not_true, Bool.false_eq_true, if_true, if_false]
    rw [run]
    dsimp only
    split
    · exact (refuse _).selfOrder _ _
    · exact refuse _
  | false =>
    have spent : c.packEntry = none := spent
    simpa only [Chip.doRetire, Chip.doRetireBank, isOpen, retirable, Nat.not_le.mpr room, spent,
      Bool.not_true, Bool.false_eq_true, if_true, if_false] using refuse 0

end

/-! ### A retirement is accepted (R208, R469-R472) -/

/-- Once its entry is marked a retirement queues its racking, logs its start, puts its record into the ring and is answered. -/
theorem Chip.acceptsRetire_start (c : Chip) (m : MgtPkt) (a : Addr) {j : RackJob} (hk : j.kind ≠ .rescue) (item v : Nat) (what : NvmFor)
    (rec : RingArgs) :
    c.AcceptsRetire ((((({ c with addr := a } : Chip).queueRack j).logRetire item v what).ringRec rec).reply m 0 j.entry []) m a j rec := by
  obtain ⟨_, el⟩ := Chip.logRetire_frame (({ c with addr := a } : Chip).queueRack j) item v what
  obtain ⟨n, er⟩ := Chip.ringRec_frame ((({ c with addr := a } : Chip).queueRack j).logRetire item v what) rec
  rw [er, el]
  refine ⟨c.answers_reply a (c.queueRack j).dies (c.ring.push c.us rec) n m 0 j.entry, Chip.reply_addr _ m 0 j.entry [], ?_,
    Chip.reply_ring _ m 0 j.entry []⟩
  rw [Chip.die, Chip.reply_dies]
  exact c.queueRack_queue hk

/-- The racking of a retirement that takes entry `e`. -/
def Chip.retireJob (c : Chip) (isRow : Bool) (m : MgtPkt) (e : Nat) : RackJob :=
  if isRow then { kind := .row, bank := m.par 0 2, row := m.par 4 4, entry := e, prev := c.prevEntry (m.par 0 2) (m.par 4 4) }
  else { kind := .bank, bank := m.par 0 2, row := 0, entry := e }

/-- The address map with the entry `e` that a retirement takes marked as racking. -/
def Chip.retireMap (c : Chip) (isRow : Bool) (m : MgtPkt) (e : Nat) : Addr :=
  if isRow then (c.setRowmap e { valid := true, racking := true, row := m.par 4 4 }).addr
  else (c.setRemap e { valid := true, cause := 3, racking := true, bank := m.par 0 2 }).addr

/-- RETIRE_STARTED of a racking. -/
def retireStarted (isRow : Bool) (j : RackJob) : RingArgs :=
  { type := 0x03, cls := 0, source := 2, row := j.row, bank := j.bank, arg0 := if isRow then 0 else 1, arg1 := j.entry }

/-- A retirement that nothing bars takes the entry it finds. -/
theorem Chip.doRetire_accepts {c : Chip} (isRow : Bool) {m : MgtPkt} {e : Nat} (isOpen : c.nvmOpen = true)
    (retirable : c.notRetirable (m.par 0 2) = false) (room : (c.die (m.par 0 2 / 128)).pending < 64)
    (spare : c.spareEntry isRow (m.par 0 2) = some e) :
    c.AcceptsRetire (c.doRetire isRow m) m (c.retireMap isRow m e) (c.retireJob isRow m e) (retireStarted isRow (c.retireJob isRow m e)) := by
  cases isRow with
  | true =>
    have spare : c.freeRow (m.par 0 2) = some e := spare
    have run : c.doRetire true m = (c.acceptRow (m.par 0 2) (m.par 4 4) e).reply m 0 e [] := by
      simp only [Chip.doRetire, Chip.doRetireRow, isOpen, retirable, Nat.not_le.mpr room, spare,
        Bool.not_true, Bool.false_eq_true, if_true, if_false]
    rw [run]
    exact c.acceptsRetire_start m (c.retireMap true m e) (j := c.retireJob true m e) nofun _ _ _ _
  | false =>
    have spare : c.packEntry = some e := spare
    have run : c.doRetire false m = (c.acceptBank (m.par 0 2) e).reply m 0 e [] := by
      simp only [Chip.doRetire, Chip.doRetireBank, isOpen, retirable, Nat.not_le.mpr room, spare,
        Bool.not_true, Bool.false_eq_true, if_false]
    rw [run]
    exact c.acceptsRetire_start m (c.retireMap false m e) (j := c.retireJob false m e) nofun _ _ _ _

end Sys2Proof.Machine
end

section
/-! RETIRE_ROW and RETIRE_BANK take an entry or are refused (O54). -/

namespace Sys2Proof.Machine

/-- After a retirement that Ilael grants in a calm block the block is as the command itself leaves it. -/
theorem Chip.Grants.settle_doRetire {c c' : Chip} {via : Via} {cmd l : Nat} {m : MgtPkt} (h : c.Grants via cmd m c' l) (hc : c.Calm)
    (hcmd : cmd = 0x20 ∨ cmd = 0x21) {body : Chip → MgtPkt → Chip} {rc arg : Nat} (answers : c'.Answers (body c' m) m rc arg) :
    (c.commandOf via cmd (immCmd body)).settle = body c' m := by
  have ready : c.boot.st = .ready := by
    rcases hcmd with rfl | rfl <;> simpa [isHwCmd, Chip.ilaelReady] using h.ready
  have boot : c'.boot = c.boot := by
    obtain ⟨q, r, x, rfl⟩ := c.take_frame c' via cmd _ m h.take
    rfl
  rw [Chip.commandOf_of_grants h h.toTakes.cmd_eq, immCmd]
  exact Chip.settle_of_ready (answers.calm (hc.take h.toTakes)) (by rw [answers.boot, boot, ready])

/-- A retirement command that is granted. -/
def Chip.GrantsRetire (c : Chip) (i : Instr) (via : Via) (isRow : Bool) (m : MgtPkt) (c' : Chip) (l : Nat) : Prop :=
  i = .retireRow via ∧ isRow = true ∧ c.Grants via 0x20 m c' l ∨ i = .retireBank via ∧ isRow = false ∧ c.Grants via 0x21 m c' l

/-- A granted retirement runs on the block that its packet has been taken from. -/
theorem Chip.GrantsRetire.exec_eq {s : State} {i : Instr} {via : Via} {isRow : Bool} {m : MgtPkt} {c : Chip} {l : Nat}
    (h : s.chip.GrantsRetire i via isRow m c l) (hc : s.chip.Calm) {rc arg : Nat} (answers : c.Answers (c.doRetire isRow m) m rc arg) :
    exec i s = .next (s.onChip fun _ => c.doRetire isRow m) := by
  rcases h with ⟨rfl, rfl, hg⟩ | ⟨rfl, rfl, hg⟩
  · exact congrArg Host.Outcome.next (State.onChip_congr (hg.settle_doRetire hc (.inl rfl) answers))
  · exact congrArg Host.Outcome.next (State.onChip_congr (hg.settle_doRetire hc (.inr rfl) answers))

/-- Taking a retirement's packet changes nothing but what waits for the interpreters. -/
theorem Chip.GrantsRetire.frame {c c' : Chip} {i : Instr} {via : Via} {isRow : Bool} {m : MgtPkt} {l : Nat}
    (h : c.GrantsRetire i via isRow m c' l) : ∃ q r x, c' = { c with mgt := { c.mgt with queue := q, rsm := r, rsmLast := x } } := by
  rcases h with ⟨_, _, hg⟩ | ⟨_, _, hg⟩ <;> exact c.take_frame c' via _ _ m hg.take

section
variable {s : State} {i : Instr} {via : Via} {isRow : Bool} {m : MgtPkt} {c : Chip} {l : Nat} (g : s.chip.GrantsRetire i via isRow m c l)
  (hc : s.chip.Calm)
include g hc

/-- What a refusal leaves of the state before the packet was taken. -/
theorem Chip.GrantsRetire.exec_refuses {reason : Nat} (h : c.RefusesRetire (c.doRetire isRow m) m reason) :
    ∃ t, exec i s = .next t ∧ Replied s.chip t.chip m 6 reason [] ∧ t.chip.addr = s.chip.addr ∧ t.chip.dies = s.chip.dies ∧
      t.mem = s.mem := by
  have run := g.exec_eq hc h.toAnswers
  obtain ⟨q, r, x, rfl⟩ := g.frame
  exact ⟨_, run, h.replied, h.addr, h.dies, rfl⟩

/-- What an acceptance makes of the state before the packet was taken. -/
theorem Chip.GrantsRetire.exec_accepts {a : Addr} {j : RackJob} {rec : RingArgs}
    (h : c.AcceptsRetire (c.doRetire isRow m) m a j rec) :
    ∃ t, exec i s = .next t ∧ Replied s.chip t.chip m 0 j.entry [] ∧ t.mem = s.mem ∧
      (t.chip.die (j.bank / 128)).queue = (s.chip.die (j.bank / 128)).queue ++ [j] ∧ t.chip.ring = s.chip.ring.push s.chip.us rec ∧
      t.chip.addr = a := by
  have run := g.exec_eq hc h.toAnswers
  obtain ⟨q, r, x, rfl⟩ := g.frame
  exact ⟨_, run, h.replied, rfl, h.queue, h.ring, h.addr⟩

end

/-- Settles O54: the refusals are taken in their order, each a reply that leaves map and queues alone; past them the entry found is marked,
its racking queued and its record put into the ring before the reply, and in a calm block that is ready nothing follows either. -/
theorem retirementsTakeEntries : Obligations.RetirementsTakeEntries := by
  unfold Obligations.RetirementsTakeEntries
  intro s via m c l i isRow hc granted
  replace granted : s.chip.GrantsRetire i via isRow m c l := granted
  obtain ⟨q, r, x, rfl⟩ := granted.frame
  refine ⟨fun closed => granted.exec_refuses hc (Chip.doRetire_of_closed isRow closed),
    fun isOpen barred => granted.exec_refuses hc (Chip.doRetire_of_notRetirable isRow isOpen barred),
    fun isOpen retirable full => granted.exec_refuses hc (Chip.doRetire_of_full isRow isOpen retirable full),
    fun ⟨isOpen, retirable, room⟩ spent => granted.exec_refuses hc (Chip.doRetire_of_spent isRow isOpen retirable room spent),
    fun e ⟨isOpen, retirable, room⟩ spare => ?_⟩
  obtain ⟨t, run, replied, mem, queue, ring, addr⟩ :=
    granted.exec_accepts hc (Chip.doRetire_accepts isRow isOpen retirable room spare)
  cases isRow with
  | true =>
    refine ⟨t, _, run, replied, mem, queue, rfl, rfl, rfl, ring, fun _ => ⟨rfl, ?_, fun y hy => ?_⟩, nofun⟩
    · rw [Chip.rowmapE, addr]
      exact Tab.get_put_same _ _ _ _
    · rw [Chip.rowmapE, addr]
      exact Tab.get_put_other _ _ _ hy
  | false =>
    refine ⟨t, _, run, replied, mem, queue, rfl, rfl, rfl, ring, nofun, fun _ => ⟨rfl, ?_, fun y hy => ?_⟩⟩
    · rw [Chip.remapE, addr]
      exact Tab.get_put_same _ _ _ _
    · rw [Chip.remapE, addr]
      exact Tab.get_put_other _ _ _ hy

end Sys2Proof.Machine
end

section
/-! SUPPORT. Accesses that go on from slices to pseudo-channels: what that changes, and what it leaves. -/

namespace Sys2Proof.Machine

/-! ### Accesses on their way (R229, R264, R363) -/

/-- A pseudo-channel but for its queues, and for what its last calibration pass shows. -/
def Pc.bare (pc : Pc) : Pc :=
  { pc with
    fifo := [], rrSlice := 0, rrGrp := 0, rq := [], wq := [], bursts := [], openRows := [], grpOpen := [], wmode := false
    outcome := 0, dens := 0 }

/-- From `c` to `d` nothing differs but slices and the queues of pseudo-channels. -/
structure Chip.Feeds (c d : Chip) : Prop where
  frame : d = { c with slices := d.slices, chcs := d.chcs }
  chc   : ∀ k, { d.chc k with pcs := [] } = { c.chc k with pcs := [] }
  pc    : ∀ k p, (d.pc k p).bare = (c.pc k p).bare

theorem Chip.Feeds.refl (c : Chip) : c.Feeds c := ⟨rfl, fun _ => rfl, fun _ _ => rfl⟩

theorem Chip.Feeds.trans {c d e : Chip} (h : c.Feeds d) (h' : d.Feeds e) : c.Feeds e where
  frame := h'.frame.trans (congrArg (fun x : Chip => { x with slices := e.slices, chcs := e.chcs }) h.frame)
  chc   := fun k => (h'.chc k).trans (h.chc k)
  pc    := fun k p => (h'.pc k p).trans (h.pc k p)

theorem Chip.Feeds.onSlice (c : Chip) (s : Nat) (f : Slice → Slice) : c.Feeds (c.onSlice s f) := ⟨rfl, fun _ => rfl, fun _ _ => rfl⟩

theorem Chip.Feeds.onPc (c : Chip) (k p : Nat) (f : Pc → Pc) (hf : (f (c.pc k p)).bare = (c.pc k p).bare) : c.Feeds (c.onPc k p f) := by
  refine ⟨rfl, fun j => ?_, fun j q => ?_⟩
  · rw [Chip.onPc, Chip.onChc_chc]
    split
    · subst_vars; rfl
    · rfl
  · rw [Chip.onPc_pc]
    split
    · next h => obtain ⟨rfl, rfl⟩ := h; exact hf
    · rfl

/-- A slice but for the accesses that it holds. -/
def Slice.unsent (s : Slice) : Slice := { s with out := [] }

/-- From `c` to `d` accesses may have gone from slices to the FIFOs of pseudo-channels, and nothing else differs. -/
structure Chip.Sends (c d : Chip) : Prop extends c.Feeds d where
  slice : ∀ s, (d.slice s).unsent = (c.slice s).unsent

theorem Chip.Sends.refl (c : Chip) : c.Sends c := ⟨.refl c, fun _ => rfl⟩

theorem Chip.Sends.trans {c d e : Chip} (h : c.Sends d) (h' : d.Sends e) : c.Sends e :=
  ⟨h.toFeeds.trans h'.toFeeds, fun s => (h'.slice s).trans (h.slice s)⟩

theorem Chip.Sends.onSlice (c : Chip) (s : Nat) (f : Slice → Slice) (hf : (f (c.slice s)).unsent = (c.slice s).unsent) :
    c.Sends (c.onSlice s f) := by
  refine ⟨.onSlice c s f, fun n => ?_⟩
  rw [Chip.onSlice_slice]
  split
  · subst_vars; exact hf
  · rfl

theorem Chip.fillFifo_sends (c : Chip) (k p n : Nat) : c.Sends (c.fillFifo k p n) := by
  induction n generalizing c with
  | zero => exact .refl c
  | succ n ih =>
    unfold Chip.fillFifo
    split
    · exact .refl c
    · split
      · exact .refl c
      · next s _ =>
        split
        · exact .refl c
        · next i m _ =>
          have taken : c.Sends (c.onSlice s (fun sl => { sl with out := listDel sl.out i })) := .onSlice c s _ rfl
          refine Chip.Sends.trans ?_ (ih _)
          split
          · exact taken
          · exact taken.trans ⟨.onPc _ k p _ rfl, fun _ => rfl⟩

theorem Chip.pushOut_sends (c : Chip) (s : Nat) : c.Sends (c.pushOut s) :=
  List.foldlRecOn (motive := c.Sends) _ _ (.refl c) fun d hd _ _ => hd.trans (d.fillFifo_sends _ _ _)

theorem Chip.sendCmd_sends (c : Chip) (m : Cmd) : c.Sends (c.sendCmd m) :=
  (Chip.Sends.onSlice c m.home.c _ rfl).trans (Chip.fillFifo_sends _ _ _ _)

/-! What accesses on their way bear on: not where rows stand, nor on what serves them. -/

/-- Where a row stands is read off the address map and the racking contexts. -/
theorem Chip.locate_congr {c d : Chip} (ha : d.addr = c.addr) (hd : d.dies = c.dies) (l : RowLoc) (j : Nat) : d.locate l j = c.locate l j := by
  cases c; cases d; cases ha; cases hd; rfl

section
variable {c d : Chip} (h : c.Feeds d)
include h

theorem Chip.Feeds.addr : d.addr = c.addr := (congrArg Chip.addr h.frame :)
theorem Chip.Feeds.boot : d.boot = c.boot := (congrArg Chip.boot h.frame :)
theorem Chip.Feeds.dies : d.dies = c.dies := (congrArg Chip.dies h.frame :)
theorem Chip.Feeds.xbr : d.xbr = c.xbr := (congrArg Chip.xbr h.frame :)

theorem Chip.Feeds.state (k p : Nat) : (d.pc k p).state = (c.pc k p).state :=
  (congrArg Pc.state (h.pc k p) : (d.pc k p).bare.state = (c.pc k p).bare.state)

theorem Chip.Feeds.degraded (k p : Nat) : (d.pc k p).degraded = (c.pc k p).degraded :=
  (congrArg Pc.degraded (h.pc k p) : (d.pc k p).bare.degraded = (c.pc k p).bare.degraded)

theorem Chip.Feeds.served (b : Nat) : d.served b = c.served b := by
  simp only [Chip.served, Chip.sliceDead, Chip.entryOf, Chip.fenced, h.boot, h.addr, h.state]

theorem Chip.Feeds.locate (l : RowLoc) (j : Nat) : d.locate l j = c.locate l j := Chip.locate_congr h.addr h.dies l j

theorem Chip.Feeds.bankDegraded (b : Nat) : d.bankDegraded b = c.bankDegraded b := by
  simp only [Chip.bankDegraded, Chip.rowDegraded, h.served, h.locate, h.degraded]

theorem Chip.Feeds.flushStatus (s base last : Nat) : d.flushStatus s base last = c.flushStatus s base last := by
  simp only [Chip.flushStatus, h.addr, h.served, h.bankDegraded]

end

end Sys2Proof.Machine
end

section
/-! SUPPORT. Lines that leave a slice: the bits of their masks, write-backs, the sweep of a walk and the drain of a slice. -/

namespace Sys2Proof.Machine

/-! ### Masks of sectors -/

/-- A clear bit set: no other bit changes. -/
theorem testBit_add_two_pow {m j : Nat} (h : m.testBit j = false) (i : Nat) : (m + 2 ^ j).testBit i = (i == j || m.testBit i) := by
  induction j generalizing m i with
  | zero =>
    have even : m % 2 = 0 := by simpa using h
    cases i with
    | zero => simp; omega
    | succ i => simp only [Nat.testBit_succ, show (m + 2 ^ 0) / 2 = m / 2 by omega]; simp
  | succ j ih =>
    cases i with
    | zero => simp [Nat.pow_succ]
    | succ i =>
      rw [Nat.testBit_succ] at h
      rw [Nat.testBit_succ, show (m + 2 ^ (j + 1)) / 2 = m / 2 + 2 ^ j by rw [Nat.pow_succ]; omega, ih h, Nat.testBit_succ]
      simp

/-- A mask after a bit of it has been set or cleared. -/
theorem natBit_maskSet (m j i : Nat) (on : Bool) : natBit (maskSet m j on) i = if i = j then on else natBit m i := by
  simp only [natBit_eq_testBit, maskSet]
  cases hj : m.testBit j
  · cases on
    · rw [if_neg (by simp), if_neg (by simp)]
      split
      · next e => rw [e]; exact hj
      · rfl
    · rw [if_neg (by simp), if_pos rfl, testBit_add_two_pow hj]; split <;> simp_all
  · cases on
    · have le : 2 ^ j ≤ m := Nat.ge_two_pow_of_testBit hj
      have clear : (m - 2 ^ j).testBit j = false := by
        have := Nat.testBit_two_pow_add_eq (m - 2 ^ j) j
        rw [Nat.add_sub_cancel' le, hj] at this
        simpa using this.symm
      have back := testBit_add_two_pow clear i
      rw [Nat.sub_add_cancel le] at back
      rw [if_pos rfl, if_neg (by simp), back]
      split <;> simp_all
    · rw [if_pos rfl, if_pos rfl]
      split
      · next e => rw [e]; exact hj
      · rfl

/-! ### Tables and lists -/

theorem Tab.has_put {α : Type} (t : Tab α) (i j : Nat) (v : α) : Tab.has (Tab.put t i v) j = (j == i || Tab.has t j) := by
  induction t with
  | nil => rfl
  | cons x t ih =>
    obtain ⟨k, w⟩ := x
    simp only [Tab.put]
    split
    · next h => subst h; simp only [Tab.has, ← Bool.or_assoc, Bool.or_self]
    · split
      · rfl
      · simp only [Tab.has, ih, Bool.or_left_comm]

/-- Mapping the entries of a table keeps its keys. -/
theorem Tab.has_map {α β : Type} (f : Nat → α → β) (t : Tab α) (i : Nat) : Tab.has (List.map (fun x => (x.1, f x.1 x.2)) t) i = Tab.has t i := by
  induction t with
  | nil => rfl
  | cons x t ih => simp only [List.map_cons, Tab.has, ih]

/-- Removing a key takes no other entry away, and adds none. -/
theorem Tab.mem_of_mem_del {α : Type} {t : Tab α} {i : Nat} {e : Nat × α} (h : e ∈ Tab.del t i) : e ∈ t := by
  induction t with
  | nil => exact h
  | cons x t ih =>
    simp only [Tab.del] at h
    split at h
    · exact List.mem_cons_of_mem _ (ih h)
    · rcases List.mem_cons.mp h with rfl | h
      · exact List.mem_cons_self ..
      · exact List.mem_cons_of_mem _ (ih h)

/-! ### Write-backs (R233, R234) -/

/-- A slice but for its eviction buffers, the accesses it holds, the number of its groups, and what it counts of write-backs. -/
def Slice.unevicted (s : Slice) : Slice := { s with out := [], evbs := [], grp := 0, cntEvict := {}, cntWbSect := {} }

/-- From `c` to `d` blocks may have left slices for their eviction buffers, and accesses for pseudo-channels, and nothing else differs; a
buffer that was in use is. -/
structure Chip.Evicts (c d : Chip) : Prop extends c.Feeds d where
  slice : ∀ s, (d.slice s).unevicted = (c.slice s).unevicted
  inUse : ∀ s i, (c.slice s).evbs.has i = true → (d.slice s).evbs.has i = true

theorem Chip.Evicts.refl (c : Chip) : c.Evicts c := ⟨.refl c, fun _ => rfl, fun _ _ => id⟩

theorem Chip.Evicts.trans {c d e : Chip} (h : c.Evicts d) (h' : d.Evicts e) : c.Evicts e :=
  ⟨h.toFeeds.trans h'.toFeeds, fun s => (h'.slice s).trans (h.slice s), fun s i hi => h'.inUse s i (h.inUse s i hi)⟩

theorem Chip.Sends.evicts {c d : Chip} (h : c.Sends d) : c.Evicts d where
  toFeeds := h.toFeeds
  slice s := (congrArg Slice.unevicted (h.slice s) : (d.slice s).unsent.unevicted = (c.slice s).unsent.unevicted)
  inUse s i hi := by
    have : (d.slice s).evbs = (c.slice s).evbs := (congrArg Slice.evbs (h.slice s) : (d.slice s).unsent.evbs = (c.slice s).unsent.evbs)
    rw [this]; exact hi

theorem Chip.Evicts.onSlice (c : Chip) (s : Nat) (f : Slice → Slice) (hf : (f (c.slice s)).unevicted = (c.slice s).unevicted)
    (hu : ∀ i, (c.slice s).evbs.has i = true → (f (c.slice s)).evbs.has i = true) : c.Evicts (c.onSlice s f) := by
  refine ⟨.onSlice c s f, fun n => ?_, fun n i hi => ?_⟩ <;> rw [Chip.onSlice_slice] <;> split
  · subst_vars; exact hf
  · rfl
  · subst_vars; exact hu i hi
  · exact hi

/-- A newer write makes blocks of eviction buffers old, and frees none. -/
theorem Slice.foldl_supersede (w : RowLoc) (bs : Tab Block) (s : Slice) :
    (bs.foldl (fun s b => s.supersede w b.1) s).unevicted = s.unevicted ∧
    ∀ i, (bs.foldl (fun s b => s.supersede w b.1) s).evbs.has i = s.evbs.has i := by
  induction bs generalizing s with
  | nil => exact ⟨rfl, fun _ => rfl⟩
  | cons b bs ih =>
    refine ⟨(ih _).1, fun i => ((ih _).2 i).trans ?_⟩
    exact Tab.has_map (fun _ e => if e.isRow w && e.blocks.has b.1 then { e with old := e.old ++ [b.1] } else e) s.evbs i

theorem Chip.fillEvb_evicts (c : Chip) (s i : Nat) (l : Line) : c.Evicts (c.fillEvb s i l) := by
  unfold Chip.fillEvb
  have grouped : c.Evicts (c.newGroup s).2 := .onSlice c s _ rfl fun _ => id
  refine Chip.Evicts.trans (grouped.trans (.onSlice _ s _ ?_ fun j hj => ?_))
    (List.foldlRecOn (motive := Chip.Evicts _) _ _ (.refl _) fun d hd _ _ => hd.trans (d.sendCmd_sends _).evicts)
  · have := (Slice.foldl_supersede (l.rowLoc s) l.dirtyBlocks ((c.newGroup s).2.slice s)).1
    exact (congrArg Slice.unevicted this :)
  · rw [Tab.has_put, (Slice.foldl_supersede _ _ _).2, hj, Bool.or_true]

theorem Chip.writeBack_evicts (c : Chip) (s : Nat) (l : Line) : c.Evicts (c.writeBack s l) := by
  unfold Chip.writeBack
  split
  · exact .refl c
  · split
    · exact c.fillEvb_evicts s _ l
    · exact .refl c

/-! ### The sweep of a walk (R246, R247) -/

/-- Sectors cleaned one after another. -/
theorem Line.foldl_clean (js : List Nat) (l : Line) (j : Nat) :
    let m := js.foldl (fun l j => { l with dirty := maskSet l.dirty j false }) l
    m.valid = l.valid ∧ natBit m.dirty j = (natBit l.dirty j && !js.contains j) := by
  induction js generalizing l with
  | nil => simp
  | cons x js ih =>
    obtain ⟨valid, dirty⟩ := ih { l with dirty := maskSet l.dirty x false }
    refine ⟨valid, dirty.trans ?_⟩
    simp only [natBit_maskSet, List.contains_cons]
    by_cases e : j = x <;> simp [e, beq_eq_false_iff_ne.mpr]

/-- Sectors dropped one after another. -/
theorem Line.foldl_dropSect (js : List Nat) (l : Line) (j : Nat) :
    let m := js.foldl (fun l j => l.dropSect j) l
    natBit m.valid j = (natBit l.valid j && !js.contains j) ∧ natBit m.dirty j = (natBit l.dirty j && !js.contains j) := by
  induction js generalizing l with
  | nil => simp
  | cons x js ih =>
    obtain ⟨valid, dirty⟩ := ih (l.dropSect x)
    refine ⟨valid.trans ?_, dirty.trans ?_⟩ <;> simp only [Line.dropSect, natBit_maskSet, List.contains_cons] <;>
      by_cases e : j = x <;> simp [e, beq_eq_false_iff_ne.mpr]

/-- The sectors of a line of slice `s` that the walks `ws` visit. -/
def Chip.visited (c : Chip) (s : Nat) (l : Line) (ws : List Walk) : List Nat :=
  sectorsOf (fun j => natBit l.valid j && ws.any (·.covers c.addr.mode s l j))

/-- A line as the walks `ws` leave it: what they visit is clean, and what those of mode 1 visit is not valid. -/
def Chip.sweptLine (c : Chip) (s : Nat) (l : Line) (ws : List Walk) : Line :=
  (sectorsOf (fun j => natBit l.valid j && ws.any (fun k => k.inval && k.covers c.addr.mode s l j))).foldl (fun l j => l.dropSect j)
    ((c.visited s l ws).foldl (fun l j => { l with dirty := maskSet l.dirty j false }) l)

theorem Chip.sweptLine_clean (c : Chip) (s : Nat) (l : Line) (w : Walk) {j : Nat} (hj : j < 16) (hv : natBit l.valid j = true)
    (hw : w.covers c.addr.mode s l j = true) :
    natBit (c.sweptLine s l [w]).dirty j = false ∧ (w.inval = true → natBit (c.sweptLine s l [w]).valid j = false) := by
  have visited : (c.visited s l [w]).contains j = true := by simp [Chip.visited, sectorsOf, hj, hv, hw]
  obtain ⟨valid, dirty⟩ := Line.foldl_clean (c.visited s l [w]) l j
  obtain ⟨valid', dirty'⟩ := Line.foldl_dropSect
    (sectorsOf (fun j => natBit l.valid j && [w].any (fun k => k.inval && k.covers c.addr.mode s l j)))
    ((c.visited s l [w]).foldl (fun l j => { l with dirty := maskSet l.dirty j false }) l) j
  refine ⟨?_, fun inval => ?_⟩
  · rw [Chip.sweptLine, dirty', dirty, visited]; simp
  · rw [Chip.sweptLine, valid']
    simp [sectorsOf, hj, hv, hw, inval]

/-- What the sweep of a line makes of the lines of its slice: the line is as its walks leave it, or gone. -/
theorem Chip.sweepLine_evicts (c : Chip) (s i : Nat) (l : Line) :
    ∃ ls, (c.onSlice s (fun sl => { sl with lines := ls })).Evicts (c.sweepLine s i l) ∧
      ∀ l', ls.look i = some l' → l' = c.sweptLine s l (c.slice s).walks := by
  refine ⟨_, Chip.writeBack_evicts (c.onSlice s _) s _, fun l' hl' => ?_⟩
  split at hl'
  · rw [Tab.look_del_same] at hl'; cases hl'
  · rw [Tab.look_put, if_pos rfl] at hl'
    exact (Option.some.inj hl').symm

@[simp] theorem Chip.sendPkt_slice (c : Chip) (vc : Vc) (src dst : Nat) (b : PktBody) (n : Nat) :
    (c.sendPkt vc src dst b).slice n = c.slice n := rfl
@[simp] theorem Chip.sendPkt_pkts (c : Chip) (vc : Vc) (src dst : Nat) (b : PktBody) :
    (c.sendPkt vc src dst b).xbr.pkts = c.xbr.pkts ++ [⟨vc, src, dst, b⟩] := rfl

/-- The end of a line for the one walk of a slice: its packet goes out where it has no line left. -/
theorem Chip.stepWalks_one {c : Chip} {s : Nat} {w : Walk} (walks : (c.slice s).walks = [w]) (queue : (c.slice s).walkQ = []) :
    let t := c.stepWalks s
    (t.slice s).lines = (c.slice s).lines ∧ (t.slice s).walkPos = ((c.slice s).walkPos + 1) % 2048 ∧
    (t.slice s).walks = (if w.left - 1 = 0 then [] else [{ w with left := w.left - 1 }]) ∧
    t.xbr.pkts = c.xbr.pkts ++ (if w.left - 1 = 0 then [⟨.rsp, epSlice s, w.port, .walkRsp w.port w.tag
      (w.st.getD (c.flushStatus s w.base w.last))⟩] else []) := by
  have status (f : Slice → Slice) : (c.onSlice s f).flushStatus s w.base w.last = c.flushStatus s w.base w.last :=
    (Chip.Feeds.onSlice c s f).flushStatus s w.base w.last
  by_cases last : w.left - 1 = 0 <;> simp [Chip.stepWalks, walks, queue, last, status]

/-- FLUSH_WALK_STEP where one walk sweeps the slice and nothing stops it (R246, R247). -/
theorem Chip.walkStep_one {c : Chip} {s : Nat} {w : Walk} (hl : c.live = true) (walks : (c.slice s).walks = [w])
    (queue : (c.slice s).walkQ = []) (held : c.walkHeld s = false)
    (stops : ∀ l, (c.slice s).lines.look (c.slice s).walkPos = some l → c.sweepStops s l = false) :
    let t := c.walkStep s
    (t.slice s).walkPos = ((c.slice s).walkPos + 1) % 2048 ∧
    (t.slice s).walks = (if w.left - 1 = 0 then [] else [{ w with left := w.left - 1 }]) ∧
    t.xbr.pkts = c.xbr.pkts ++ (if w.left - 1 = 0 then [⟨.rsp, epSlice s, w.port, .walkRsp w.port w.tag
      (w.st.getD (c.flushStatus s w.base w.last))⟩] else []) ∧
    ∀ l l' j, (c.slice s).lines.look (c.slice s).walkPos = some l → (t.slice s).lines.look (c.slice s).walkPos = some l' → j < 16 →
      natBit l.valid j = true → w.covers c.addr.mode s l j = true →
      natBit l'.dirty j = false ∧ (w.inval = true → natBit l'.valid j = false) := by
  unfold Chip.walkStep
  rw [if_neg (by simp [hl, walks, held])]
  dsimp only
  cases hx : (c.slice s).lines.look (c.slice s).walkPos with
  | none =>
    obtain ⟨-, pos, left, pkts⟩ := Chip.stepWalks_one walks queue
    exact ⟨pos, left, pkts, nofun⟩
  | some x =>
    simp only [stops x hx, Bool.false_eq_true, if_false]
    obtain ⟨ls, swept, line⟩ := c.sweepLine_evicts s (c.slice s).walkPos x
    have slice := swept.slice s
    rw [Chip.onSlice_slice_same] at slice
    have walks' : ((c.sweepLine s (c.slice s).walkPos x).slice s).walks = [w] := (congrArg Slice.walks slice :).trans walks
    have queue' : ((c.sweepLine s (c.slice s).walkPos x).slice s).walkQ = [] := (congrArg Slice.walkQ slice :).trans queue
    have pos' : ((c.sweepLine s (c.slice s).walkPos x).slice s).walkPos = (c.slice s).walkPos := (congrArg Slice.walkPos slice :)
    have lines' : ((c.sweepLine s (c.slice s).walkPos x).slice s).lines = ls := (congrArg Slice.lines slice :)
    obtain ⟨lines, pos, left, pkts⟩ := Chip.stepWalks_one walks' queue'
    refine ⟨pos.trans (by rw [pos']), left, pkts.trans ?_, fun l l' j hl hl' hj hv hw => ?_⟩
    · rw [swept.xbr, swept.flushStatus, (Chip.Feeds.onSlice c s _).flushStatus, Chip.onSlice_xbr]
    · obtain rfl := Option.some.inj hl
      rw [lines, lines'] at hl'
      rw [line l' hl', walks]
      exact c.sweptLine_clean s x w hj hv hw

/-! ### Lines that leave their slice (R233, R240) -/

/-- A slice but for its lines and what their write-back changes. -/
def Slice.uncleaned (s : Slice) : Slice := { s.unevicted with lines := [] }

/-- From `c` to `d` lines may have left slices, with their blocks, and accesses for pseudo-channels, and nothing else differs; an eviction
buffer that was in use is. -/
structure Chip.Cleans (c d : Chip) : Prop extends c.Feeds d where
  slice : ∀ s, (d.slice s).uncleaned = (c.slice s).uncleaned
  inUse : ∀ s i, (c.slice s).evbs.has i = true → (d.slice s).evbs.has i = true
  lines : ∀ s e, e ∈ (d.slice s).lines → e ∈ (c.slice s).lines

theorem Chip.Cleans.refl (c : Chip) : c.Cleans c := ⟨.refl c, fun _ => rfl, fun _ _ => id, fun _ _ => id⟩

theorem Chip.Cleans.trans {c d e : Chip} (h : c.Cleans d) (h' : d.Cleans e) : c.Cleans e :=
  ⟨h.toFeeds.trans h'.toFeeds, fun s => (h'.slice s).trans (h.slice s), fun s i hi => h'.inUse s i (h.inUse s i hi),
    fun s e he => h.lines s e (h'.lines s e he)⟩

theorem Chip.Evicts.lines {c d : Chip} (h : c.Evicts d) (s : Nat) : (d.slice s).lines = (c.slice s).lines :=
  (congrArg Slice.lines (h.slice s) : (d.slice s).unevicted.lines = (c.slice s).unevicted.lines)

theorem Chip.Evicts.cleans {c d : Chip} (h : c.Evicts d) : c.Cleans d :=
  ⟨h.toFeeds, fun s => (congrArg Slice.uncleaned (h.slice s) : (d.slice s).unevicted.uncleaned = (c.slice s).unevicted.uncleaned), h.inUse,
    fun s e he => by rwa [h.lines s] at he⟩

theorem Chip.Cleans.del (c : Chip) (s i : Nat) : c.Cleans (c.onSlice s (fun sl => { sl with lines := sl.lines.del i })) := by
  refine ⟨.onSlice c s _, fun n => ?_, fun n j hj => ?_, fun n e he => ?_⟩
  · rw [Chip.onSlice_slice]
    split
    · next h => subst h; rfl
    · rfl
  · rw [Chip.onSlice_slice]
    split
    · next h => subst h; exact hj
    · exact hj
  · rw [Chip.onSlice_slice] at he
    split at he
    · next h => subst h; exact Tab.mem_of_mem_del he
    · exact he

/-- Line `e` of slice `s` leaves it, where there is room for what is dirty of it. -/
def Chip.cleanLine (c : Chip) (s : Nat) (e : Nat × Line) : Chip :=
  if (c.slice s).roomFor e.2 then (c.onSlice s (fun sl => { sl with lines := sl.lines.del e.1 })).writeBack s e.2 else c

theorem Chip.cleanLine_cleans (c : Chip) (s : Nat) (e : Nat × Line) : c.Cleans (c.cleanLine s e) := by
  unfold Chip.cleanLine
  split
  · exact (Chip.Cleans.del c s e.1).trans (Chip.writeBack_evicts _ s e.2).cleans
  · exact .refl c

theorem Slice.freeEvb_eq_none {s : Slice} : s.freeEvb = none ↔ ∀ i < 4, s.evbs.has i = true := by
  simp [Slice.freeEvb, List.find?_eq_none]

/-- A line that has been told to leave and is still there has dirty blocks for which no eviction buffer is free. -/
theorem Chip.foldl_cleanLine (s : Nat) (ls : List (Nat × Line)) (c : Chip) :
    c.Cleans (ls.foldl (·.cleanLine s ·) c) ∧
    ∀ e ∈ ls, e ∈ ((ls.foldl (·.cleanLine s ·) c).slice s).lines →
      e.2.dirtyBlocks ≠ [] ∧ ((ls.foldl (·.cleanLine s ·) c).slice s).freeEvb = none := by
  induction ls generalizing c with
  | nil => exact ⟨.refl c, nofun⟩
  | cons x ls ih =>
    obtain ⟨rest, left⟩ := ih (c.cleanLine s x)
    refine ⟨(c.cleanLine_cleans s x).trans rest, fun e he hl => ?_⟩
    rcases List.mem_cons.mp he with rfl | he
    · have stays := rest.lines s e hl
      by_cases room : (c.slice s).roomFor e.2 = true
      · rw [Chip.cleanLine, if_pos room, (Chip.writeBack_evicts _ s e.2).lines, Chip.onSlice_slice_same] at stays
        exact absurd rfl (Tab.key_ne_of_mem_del stays)
      · have full : e.2.dirtyBlocks ≠ [] ∧ (c.slice s).freeEvb = none := by simpa [Slice.roomFor] using room
        refine ⟨full.1, Slice.freeEvb_eq_none.mpr fun i hi => rest.inUse s i ?_⟩
        exact (c.cleanLine_cleans s e).inUse s i (Slice.freeEvb_eq_none.mp full.2 i hi)
    · exact left e he hl

theorem Chip.cleanLines_eq (c : Chip) (s : Nat) (p : Line → Bool) :
    c.cleanLines s p = (List.filter (fun (e : Nat × Line) => p e.2 && c.lineFree s e.2) (c.slice s).lines).foldl (·.cleanLine s ·) c := rfl

theorem Chip.cleanLines_cleans (c : Chip) (s : Nat) (p : Line → Bool) : c.Cleans (c.cleanLines s p) := by
  rw [Chip.cleanLines_eq]; exact (Chip.foldl_cleanLine s _ c).1

/-- What is left of a slice's lines: those that may not leave, and those with dirty blocks once every eviction buffer is in use. -/
theorem Chip.cleanLines_left (c : Chip) (s : Nat) (p : Line → Bool) {e : Nat × Line} (he : e ∈ ((c.cleanLines s p).slice s).lines)
    (hp : p e.2 = true) :
    c.lineFree s e.2 = false ∨ (e.2.dirtyBlocks ≠ [] ∧ ((c.cleanLines s p).slice s).freeEvb = none) := by
  cases free : c.lineFree s e.2
  · exact .inl rfl
  · rw [Chip.cleanLines_eq] at he ⊢
    obtain ⟨cleans, left⟩ := Chip.foldl_cleanLine s (List.filter (fun (e : Nat × Line) => p e.2 && c.lineFree s e.2) (c.slice s).lines) c
    exact .inr (left e (List.mem_filter.mpr ⟨cleans.lines s e he, by simp [hp, free]⟩) he)

theorem Chip.cleanLines_of_none {c : Chip} {s : Nat} {p : Line → Bool} (h : ∀ e ∈ (c.slice s).lines, p e.2 = false) : c.cleanLines s p = c := by
  rw [Chip.cleanLines_eq, List.filter_eq_nil_iff.mpr (fun e he => by simp [h e he])]; rfl

end Sys2Proof.Machine
end

section
/-! What sweeps a slice: walks, flushes and drains (O33). -/

namespace Sys2Proof.Machine

/-- A FLUSH whose walks have ended and whose blocks are queued answers with what the walks gave (R248). -/
theorem Chip.flushComplete_answers {c : Chip} (hl : c.live = true) {n tag : Nat} {r : Req} (hr : (c.port n).req? tag = some r)
    (op : r.op = .flush) (phase : r.phase = .active) (left : r.left = 0) (stale : r.stale = false) (whole : breaks .flush r.status = false)
    (queued : c.flushQueued r.winBase r.winEnd = true) :
    ∃ x, ((c.flushComplete n tag).port n).txq = (c.port n).txq ++ [x] ∧ x.hdr = r.hdr ∧ x.status = r.status ∧
      ((c.flushComplete n tag).port n).req? tag = none := by
  have answers : c.flushComplete n tag = c.finish n tag r.status 0 [] := by
    rw [Chip.flushComplete, hr]
    exact if_pos (by simp [hl, op, phase, left, queued])
  rw [answers, Chip.finish_plain _ _ _ _ _ _ r hr stale (by rw [op]; rfl) (by rw [op]; exact whole), Chip.onPort_port_same]
  obtain ⟨reqs, txq, -⟩ := (c.port n).close_plain r
    (mkTx r.op r.hdr r.status 0 [] r.e2eOut r.poly r.rspCost (if r.op == .mgmtCmd then 9 else 0) true) stale (by rw [op]; exact whole) rfl
  refine ⟨_, txq.trans (if_neg (by rw [op]; nofun)), rfl, rfl, ?_⟩
  rw [Port.req?, reqs, List.find?_eq_none]
  intro q hq
  simpa [Port.req?_tag hr] using (List.mem_filter.mp hq).2

/-- A slice that takes a drain order (R240). -/
def Slice.beginDrain (d : DrainFor) (s : Slice) : Slice := { s with mode := .draining, drainFor := d }

/-- A slice whose drain has ended, in the test that it was drained for (R241, R717). -/
def Slice.endDrain (s : Slice) : Slice := { s with mode := if s.drainFor = .slice then .bypassTest else .channelTest }

theorem Chip.sliceDrain_eq {c : Chip} (hl : c.live = true) {s : Nat} {d : DrainFor} (hd : c.drainOrder s = some d)
    (hm : (c.slice s).mode = .normal ∨ (c.slice s).mode = .bypassFailed) :
    c.sliceDrain s = (c.onSlice s (·.beginDrain d)).cleanLines s (fun _ => true) := by
  rw [Chip.sliceDrain, hd]
  exact if_pos (by rcases hm with e | e <;> simp [hl, e])

/-- A drain order bears on no line's freedom to leave. -/
theorem Chip.lineFree_beginDrain (c : Chip) (s : Nat) (d : DrainFor) (l : Line) : (c.onSlice s (·.beginDrain d)).lineFree s l = c.lineFree s l := by
  simp only [Chip.lineFree, Chip.onSlice_slice_same, Chip.onSlice_pc]
  rfl

/-- A drain order puts a slice into DRAINING, and lines leave it as far as eviction buffers are free (R240). -/
theorem Chip.sliceDrain_drains {c : Chip} (hl : c.live = true) {s : Nat} {d : DrainFor} (hd : c.drainOrder s = some d)
    (hm : (c.slice s).mode = .normal ∨ (c.slice s).mode = .bypassFailed) :
    let t := c.sliceDrain s
    (t.slice s).mode = .draining ∧ (t.slice s).drainFor = d ∧
    ∀ e ∈ (t.slice s).lines, e ∈ (c.slice s).lines ∧ (c.lineFree s e.2 = false ∨ (e.2.dirtyBlocks ≠ [] ∧ (t.slice s).freeEvb = none)) := by
  rw [Chip.sliceDrain_eq hl hd hm]
  have cleans := (c.onSlice s (·.beginDrain d)).cleanLines_cleans s (fun _ => true)
  have slice := cleans.slice s
  rw [Chip.onSlice_slice_same] at slice
  refine ⟨(congrArg Slice.mode slice :), (congrArg Slice.drainFor slice :), fun e he => ⟨?_, ?_⟩⟩
  · simpa [Slice.beginDrain] using cleans.lines s e he
  · rw [← c.lineFree_beginDrain s d]
    exact Chip.cleanLines_left _ s _ he rfl

/-- An empty slice ends its drain. -/
theorem Chip.sliceDrainEnd_of_empty {c : Chip} (hl : c.live = true) {s : Nat} (mode : (c.slice s).mode = .draining)
    (lines : (c.slice s).lines = []) (evbs : (c.slice s).evbs = []) (walks : (c.slice s).walks = []) (walkQ : (c.slice s).walkQ = [])
    (empty : (c.slice s).drainFor = .channel → c.sliceEmpty s = true) : c.sliceDrainEnd s = c.onSlice s Slice.endDrain := by
  rw [Chip.sliceDrainEnd, if_neg (by simp [hl, mode]), Chip.cleanLines_of_none (by simp [lines])]
  dsimp only
  rw [if_pos (by simp [lines, evbs, walks, walkQ])]
  cases h : (c.slice s).drainFor with
  | slice =>
    have : (c.slice s).endDrain = { c.slice s with mode := .bypassTest } := by simp [Slice.endDrain, h]
    simp only [Chip.onSlice, Tab.upd]
    exact congrArg (fun x : Slice => { c with slices := c.slices.put s x }) this.symm
  | channel =>
    have : (c.slice s).endDrain = { c.slice s with mode := .channelTest } := by simp [Slice.endDrain, h]
    rw [if_pos (empty h)]
    exact congrArg (fun x : Slice => { c with slices := c.slices.put s x }) this.symm

/-- A slice that has ended its drain sets nothing going. -/
theorem Chip.Calm.endDrain {c : Chip} {s : Nat} (h : (c.onSlice s (fun x => { x with mode := .normal })).Calm) : (c.onSlice s Slice.endDrain).Calm := by
  refine h.of_eq rfl rfl rfl rfl (fun _ => rfl) (fun j => ?_) (fun j hj => ?_) (fun _ => id)
  · simp only [Chip.channelDirty, Chip.onSlice_slice, Chip.onSlice_chc]
    split <;> rfl
  · simp only [Chip.onSlice_slice] at hj ⊢
    split at hj
    · simp only [Slice.endDrain] at hj
      split at hj <;> cases hj
    · next hs => rw [if_neg hs]; exact hj

/-- Settles O33: the sweep of a line clears the bits of what its walk visits before the walk steps on; a drain takes each line out of its
slice or leaves it for want of an eviction buffer, and those in use stay so. -/
theorem sweepsClean : Obligations.SweepsClean := by
  unfold Obligations.SweepsClean
  refine fun s k hl => ⟨fun w halted walks queue held stops => ?_,
    fun n tag r hr op phase left stale whole queued => ?_, fun d hd hm => ?_, fun calm mode lines evbs walks walkQ empty => ?_⟩
  · refine ⟨_, rfl, ?_⟩
    rw [State.onChip_chip, Chip.whenSlice, if_pos (by simp [hl, halted])]
    exact Chip.walkStep_one hl walks queue held stops
  · obtain ⟨x, answer⟩ := Chip.flushComplete_answers hl hr op phase left stale whole queued
    exact ⟨_, x, rfl, answer⟩
  · obtain ⟨draining, drainFor, lines⟩ := Chip.sliceDrain_drains hl hd hm
    exact ⟨_, rfl, draining, drainFor, lines, rfl⟩
  · refine ⟨_, rfl, ?_, rfl⟩
    rw [State.onChip_chip, Chip.sliceDrainEnd_of_empty hl mode lines evbs walks walkQ empty, Chip.settle_slice _ k.val calm.endDrain,
      Chip.onSlice_slice_same]
    rfl

end Sys2Proof.Machine
end

section
/-! SUPPORT. What waits in a slice: arrivals, eviction buffers and fills. -/

namespace Sys2Proof.Machine

/-- Two changes of a slice, one after the other. -/
theorem Chip.onSlice_onSlice (c : Chip) (s : Nat) (f g : Slice → Slice) : (c.onSlice s f).onSlice s g = c.onSlice s (fun x => g (f x)) := by
  simp [Chip.onSlice, Tab.upd]

/-- An event of a slice that runs. -/
theorem Chip.whenSlice_of_runs {c : Chip} {s : Nat} (f : Chip → Chip) (hl : c.live = true) (hh : c.halted (fltDct s) = false) :
    c.whenSlice s f = f c := if_pos (by simp [hl, hh])

/-- A slice that has met a fatal condition stands still (R582). -/
theorem Chip.whenSlice_of_halted {c : Chip} {s : Nat} (f : Chip → Chip) (hh : c.halted (fltDct s) = true) : c.whenSlice s f = c :=
  if_neg (by simp [hh])

/-! ### Arrivals (R222, R227, R247) -/

/-- The head of the normal lane goes to the conflict queue. -/
def Slice.toQueue (s : Slice) (rest : List (Nat × InItem)) (x : Nat × OpSrc × CqWhy) : Slice := { s with inBuf := rest, cq := s.cq ++ [x] }

theorem Chip.sliceRequest_of_waits {c : Chip} {s seq : Nat} {r : SliceReq} {rest : List (Nat × InItem)} (err : SramErr) {why : CqWhy}
    (head : (c.slice s).inBuf = (seq, .op r) :: rest) (room : (c.slice s).cq.length < 32) (wait : c.arrivalWait seq (.host r) = some why) :
    c.sliceRequest s err = c.onSlice s (·.toQueue rest (seq, .host r, why)) := by
  simp only [Chip.sliceRequest, head, if_neg (Nat.not_le.mpr room), wait, Chip.onSlice_onSlice]
  rfl

/-- What an arriving part must wait for: the rescue of its row first, then older work, then what the slice lacks (R227, R239, R319). -/
theorem Chip.arrivalWait_rescue {c : Chip} {r : SliceReq} (seq : Nat) (served : c.served (bankIndex r.row) = true)
    (waits : c.rowWaits r.row = true) : c.arrivalWait seq (.host r) = some .rescue := by
  simp [Chip.arrivalWait, OpSrc.row, served, waits]

theorem Chip.arrivalWait_order {c : Chip} {r : SliceReq} {seq : Nat}
    (row : c.served (bankIndex r.row) = false ∨ c.rowWaits r.row = false) (behind : (c.slice r.row.c).standsBehind seq (.host r) = true) :
    c.arrivalWait seq (.host r) = some .order := by
  rcases row with h | h <;> simp [Chip.arrivalWait, OpSrc.row, h, behind]

theorem Chip.arrivalWait_mustWait {c : Chip} {r : SliceReq} {seq : Nat}
    (row : c.served (bankIndex r.row) = false ∨ c.rowWaits r.row = false) (behind : (c.slice r.row.c).standsBehind seq (.host r) = false) :
    c.arrivalWait seq (.host r) = (c.slice r.row.c).mustWait (.host r) := by
  rcases row with h | h <;> simp [Chip.arrivalWait, OpSrc.row, h, behind]

/-- A FLUSH walk joins the sweep of its slice where it stands, or waits behind four others (R247). -/
def Slice.joinWalk (s : Slice) (rest : List (Nat × InItem)) (w : Walk) : Slice :=
  let pos := if s.walks = [] then 0 else s.walkPos
  if s.walks.length < 4 then { s with inBuf := rest, walks := s.walks ++ [{ w with start := pos, left := 2048 }], walkPos := pos }
  else { s with inBuf := rest, walkQ := s.walkQ ++ [w] }

theorem Chip.sliceRequest_walk {c : Chip} {s seq : Nat} {w : Walk} {rest : List (Nat × InItem)} (err : SramErr)
    (head : (c.slice s).inBuf = (seq, .walk w) :: rest) (room : (c.slice s).cq.length < 32) :
    c.sliceRequest s err = c.onSlice s (·.joinWalk rest w) := by
  simp only [Chip.sliceRequest, head, if_neg (Nat.not_le.mpr room), Chip.onSlice_onSlice]
  refine congrArg (c.onSlice s) (funext fun x => ?_)
  simp only [Slice.joinWalk, List.isEmpty_iff]

theorem Slice.joinWalk_keeps (s : Slice) (rest : List (Nat × InItem)) (w : Walk) :
    (s.joinWalk rest w).inBuf = rest ∧ (s.joinWalk rest w).cfg = s.cfg ∧ (s.joinWalk rest w).mode = s.mode := by
  unfold Slice.joinWalk
  dsimp only
  split <;> exact ⟨rfl, rfl, rfl⟩

/-! ### Eviction buffers (R234) -/

/-- With no operation that waits for an eviction buffer, one that comes free is offered to none. -/
theorem Chip.evbOffer_of_none {c : Chip} {s : Nat} (cq : ∀ x ∈ (c.slice s).cq, x.2.2 ≠ .evb) (gran : (c.slice s).granWait = []) :
    c.evbOffer s = c := by
  have none : ∀ l : List (Nat × OpSrc × CqWhy), (∀ x ∈ l, x.2.2 ≠ .evb) → listIdx (fun x => x.2.2 == .evb) l = none := by
    intro l hl
    induction l with
    | nil => rfl
    | cons x l ih =>
      have hx : (x.2.2 == CqWhy.evb) = false := beq_eq_false_iff_ne.mpr (hl x (List.mem_cons_self ..))
      rw [listIdx, hx, ih fun y hy => hl y (List.mem_cons_of_mem _ hy)]
      rfl
  simp [Chip.evbOffer, none _ cq, Chip.granRetry, gran]

theorem Chip.evbFree_of_sent {c : Chip} {s i : Nat} {e : Evb} (he : (c.slice s).evbs.look i = some e) (sent : ∀ b ∈ e.blocks, b.1 ∈ e.sent)
    (cq : ∀ x ∈ (c.slice s).cq, x.2.2 ≠ .evb) (gran : (c.slice s).granWait = []) :
    c.evbFree s i = c.onSlice s (fun sl => { sl with evbs := sl.evbs.del i }) := by
  simp only [Chip.evbFree, he]
  rw [if_pos (by simpa using fun a b h => sent (a, b) h), Chip.evbOffer_of_none]
  · rw [Chip.onSlice_slice_same]; exact cq
  · rw [Chip.onSlice_slice_same]; exact gran

theorem Chip.evbFree_of_unsent {c : Chip} {s i : Nat} {e : Evb} (he : (c.slice s).evbs.look i = some e) (unsent : ∃ b ∈ e.blocks, b.1 ∉ e.sent) :
    c.evbFree s i = c := by
  obtain ⟨b, hb, hs⟩ := unsent
  simp only [Chip.evbFree, he]
  refine if_neg fun h => hs ?_
  simpa using List.all_eq_true.mp h b hb

/-! ### Fills (R226) -/

/-- A slice in which a fill of sector `j` of a row has come back: the sector is free, and its line has it, clean, if the decoder has. -/
def Slice.filled (s : Slice) (w : RowLoc) (j : Nat) (st : Status) (d : Block) : Slice :=
  let sl := s.setBusy w j false
  match sl.lineOf w with
  | some (idx, _) => if st.flagged then sl else sl.onLine idx (fun l => { l.putSect j d false with age := 0 })
  | none => sl

/-- A fill changes of its slice the line and what is busy. -/
theorem Slice.filled_frame (s : Slice) (w : RowLoc) (j : Nat) (st : Status) (d : Block) :
    ∃ ls, s.filled w j st d = { s.setBusy w j false with lines := ls } := by
  unfold Slice.filled
  dsimp only
  split
  · split
    · exact ⟨_, rfl⟩
    · unfold Slice.onLine
      split <;> exact ⟨_, rfl⟩
  · exact ⟨_, rfl⟩

theorem Slice.filled_free (s : Slice) (w : RowLoc) (j : Nat) (st : Status) (d : Block) : (s.filled w j st d).sectBusy w j = false := by
  obtain ⟨ls, e⟩ := s.filled_frame w j st d
  rw [e]
  simp [Slice.sectBusy, Slice.setBusy]

theorem Slice.filled_line {s : Slice} {w : RowLoc} {idx : Nat} {l : Line} (h : s.Resident w idx l) (j : Nat) (st : Status) (d : Block) :
    (s.filled w j st d).lines.look idx = some (if st.flagged then l else { l.putSect j d false with age := 0 }) := by
  obtain ⟨here, look⟩ := h
  have here' : (s.setBusy w j false).lineOf w = some (idx, l) := here
  have look' : (s.setBusy w j false).lines.look idx = some l := look
  simp only [Slice.filled, here']
  split
  · exact look'
  · simp only [Slice.onLine, look', Tab.look_put, if_true]

/-- A fill for which no operation waits. -/
theorem Chip.fillBlock_of_idle {c : Chip} {w : RowLoc} (idle : (c.slice w.c).ops = []) (j : Nat) (st : Status) (d : Block) :
    c.fillBlock w j st d = c.onSlice w.c (·.filled w j st d) := by
  obtain ⟨ls, e⟩ := (c.slice w.c).filled_frame w j st d
  have ops : ((c.onSlice w.c (·.filled w j st d)).slice w.c).ops = [] := by rw [Chip.onSlice_slice_same, e]; exact idle
  show List.foldl _ (c.onSlice w.c (·.filled w j st d)) (List.filter _ ((c.onSlice w.c (·.filled w j st d)).slice w.c).ops) = _
  rw [ops]
  rfl

/-- What a read that waited for one sector answers once its fill has come back (R226, R452). -/
def fillResult (st : Status) (d : Block) (deg : Bool) (ix : Nat) : BlkRes :=
  if st.flagged then ⟨ix, st, 0⟩ else ⟨ix, st.degrade deg, d⟩

/-- The only operation of a slice, a part with one block, is done with that block: the slice answers it and has none left. -/
theorem Chip.closeOp_blkDone {c : Chip} {s i : Nat} {r : SliceReq} {b : BlkProg} (ops : (c.slice s).ops = [(i, ⟨.host r, [b]⟩)])
    (st : Status) (d : Block) :
    (c.onSlice s (·.blkDone i b.acc.ix st d)).closeOp s i = (c.onSlice s (fun sl => { sl with ops := [] })).sendPkt
      .rsp (epSlice s) r.port (.partRsp r.port r.tag r.part [⟨b.acc.ix, st, d⟩]) := by
  have done : (c.slice s).blkDone i b.acc.ix st d =
      { c.slice s with ops := [(i, ⟨.host r, [{ b with wait := .done, status := st, data := d }]⟩)] } := by
    simp [Slice.blkDone, Slice.onBlk, ops, Tab.look, Tab.put]
  have closed : (c.onSlice s (·.blkDone i b.acc.ix st d)).onSlice s (fun sl => { sl with ops := sl.ops.del i }) =
      c.onSlice s (fun sl => { sl with ops := [] }) := by
    simp only [Chip.onSlice_onSlice]
    simp only [Chip.onSlice, Tab.upd]
    refine congrArg (fun x : Slice => { c with slices := c.slices.put s x }) ?_
    show { (c.slice s).blkDone i b.acc.ix st d with ops := ((c.slice s).blkDone i b.acc.ix st d).ops.del i } = { c.slice s with ops := [] }
    rw [done]
    simp [Tab.del]
  simp only [Chip.closeOp, Chip.onSlice_slice_same, done, Tab.look, if_true, SliceOp.isDone, SliceOp.keeps, List.all_cons, List.all_nil,
    beq_self_eq_true, Bool.and_self, Bool.not_false, closed]
  rfl

/-- A fill for which one read waits, of that sector alone: the slice answers it. -/
theorem Chip.fillBlock_of_read {c : Chip} {w : RowLoc} {i j : Nat} {r : SliceReq} {a : BlockAcc} {st₀ : Status} {d₀ : Block}
    (ops : (c.slice w.c).ops = [(i, ⟨.host r, [⟨a, .fill, st₀, d₀⟩]⟩)]) (row : r.row = w) (kind : r.kind = .rd) (blk : a.blk = j)
    (st : Status) (d : Block) :
    c.fillBlock w j st d = (c.onSlice w.c (fun s => { s.filled w j st d with ops := [] })).sendPkt .rsp (epSlice w.c) r.port
      (.partRsp r.port r.tag r.part [fillResult st d (c.opDegraded (.host r)) a.ix]) := by
  obtain ⟨ls, e⟩ := (c.slice w.c).filled_frame w j st d
  have ops' : ((c.onSlice w.c (·.filled w j st d)).slice w.c).ops = [(i, ⟨.host r, [⟨a, .fill, st₀, d₀⟩]⟩)] := by
    rw [Chip.onSlice_slice_same, e]; exact ops
  have degraded : (c.onSlice w.c (·.filled w j st d)).opDegraded (.host r) = c.opDegraded (.host r) := rfl
  have waits : List.filter (fun (e : Nat × SliceOp) => e.2.src.row == w && e.2.blocks.any (fun b => b.wait == .fill && b.acc.blk == j))
      [(i, (⟨.host r, [⟨a, .fill, st₀, d₀⟩]⟩ : SliceOp))] = [(i, ⟨.host r, [⟨a, .fill, st₀, d₀⟩]⟩)] := by
    simp [OpSrc.row, row, blk]
  have closes := Chip.closeOp_blkDone ops'
  simp only [Chip.onSlice_onSlice] at closes
  show List.foldl _ (c.onSlice w.c (·.filled w j st d)) (List.filter _ ((c.onSlice w.c (·.filled w j st d)).slice w.c).ops) = _
  rw [ops', waits]
  simp only [List.foldl_cons, List.foldl_nil, OpSrc.kind, kind, degraded, fillResult]
  cases lost : st.flagged <;> simp [blk, Chip.onSlice_onSlice, closes]

/-- A slice takes the result at the head of its return queue. -/
def Slice.takesFill (s : Slice) (x : RetRes) (rest : List RetRes) : Slice := { s with ret := rest }.filled x.home x.j x.status x.data

theorem Slice.takesFill_keeps (s : Slice) (x : RetRes) (rest : List RetRes) :
    (s.takesFill x rest).ret = rest ∧ (s.takesFill x rest).cfg = s.cfg ∧ (s.takesFill x rest).mode = s.mode := by
  obtain ⟨ls, e⟩ := ({ s with ret := rest } : Slice).filled_frame x.home x.j x.status x.data
  rw [Slice.takesFill, e]
  exact ⟨rfl, rfl, rfl⟩

/-- Sending a packet keeps calm. -/
theorem Chip.Calm.sendPkt {c : Chip} (h : c.Calm) (vc : Vc) (src dst : Nat) (b : PktBody) : (c.sendPkt vc src dst b).Calm :=
  h.of_eq rfl rfl rfl rfl (fun _ => rfl) (fun _ => rfl) (fun _ => id) (fun _ => id)

/-- FILL_RETURN of a fill installs it in its slice, whose return queue has one result less. -/
theorem Chip.fillReturn_of_fill {c : Chip} {s j : Nat} {x : RetRes} {rest : List RetRes} (head : (c.slice s).ret = x :: rest)
    (origin : x.origin = .fill j) :
    c.fillReturn s = (c.onSlice s (fun sl => { sl with ret := rest })).fillBlock x.home x.j x.status x.data := by
  simp only [Chip.fillReturn, head, origin]

end Sys2Proof.Machine
end

section
/-! Conflict queue, eviction buffers and fills of a slice (O31). -/

namespace Sys2Proof.Machine

section
variable {s : State} {k : SliceIx} (hl : s.chip.live = true) (hc : s.chip.Calm)
include hl hc

/-- What an event of a slice that runs makes of its slice, where it changes no more than that slice, and of it neither shadow nor mode. -/
theorem exec_onSlice {i : Instr} {f : Chip → Chip} {g : Slice → Slice} (hh : s.chip.halted (fltDct k.val) = false)
    (run : exec i s = .next (s.onChip (fun c => (c.whenSlice k.val f).settle))) (hf : f s.chip = s.chip.onSlice k.val g)
    (cfg : (g (s.chip.slice k.val)).cfg = (s.chip.slice k.val).cfg) (mode : (g (s.chip.slice k.val)).mode = (s.chip.slice k.val).mode) :
    ∃ t, exec i s = .next t ∧ t.mem = s.mem ∧ t.chip.chcs = s.chip.chcs ∧ t.chip.slice k.val = g (s.chip.slice k.val) := by
  have calm : (s.chip.onSlice k.val g).Calm := hc.onSlice k.val g cfg (by rw [mode]; exact hc.slices k.val)
  have settled : (s.onChip (fun c => (c.whenSlice k.val f).settle)).chip = (s.chip.onSlice k.val g).settle := by
    rw [State.onChip_chip, Chip.whenSlice_of_runs f hl hh, hf]
  refine ⟨_, run, rfl, ?_, ?_⟩
  · rw [settled, Chip.settle_chcs _ calm, Chip.onSlice_chcs]
  · rw [settled, Chip.settle_slice _ _ calm, Chip.onSlice_slice_same]

/-- A fill that comes back to a slice in which nothing waits for it. -/
theorem exec_fillReturn_idle (hh : s.chip.halted (fltDct k.val) = false) {x : RetRes} {rest : List RetRes} {j idx : Nat} {l : Line}
    (head : (s.chip.slice k.val).ret = x :: rest) (origin : x.origin = .fill j) (home : x.home.c = k.val)
    (line : (s.chip.slice k.val).Resident x.home idx l) (idle : (s.chip.slice k.val).ops = []) :
    ∃ t, exec (.fillReturn k) s = .next t ∧ (t.chip.slice k.val).ret = rest ∧ (t.chip.slice k.val).sectBusy x.home x.j = false ∧
      (t.chip.slice k.val).lines.look idx = some (if x.status.flagged then l else { l.putSect x.j x.data false with age := 0 }) := by
  have returns : s.chip.fillReturn k.val = s.chip.onSlice k.val (·.takesFill x rest) := by
    rw [Chip.fillReturn_of_fill head origin, Chip.fillBlock_of_idle (by rw [home, Chip.onSlice_slice_same]; exact idle), home,
      Chip.onSlice_onSlice]
    rfl
  obtain ⟨ret, cfg, mode⟩ := (s.chip.slice k.val).takesFill_keeps x rest
  obtain ⟨t, run, -, -, slice⟩ := exec_onSlice hl hc (i := .fillReturn k) hh rfl returns cfg mode
  refine ⟨t, run, ?_, ?_, ?_⟩ <;> rw [slice]
  · exact ret
  · exact Slice.filled_free _ _ _ _ _
  · exact Slice.filled_line (s := { s.chip.slice k.val with ret := rest }) line x.j x.status x.data

/-- A fill that comes back to a slice in which one read waits for it. -/
theorem exec_fillReturn_read (hh : s.chip.halted (fltDct k.val) = false) {x : RetRes} {rest : List RetRes} {i j : Nat} {r : SliceReq}
    {a : BlockAcc} {st : Status} {d : Block} (head : (s.chip.slice k.val).ret = x :: rest) (origin : x.origin = .fill j)
    (home : x.home.c = k.val) (ops : (s.chip.slice k.val).ops = [(i, ⟨.host r, [⟨a, .fill, st, d⟩]⟩)]) (row : r.row = x.home)
    (kind : r.kind = .rd) (blk : a.blk = x.j) :
    ∃ t, exec (.fillReturn k) s = .next t ∧ (t.chip.slice k.val).ops = [] ∧
      t.chip.xbr.pkts = s.chip.xbr.pkts ++ [⟨.rsp, epSlice k.val, r.port, .partRsp r.port r.tag r.part
        [fillResult x.status x.data (s.chip.opDegraded (.host r)) a.ix]⟩] := by
  have returns : s.chip.fillReturn k.val = (s.chip.onSlice k.val (fun sl => { sl.takesFill x rest with ops := [] })).sendPkt .rsp
      (epSlice k.val) r.port (.partRsp r.port r.tag r.part [fillResult x.status x.data (s.chip.opDegraded (.host r)) a.ix]) := by
    rw [Chip.fillReturn_of_fill head origin, Chip.fillBlock_of_read (by rw [home, Chip.onSlice_slice_same]; exact ops) row kind blk, home,
      Chip.onSlice_onSlice]
    rfl
  obtain ⟨-, cfg, mode⟩ := (s.chip.slice k.val).takesFill_keeps x rest
  have calm : (s.chip.onSlice k.val (fun sl => { sl.takesFill x rest with ops := [] })).Calm :=
    hc.onSlice k.val _ cfg (by rw [show Slice.mode _ = _ from mode]; exact hc.slices k.val)
  refine ⟨_, rfl, ?_⟩
  rw [State.onChip_chip, Chip.whenSlice_of_runs _ hl hh, returns, Chip.settle_slice _ _ (calm.sendPkt _ _ _ _),
    Chip.settle_xbr _ (calm.sendPkt _ _ _ _), Chip.sendPkt_slice, Chip.onSlice_slice_same, Chip.sendPkt_pkts, Chip.onSlice_xbr]
  exact ⟨rfl, rfl⟩

end

/-- Settles O31: an arrival's wait is found in the order rescue, older work, lack, and each change is one of the slice alone, after which a
calm block stands still; a fill's only reader is done with its block, so the slice answers it. -/
theorem sliceBuffersMove : Obligations.SliceBuffersMove := by
  unfold Obligations.SliceBuffersMove
  intro s k hl hc
  refine ⟨fun hh => ⟨fun r err seq rest head room row => ?_, fun w err seq rest head room => ?_, fun i e he => ⟨fun sent cq gran => ?_,
    fun unsent => ?_⟩⟩, fun hh h9 i hi => ?_, fun x rest j idx l hh h9 head origin home line => ⟨fun idle => ?_, ?_⟩⟩
  · have waits : ∀ why, s.chip.arrivalWait seq (.host r) = some why → _ := fun why hw =>
      exec_onSlice hl hc (i := .sliceRequest k err) hh rfl (Chip.sliceRequest_of_waits err head room hw) rfl rfl
    refine ⟨fun served rescue => waits _ (Chip.arrivalWait_rescue seq served rescue), fun free => ⟨fun behind => waits _ ?_,
      fun why behind must => waits _ ?_⟩⟩
    · exact Chip.arrivalWait_order free (by rw [row]; exact behind)
    · rw [Chip.arrivalWait_mustWait free (by rw [row]; exact behind), row]; exact must
  · obtain ⟨inBuf, cfg, mode⟩ := (s.chip.slice k.val).joinWalk_keeps rest w
    obtain ⟨t, run, -, -, slice⟩ :=
      exec_onSlice hl hc (i := .sliceRequest k err) hh rfl (Chip.sliceRequest_walk err head room) cfg mode
    refine ⟨t, run, by rw [slice, inBuf], fun few => ?_, fun many => ?_⟩ <;> rw [slice, Slice.joinWalk]
    · rw [if_pos few]; exact ⟨rfl, rfl⟩
    · rw [if_neg (Nat.not_lt.mpr many)]; exact ⟨rfl, rfl⟩
  · obtain ⟨t, run, -, -, slice⟩ :=
      exec_onSlice hl hc (i := .evictionBufferFree k i) hh rfl (Chip.evbFree_of_sent he sent cq gran) rfl rfl
    exact ⟨t, run, slice⟩
  · refine ⟨_, rfl, ?_⟩
    rw [State.onChip_chip, Chip.whenSlice_of_runs _ hl hh, Chip.evbFree_of_unsent he unsent, Chip.settle_slice _ _ hc]
  · have still : ∀ f, s.onChip (fun c => (c.whenSlice k.val f).settle) = s := fun f =>
      State.onChip_of_eq (by rw [Chip.whenSlice_of_halted f hh, Chip.settle_eq _ hc h9])
    rcases hi with ⟨err, rfl⟩ | ⟨b, rfl⟩ | ⟨q, rfl⟩ | rfl <;> exact congrArg Host.Outcome.next (still _)
  · exact exec_fillReturn_idle hl hc hh head origin home line idle
  · exact fun i r a st d ops row kind blk => exec_fillReturn_read hl hc hh head origin home ops row kind blk

end Sys2Proof.Machine
end

section
/-! SUPPORT. What a change of the block leaves of what goes on by itself: the relation `Chip.Keeps`, and the operations that keep it. -/

namespace Sys2Proof.Machine

/-! ### What is kept -/

/-- What a channel controller is set up to do: its test, its compare run and its shadows. -/
def Chc.setup (h : Chc) : Chc :=
  { test := h.test, trnBusy := h.trnBusy, runCtl := h.runCtl, schedCfg := h.schedCfg, refCfg := h.refCfg, rdCfg := h.rdCfg
    calCfg := h.calCfg, eccCfg := h.eccCfg }

/-- A channel controller as `v` sees its pseudo-channels. -/
def Chc.seen (v : Pc → Pc) (h : Chc) : Chc × (Nat → Pc) := (h.setup, fun p => v (h.pc p))

/-- What a pseudo-channel is in, as the events that follow others look at it, with its rate and whether it is refreshed. -/
def Pc.bearing (pc : Pc) : Pc :=
  { state := pc.state, rescueStep := pc.rescueStep, cal := pc.cal, replaying := pc.replaying, rate4 := pc.rate4, timerOn := pc.timerOn }

/-- The bearing of a pseudo-channel with its lane map. -/
def Pc.stance (pc : Pc) : Pc := { pc.bearing with laneMap := pc.laneMap }

/-- From `c` to `d` the management packets, boot, the ports and the modes of slices are as they were, every channel controller is as `V` sees
it, and no error line has fallen. -/
structure Chip.Keeps {γ : Type} (V : Chc → γ) (c d : Chip) : Prop where
  mgt   : d.mgt = c.mgt
  boot  : d.boot = c.boot
  ports : d.ports = c.ports
  cfg   : ∀ s, (d.slice s).cfg = (c.slice s).cfg
  mode  : ∀ s, (d.slice s).mode = (c.slice s).mode
  chc   : ∀ k, V (d.chc k) = V (c.chc k)
  line  : ∀ b, (c.flt.evs.get {} b).line = true → (d.flt.evs.get {} b).line = true

section
variable {γ δ : Type} {V : Chc → γ} {c d e : Chip}

theorem Chip.Keeps.refl (c : Chip) : c.Keeps V c := ⟨rfl, rfl, rfl, fun _ => rfl, fun _ => rfl, fun _ => rfl, fun _ => id⟩

theorem Chip.Keeps.trans (h : c.Keeps V d) (h' : d.Keeps V e) : c.Keeps V e where
  mgt   := h'.mgt.trans h.mgt
  boot  := h'.boot.trans h.boot
  ports := h'.ports.trans h.ports
  cfg   := fun s => (h'.cfg s).trans (h.cfg s)
  mode  := fun s => (h'.mode s).trans (h.mode s)
  chc   := fun k => (h'.chc k).trans (h.chc k)
  line  := fun b hb => h'.line b (h.line b hb)

/-- What sees less keeps as much. -/
theorem Chip.Keeps.map (h : c.Keeps V d) (g : γ → δ) : c.Keeps (fun x => g (V x)) d :=
  { h with chc := fun k => congrArg g (h.chc k) }

theorem Chip.Keeps.of_eq (mgt : d.mgt = c.mgt) (boot : d.boot = c.boot) (ports : d.ports = c.ports) (slices : d.slices = c.slices)
    (chcs : d.chcs = c.chcs) (flt : d.flt = c.flt) : c.Keeps V d := by
  have slice : ∀ s, d.slice s = c.slice s := fun s => (congrArg (fun t : Tab Slice => t.get ({} : Slice) s) slices :)
  refine ⟨mgt, boot, ports, fun s => by rw [slice], fun s => by rw [slice], fun k => ?_, fun b hb => by rw [flt]; exact hb⟩
  exact (congrArg (fun t : Tab Chc => V (t.get ({} : Chc) k)) chcs :)

theorem Chip.Keeps.onSlice (c : Chip) (s : Nat) (f : Slice → Slice) (hc : (f (c.slice s)).cfg = (c.slice s).cfg)
    (hm : (f (c.slice s)).mode = (c.slice s).mode) : c.Keeps V (c.onSlice s f) := by
  refine ⟨rfl, rfl, rfl, fun n => ?_, fun n => ?_, fun _ => rfl, fun _ => id⟩ <;> rw [Chip.onSlice_slice] <;> split
  · subst_vars; exact hc
  · rfl
  · subst_vars; exact hm
  · rfl

theorem Chip.Keeps.onChc (c : Chip) (k : Nat) (f : Chc → Chc) (hf : V (f (c.chc k)) = V (c.chc k)) : c.Keeps V (c.onChc k f) := by
  refine ⟨rfl, rfl, rfl, fun _ => rfl, fun _ => rfl, fun n => ?_, fun _ => id⟩
  rw [Chip.onChc_chc]
  split
  · subst_vars; exact hf
  · rfl

/-- Changes of one channel controller that come to the same, as `V` sees it, keep what was kept before them. -/
theorem Chip.Keeps.onChcs (h : c.Keeps V d) (k : Nat) {f g : Chc → Chc} (hfg : V (g (d.chc k)) = V (f (c.chc k))) :
    (c.onChc k f).Keeps V (d.onChc k g) where
  mgt   := h.mgt
  boot  := h.boot
  ports := h.ports
  cfg   := h.cfg
  mode  := h.mode
  chc   := fun n => by
    rw [Chip.onChc_chc, Chip.onChc_chc]
    split
    · exact hfg
    · exact h.chc n
  line  := h.line

theorem Chip.Keeps.foldl {α : Type} (l : List α) (f : Chip → α → Chip) (c : Chip) (hf : ∀ (d : Chip) (a : α), d.Keeps V (f d a)) :
    c.Keeps V (l.foldl f c) :=
  List.foldlRecOn (motive := c.Keeps V) _ _ (.refl c) fun d hd a _ => hd.trans (hf d a)

end

/-! ### Pseudo-channels -/

section
variable {v : Pc → Pc} {c d e : Chip}

theorem Chip.Keeps.pc (h : c.Keeps (Chc.seen v) d) (k p : Nat) : v (d.pc k p) = v (c.pc k p) :=
  (congrArg (fun x : Chc × (Nat → Pc) => x.2 p) (h.chc k) :)

theorem Chip.Keeps.weaken {w : Pc → Pc} (h : c.Keeps (Chc.seen v) d) (g : Pc → Pc) (hw : ∀ pc, w pc = g (v pc)) : c.Keeps (Chc.seen w) d := by
  obtain rfl : w = fun pc => g (v pc) := funext hw
  exact h.map (fun x : Chc × (Nat → Pc) => (x.1, fun p => g (x.2 p)))

theorem Chc.seen_onPc (h h' : Chc) (p : Nat) (f f' : Pc → Pc) (hh : h.seen v = h'.seen v) (hf : v (f (h.pc p)) = v (f' (h'.pc p))) :
    (h.onPc p f).seen v = (h'.onPc p f').seen v := by
  obtain ⟨setup, pcs⟩ := Prod.mk.inj hh
  refine Prod.ext setup (funext fun q => ?_)
  show v ((h.onPc p f).pc q) = v ((h'.onPc p f').pc q)
  rw [Chc.onPc_pc, Chc.onPc_pc]
  split
  · exact hf
  · exact congrFun pcs q

theorem Chc.seen_onPc_same (h : Chc) (p : Nat) (f : Pc → Pc) (hf : v (f (h.pc p)) = v (h.pc p)) : (h.onPc p f).seen v = h.seen v := by
  refine Prod.ext rfl (funext fun q => ?_)
  show v ((h.onPc p f).pc q) = v (h.pc q)
  rw [Chc.onPc_pc]
  split
  · next e => rw [e]; exact hf
  · rfl

theorem Chip.Keeps.onPc (c : Chip) (k p : Nat) (f : Pc → Pc) (hf : v (f (c.pc k p)) = v (c.pc k p)) : c.Keeps (Chc.seen v) (c.onPc k p f) :=
  .onChc c k _ (Chc.seen_onPc_same _ p f hf)

/-- Changes of one pseudo-channel that come to the same, as `v` sees it, keep what was kept before them. -/
theorem Chip.Keeps.onPcs (h : c.Keeps (Chc.seen v) d) (k p : Nat) {f g : Pc → Pc} (hfg : v (g (d.pc k p)) = v (f (c.pc k p))) :
    (c.onPc k p f).Keeps (Chc.seen v) (d.onPc k p g) :=
  h.onChcs k (Chc.seen_onPc _ _ p _ _ (h.chc k) hfg)

/-- Two changes of a pseudo-channel, one after the other. -/
theorem Chip.onPc_onPc (c : Chip) (k p : Nat) (f g : Pc → Pc) : (c.onPc k p f).onPc k p g = c.onPc k p (fun x => g (f x)) := by
  simp [Chip.onPc, Chip.onChc, Chc.onPc, Tab.upd]

/-- A change of a pseudo-channel that bears on what `v` sees as on the rest keeps what was kept before it. -/
theorem Chip.Keeps.onPcs_same (h : c.Keeps (Chc.seen v) d) (k p : Nat) (g : Pc → Pc) (hg : ∀ x, v (g x) = g (v x)) :
    (c.onPc k p g).Keeps (Chc.seen v) (d.onPc k p g) :=
  h.onPcs k p (by rw [hg, hg, h.pc])

/-- What comes to such a change, after what comes to a change `f`. -/
theorem Chip.Keeps.andThen {k p : Nat} {f : Pc → Pc} (h : (c.onPc k p f).Keeps (Chc.seen v) d) (g : Pc → Pc) (hg : ∀ x, v (g x) = g (v x))
    (h' : (d.onPc k p g).Keeps (Chc.seen v) e) : (c.onPc k p (fun x => g (f x))).Keeps (Chc.seen v) e := by
  have both := h.onPcs_same k p g hg
  rw [Chip.onPc_onPc] at both
  exact both.trans h'

end

/-! ### Calm -/

/-- Whether a channel controller goes on only by events of its own is in what it is set up to do and in the bearing of its pseudo-channels. -/
theorem Chc.still_congr {h h' : Chc} (e : h.seen Pc.bearing = h'.seen Pc.bearing) : h.still = h'.still :=
  (congrArg (fun x : Chc × (Nat → Pc) =>
    (x.2 0).still x.1.test && (x.2 1).still x.1.test && (!x.1.trnBusy || (x.2 (natBits x.1.runCtl 4 1)).mayCompare)) e :)

theorem Chip.Calm.of_keeps {c d : Chip} (h : c.Calm) (hd : c.Keeps (Chc.seen Pc.bearing) d) : d.Calm := by
  refine h.of_eq (by rw [hd.mgt]) (by rw [hd.mgt]) (by rw [hd.mgt]) (by rw [hd.boot])
    (fun n => (congrArg (fun t : Tab Port => (t.get ({} : Port) n).cfg) hd.ports :)) (fun k => ?_) (fun k hk => by rwa [hd.mode] at hk)
    (fun k hk => (Chc.still_congr (hd.chc k)).trans hk)
  have dirty := congrArg (fun x : Chc × (Nat → Pc) =>
    x.1.schedCfg.dirty || x.1.refCfg.dirty || x.1.rdCfg.dirty || x.1.calCfg.dirty || x.1.eccCfg.dirty) (hd.chc k)
  have cfg := hd.cfg k
  simp only [Chc.seen, Chc.setup] at dirty
  simp only [Chip.channelDirty, dirty, cfg]

/-- A pseudo-channel of a controller that makes no compare run may change as it likes, if it is still. -/
theorem Chip.Calm.onPc_of_still {c : Chip} (h : c.Calm) {k : Nat} (idle : (c.chc k).trnBusy = false) (p : Nat) {f : Pc → Pc}
    (hf : (f (c.pc k p)).still (c.chc k).test = true) : (c.onPc k p f).Calm := by
  refine h.onPc k p f ?_
  have still := h.chcs k
  simp only [Chc.still, Bool.and_eq_true] at still
  have each : ∀ q, ((c.chc k).pc q).still (c.chc k).test = true → (((c.chc k).onPc p f).pc q).still (c.chc k).test = true := fun q hq => by
    rw [Chc.onPc_pc]
    split
    · exact hf
    · exact hq
  simp only [Chc.still, Bool.and_eq_true]
  exact ⟨⟨each 0 still.1.1, each 1 still.1.2⟩, by simp [Chc.onPc, idle]⟩

/-! ### Operations that keep everything of channel controllers -/

section
variable {γ : Type} {V : Chc → γ}

theorem Chip.setRemap_keeps (c : Chip) (e : Nat) (r : Remap) : c.Keeps V (c.setRemap e r) := .of_eq rfl rfl rfl rfl rfl rfl
theorem Chip.setRowmap_keeps (c : Chip) (e : Nat) (r : RowMap) : c.Keeps V (c.setRowmap e r) := .of_eq rfl rfl rfl rfl rfl rfl
theorem Chip.onDie_keeps (c : Chip) (d : Nat) (f : DieCtx → DieCtx) : c.Keeps V (c.onDie d f) := .of_eq rfl rfl rfl rfl rfl rfl
theorem Chip.drawFree_keeps (c : Chip) : c.Keeps V c.drawFree.2 := .of_eq rfl rfl rfl rfl rfl rfl
theorem Chip.sendPkt_keeps (c : Chip) (vc : Vc) (src dst : Nat) (b : PktBody) : c.Keeps V (c.sendPkt vc src dst b) :=
  .of_eq rfl rfl rfl rfl rfl rfl

theorem Chip.ringRec_keeps (c : Chip) (a : RingArgs) : c.Keeps V (c.ringRec a) := by
  obtain ⟨n, e⟩ := c.ringRec_frame a
  rw [e]; exact .of_eq rfl rfl rfl rfl rfl rfl

theorem Chip.laneHistPc_keeps (c : Chip) (kind k p w : Nat) : c.Keeps V (c.laneHistPc kind k p w) := by
  obtain ⟨n, e⟩ := c.journal_frame areaLane (leBytes 1 kind ++ leBytes 1 k ++ leBytes 1 p ++ leBytes 1 0 ++ leBytes 4 w)
  rw [Chip.laneHistPc, e]; exact .of_eq rfl rfl rfl rfl rfl rfl

theorem Chip.logRetire_keeps (c : Chip) (item v : Nat) (what : NvmFor) : c.Keeps V (c.logRetire item v what) := by
  obtain ⟨n, e⟩ := c.logRetire_frame item v what
  rw [e]; exact .of_eq rfl rfl rfl rfl rfl rfl

theorem EvReg.line_take (r : EvReg) (e : Event) (same : Bool) : (r.take e same).line = true := by
  unfold EvReg.take EvReg.line
  dsimp only
  split
  · rfl
  · next held => split <;> simp [held]

theorem Chip.raise_line (c : Chip) (b : Nat) (e : Event) : ((c.raise b e).flt.evs.get {} b).line = true := by
  simp [Chip.raise, EvReg.line_take]

theorem Chip.raise_keeps (c : Chip) (b : Nat) (e : Event) : c.Keeps V (c.raise b e) := by
  refine ⟨rfl, rfl, rfl, fun _ => rfl, fun _ => rfl, fun _ => rfl, fun n hn => ?_⟩
  simp only [Chip.raise, Tab.get_put]
  split
  · exact EvReg.line_take _ _ _
  · exact hn

theorem Chip.rateFallback_keeps (c : Chip) (k p : Nat) : c.Keeps V (c.rateFallback k p) :=
  (c.raise_keeps _ _).trans (Chip.laneHistPc_keeps _ _ _ _ _)

theorem Chip.rateFallback_line (c : Chip) (k p : Nat) : ((c.rateFallback k p).flt.evs.get {} (fltChc k)).line = true :=
  (Chip.laneHistPc_keeps (V := id) _ 3 k p 0).line _ (c.raise_line _ _)

theorem Chip.substitute_keeps (c : Chip) (k p cause : Nat) (racking : Bool) : c.Keeps V (c.substitute k p cause racking).1 :=
  .foldl _ _ _ fun d _ => d.setRemap_keeps _ _

theorem Chip.queueRescue_keeps (c : Chip) (k p : Nat) (es : List (Nat × Nat)) : c.Keeps V (c.queueRescue k p es) :=
  .foldl _ _ _ fun d _ => d.onDie_keeps _ _

end

end Sys2Proof.Machine
end

section
/-! SUPPORT. The fencing of a pseudo-channel: of what goes on by itself it changes no more than that pseudo-channel. -/

namespace Sys2Proof.Machine

/-! ### Accesses that end (R234, R238) -/

section
variable {γ : Type} {V : Chc → γ}

theorem Slice.onBlk_keeps (s : Slice) (i ix : Nat) (f : BlkProg → BlkProg) : (s.onBlk i ix f).cfg = s.cfg ∧ (s.onBlk i ix f).mode = s.mode := by
  unfold Slice.onBlk
  split <;> exact ⟨rfl, rfl⟩

theorem Chip.onBlk_keeps (c : Chip) (s i ix : Nat) (f : BlkProg → BlkProg) : c.Keeps V (c.onSlice s (·.onBlk i ix f)) :=
  .onSlice c s _ (Slice.onBlk_keeps _ i ix f).1 (Slice.onBlk_keeps _ i ix f).2

theorem Chip.answerOp_keeps (c : Chip) (s : Nat) (o : SliceOp) : c.Keeps V (c.answerOp s o) := by
  unfold Chip.answerOp
  split
  · exact c.sendPkt_keeps ..
  · split
    · exact .refl c
    · exact c.sendPkt_keeps ..

theorem Chip.closeOp_keeps (c : Chip) (s i : Nat) : c.Keeps V (c.closeOp s i) := by
  unfold Chip.closeOp
  split
  · split
    · exact (Chip.Keeps.onSlice c s _ rfl rfl).trans (Chip.answerOp_keeps _ _ _)
    · exact .refl c
  · exact .refl c

theorem Chip.opWriteQueued_keeps (c : Chip) (s i ix : Nat) : c.Keeps V (c.opWriteQueued s i ix) := by
  unfold Chip.opWriteQueued
  split
  · exact .refl c
  · refine (Chip.Keeps.onSlice c s _ ?_ ?_).trans (Chip.closeOp_keeps _ _ _) <;> dsimp only <;> split
    · exact (Slice.onBlk_keeps _ i ix _).1
    · exact (Slice.onBlk_keeps _ i ix _).1
    · exact (Slice.onBlk_keeps _ i ix _).2
    · exact (Slice.onBlk_keeps _ i ix _).2

theorem Chip.evbSent_keeps (c : Chip) (s i j : Nat) : c.Keeps V (c.evbSent s i j) := by
  refine .onSlice c s _ ?_ ?_ <;> split <;> rfl

theorem Chip.accessQueued_keeps (c : Chip) (m : Cmd) : c.Keeps V (c.accessQueued m) := by
  unfold Chip.accessQueued
  split
  · exact c.opWriteQueued_keeps ..
  · exact c.evbSent_keeps ..
  · exact c.onBlk_keeps ..
  · exact c.onDie_keeps ..
  · exact .refl c

theorem Chip.endPass_keeps (c : Chip) (d : Nat) : c.Keeps V (c.endPass d) :=
  (c.ringRec_keeps _).trans (Chip.onDie_keeps _ _ _)

theorem Chip.scrubBack_keeps (c : Chip) (d : Nat) : c.Keeps V (c.scrubBack d) := by
  unfold Chip.scrubBack Chip.scrubOver
  split
  · exact (c.onDie_keeps d _).trans (Chip.endPass_keeps _ _)
  · exact c.onDie_keeps d _

theorem Chip.discardRows_keeps (c : Chip) (s : Nat) (lost : RowLoc → Bool) : c.Keeps V (c.discardRows s lost) := by
  unfold Chip.discardRows
  dsimp only
  split
  · exact .refl c
  · split
    · exact .onSlice c s _ rfl rfl
    · exact (Chip.Keeps.onSlice c s _ rfl rfl).trans (Chip.ringRec_keeps _ _)

theorem Chip.endCopied_keeps (c : Chip) (k p : Nat) : c.Keeps V (c.endCopied k p) := by
  refine .foldl _ _ _ fun d b => ?_
  split
  · split
    · exact d.setRemap_keeps ..
    · exact .refl d
  · exact .refl d

theorem Chip.replaceRetired_keeps (c : Chip) (bank old : Nat) (field : Bool) : c.Keeps V (c.replaceRetired bank old field) := by
  unfold Chip.replaceRetired
  split
  · exact (((c.setRemap_keeps _ _).trans (Chip.logRetire_keeps _ _ _ _)).trans (Chip.logRetire_keeps _ _ _ _)).trans (Chip.ringRec_keeps _ _)
  · split
    · exact .of_eq rfl rfl rfl rfl rfl rfl
    · exact .refl c

end

/-! ### What goes through the queues of pseudo-channels -/

theorem Chip.Sends.keeps {c d : Chip} (h : c.Sends d) : c.Keeps (Chc.seen Pc.stance) d where
  mgt   := (congrArg Chip.mgt h.frame :)
  boot  := h.boot
  ports := (congrArg Chip.ports h.frame :)
  cfg s := (congrArg Slice.cfg (h.slice s) : (d.slice s).unsent.cfg = (c.slice s).unsent.cfg)
  mode s := (congrArg Slice.mode (h.slice s) : (d.slice s).unsent.mode = (c.slice s).unsent.mode)
  chc k := Prod.ext (congrArg Chc.setup (h.chc k) :) (funext fun p => (congrArg Pc.stance (h.pc k p) :))
  line b := by rw [show d.flt = c.flt from (congrArg Chip.flt h.frame :)]; exact id

theorem Chip.rackWrite_keeps (c : Chip) (d b : Nat) (data : Block) (lost : Bool) : c.Keeps (Chc.seen Pc.stance) (c.rackWrite d b data lost) := by
  unfold Chip.rackWrite
  split
  · exact .refl c
  · refine Chip.Keeps.trans ?_ (Chip.sendCmd_sends _ _).keeps
    split
    · exact c.onDie_keeps ..
    · exact .refl c

theorem Chip.endLost_keeps (c : Chip) (st : Status) (m : Cmd) : c.Keeps (Chc.seen Pc.stance) (c.endLost st m) := by
  unfold Chip.endLost
  split
  · exact .refl c
  · split
    · exact .onSlice c _ _ rfl rfl
    · exact .onSlice c _ _ rfl rfl
    · exact c.rackWrite_keeps ..
    · exact c.scrubBack_keeps _
    · exact .refl c

theorem Chip.endUnsent_keeps (c : Chip) (st : Status) (m : Cmd) : c.Keeps (Chc.seen Pc.stance) (c.endUnsent st m) := by
  unfold Chip.endUnsent
  split
  · exact (c.onBlk_keeps _ _ _ _).trans (Chip.accessQueued_keeps _ _)
  · exact c.accessQueued_keeps m
  · exact c.accessQueued_keeps m
  · exact c.endLost_keeps st m

theorem Chip.sift_keeps (c : Chip) (s : Nat) : c.Keeps (Chc.seen Pc.stance) (c.sift s) := by
  unfold Chip.sift
  dsimp only
  split
  · exact .refl c
  · refine (Chip.Keeps.onSlice c s _ rfl rfl).trans (.foldl _ _ _ fun d m => ?_)
    split
    · exact d.endUnsent_keeps _ _
    · exact .refl d

theorem Chip.siftAll_keeps (c : Chip) : c.Keeps (Chc.seen Pc.stance) c.siftAll :=
  .foldl _ _ _ fun d s => (d.sift_keeps s).trans (Chip.pushOut_sends _ s).keeps

theorem Chip.pullBack_keeps (c : Chip) (k p : Nat) : c.Keeps (Chc.seen Pc.stance) (c.pullBack k p) :=
  (Chip.Keeps.onPc c k p _ rfl).trans (.foldl _ _ _ fun d _ => .onSlice d _ _ rfl rfl)

theorem Chip.endQueues_keeps (c : Chip) (k p : Nat) : c.Keeps (Chc.seen Pc.stance) (c.endQueues k p) :=
  ((Chip.Keeps.onChc c k _ rfl).trans (.onPc _ k p _ rfl)).trans (.foldl _ _ _ fun d m => d.endLost_keeps _ m)

theorem Chc.seen_orphan (h : Chc) (p d : Nat) : (h.orphan p d).seen Pc.stance = h.seen Pc.stance :=
  Chc.seen_onPc_same h p (fun pc => { pc with
    fifo := pc.fifo.map (·.orphan d), rq := pc.rq.map (·.orphan d)
    bursts := pc.bursts.map (fun b => { b with access := b.access.orphan d }) }) rfl

theorem Chip.endRackEarly_keeps (c : Chip) (d : Nat) (j : RackJob) : c.Keeps (Chc.seen Pc.stance) (c.endRackEarly d j) :=
  ((c.onDie_keeps d _).trans (.onSlice _ _ _ rfl rfl)).trans (.onChc _ _ _ (Chc.seen_orphan _ _ d))

theorem Chip.dropRacks_keeps (c : Chip) (f : RackJob → Bool) : c.Keeps (Chc.seen Pc.stance) (c.dropRacks f) := by
  refine .foldl _ _ _ fun c d => ?_
  have queue : c.Keeps (Chc.seen Pc.stance)
      (if (c.die d).queue.any f then c.onDie d (fun x => { x with queue := x.queue.filter (fun j => !f j) }) else c) := by
    split
    · exact c.onDie_keeps ..
    · exact .refl c
  dsimp only
  split
  · split
    · exact queue.trans (Chip.endRackEarly_keeps _ _ _)
    · exact queue
  · exact queue

/-! ### The fence (R238, R373, R421) -/

theorem Chip.fencePc_keeps (c : Chip) (k p : Nat) : (c.onPc k p Pc.fence).Keeps (Chc.seen Pc.stance) (c.fencePc k p) := by
  unfold Chip.fencePc
  split
  · rw [Chip.endCal, Chip.onPc_onPc]
    split
    · exact c.drawFree_keeps.onPcs k p rfl
    · exact Chip.Keeps.onPcs (.refl c) k p rfl
  · exact .refl _

/-- What had been kept before a fence is after it. -/
theorem Chip.Keeps.fencePc {c d : Chip} (h : c.Keeps (Chc.seen Pc.stance) d) (k p : Nat) :
    (c.onPc k p Pc.fence).Keeps (Chc.seen Pc.stance) (d.fencePc k p) :=
  (h.onPcs_same k p Pc.fence fun _ => rfl).trans (d.fencePc_keeps k p)

theorem Chip.reserveUnusable_keeps (c : Chip) (k p : Nat) : (c.onPc k p Pc.fence).Keeps (Chc.seen Pc.stance) (c.reserveUnusable [(k, p)]) := by
  unfold Chip.reserveUnusable
  dsimp only [List.foldl_cons, List.foldl_nil]
  split
  · exact ((c.fencePc_keeps k p).trans (Chip.endQueues_keeps _ k p)).trans (.foldl _ _ _ fun d e => d.setRemap_keeps _ _)
  · have held (lost : RowLoc → Bool) : c.Keeps (Chc.seen Pc.stance) ((below 64).foldl (fun c s => c.discardRows s lost) (c.pullBack k p)) :=
      (c.pullBack_keeps k p).trans (.foldl _ _ _ fun d s => d.discardRows_keeps s lost)
    have fenced (lost : RowLoc → Bool) := ((held lost).fencePc k p).trans (Chip.endQueues_keeps _ k p)
    refine Chip.Keeps.trans ?_ (Chip.siftAll_keeps _)
    refine Chip.Keeps.trans ?_ (.foldl _ _ _ fun d x => ?_)
    · refine Chip.Keeps.trans ?_ (.foldl _ _ _ fun d i => d.substitute_keeps _ _ _ _)
      refine Chip.Keeps.trans ?_ (Chip.dropRacks_keeps _ _)
      exact (fenced _).trans (.foldl _ _ _ fun d e => d.setRemap_keeps _ _)
    · split
      · exact d.replaceRetired_keeps _ _ _
      · exact .refl d

theorem Chip.fenceAll_keeps (c : Chip) (k p cause : Nat) : (c.onPc k p Pc.fence).Keeps (Chc.seen Pc.stance) (c.fenceAll [(k, p)] cause) := by
  unfold Chip.fenceAll
  dsimp only [List.foldl_cons, List.foldl_nil]
  have held (f : RackJob → Bool) : c.Keeps (Chc.seen Pc.stance) (((c.pullBack k p).discardLines k p).dropRacks f) :=
    ((c.pullBack_keeps k p).trans (Chip.discardRows_keeps _ _ _)).trans (Chip.dropRacks_keeps _ f)
  have fenced (f : RackJob → Bool) := ((held f).fencePc k p).trans (Chip.endQueues_keeps _ k p)
  refine Chip.Keeps.trans ?_ (Chip.siftAll_keeps _)
  refine Chip.Keeps.trans ?_ (Chip.substitute_keeps _ k p cause false)
  refine Chip.Keeps.trans ?_ (Chip.endCopied_keeps _ k p)
  refine (fenced _).trans (.foldl _ _ _ fun d i => ?_)
  split
  · exact d.onDie_keeps _ _
  · exact .refl d

/-- Step 5 of the rescue table fences its pseudo-channel and raises the loss at its controller (R419). -/
theorem Chip.fenceStep5_keeps (c : Chip) (k p : Nat) (h : c.fenced k p = false) :
    (c.onPc k p Pc.fence).Keeps (Chc.seen Pc.stance) (c.fenceStep5 k p) ∧ ((c.fenceStep5 k p).flt.evs.get {} (fltChc k)).line = true := by
  have recorded (d : Chip) (n : Nat) : (d.raise (fltChc k) ⟨2, 0x66, p⟩).Keeps (Chc.seen Pc.stance) (d.fenceRec k p n) :=
    (Chip.ringRec_keeps _ _).trans (Chip.laneHistPc_keeps _ _ _ _ _)
  have fences : ∃ d, (c.onPc k p Pc.fence).Keeps (Chc.seen Pc.stance) d ∧ c.fenceStep5 k p = d.fenceRec k p (c.pc k p).rescueRows := by
    by_cases data : k < 64
    · exact ⟨_, c.fenceAll_keeps k p 2, by simp [Chip.fenceStep5, Chip.fenceLost, h, data, Nat.not_le.mpr data]⟩
    · exact ⟨_, c.reserveUnusable_keeps k p, by simp [Chip.fenceStep5, Chip.fenceLost, h, data, Nat.not_lt.mp data]⟩
  obtain ⟨d, keeps, e⟩ := fences
  rw [e]
  exact ⟨(keeps.trans (d.raise_keeps _ _)).trans (recorded d _), (recorded d _).line _ (d.raise_line _ _)⟩

end Sys2Proof.Machine
end

section
/-! SUPPORT. The training of a pseudo-channel: what it leaves, and where it finds a working setting. -/

namespace Sys2Proof.Machine

/-! ### What a training leaves (R408-R415) -/

/-- A pseudo-channel as no part of a training changes it: its bearing and what it has under way. -/
def Pc.untuned (pc : Pc) : Pc :=
  { pc.bearing with rescueWb := pc.rescueWb, fifo := pc.fifo, rq := pc.rq, wq := pc.wq, bursts := pc.bursts }

/-- From `c` to `d` no more has happened than in a training: pseudo-channels, FLT and NVM apart all is as it was, and of pseudo-channels
and their controllers what goes on by itself and what is under way. -/
structure Chip.Tunes (c d : Chip) : Prop where
  frame : d = { c with chcs := d.chcs, flt := d.flt, nvm := d.nvm }
  seen  : ∀ k, (d.chc k).seen Pc.untuned = (c.chc k).seen Pc.untuned
  retry : ∀ k, (d.chc k).retry = (c.chc k).retry
  line  : ∀ b, (c.flt.evs.get {} b).line = true → (d.flt.evs.get {} b).line = true

theorem Chip.Tunes.refl (c : Chip) : c.Tunes c := ⟨rfl, fun _ => rfl, fun _ => rfl, fun _ => id⟩

theorem Chip.Tunes.trans {c d e : Chip} (h : c.Tunes d) (h' : d.Tunes e) : c.Tunes e where
  frame := h'.frame.trans (congrArg (fun x : Chip => { x with chcs := e.chcs, flt := e.flt, nvm := e.nvm }) h.frame)
  seen  := fun k => (h'.seen k).trans (h.seen k)
  retry := fun k => (h'.retry k).trans (h.retry k)
  line  := fun b hb => h'.line b (h.line b hb)

theorem Chip.Tunes.onChc (c : Chip) (k : Nat) (f : Chc → Chc) (hs : (f (c.chc k)).seen Pc.untuned = (c.chc k).seen Pc.untuned)
    (hr : (f (c.chc k)).retry = (c.chc k).retry) : c.Tunes (c.onChc k f) := by
  refine ⟨rfl, fun n => ?_, fun n => ?_, fun _ => id⟩ <;> rw [Chip.onChc_chc] <;> split
  · subst_vars; exact hs
  · rfl
  · subst_vars; exact hr
  · rfl

theorem Chip.Tunes.onPc (c : Chip) (k p : Nat) (f : Pc → Pc) (hf : ∀ pc, (f pc).untuned = pc.untuned) : c.Tunes (c.onPc k p f) :=
  .onChc c k _ (Chc.seen_onPc_same _ p f (hf _)) rfl

theorem Chip.Tunes.keeps {c d : Chip} (h : c.Tunes d) : c.Keeps (Chc.seen Pc.untuned) d where
  mgt   := (congrArg Chip.mgt h.frame :)
  boot  := (congrArg Chip.boot h.frame :)
  ports := (congrArg Chip.ports h.frame :)
  cfg s := congrArg (fun t : Tab Slice => (t.get ({} : Slice) s).cfg) (show d.slices = c.slices from (congrArg Chip.slices h.frame :))
  mode s := congrArg (fun t : Tab Slice => (t.get ({} : Slice) s).mode) (show d.slices = c.slices from (congrArg Chip.slices h.frame :))
  chc   := h.seen
  line  := h.line

theorem Chip.Tunes.journal (c : Chip) (area : Nat) (body : List Byte) : c.Tunes (c.journal area body) := by
  obtain ⟨n, e⟩ := c.journal_frame area body
  rw [e]; exact ⟨rfl, fun _ => rfl, fun _ => rfl, fun _ => id⟩

theorem Chip.Tunes.raise (c : Chip) (b : Nat) (e : Event) : c.Tunes (c.raise b e) :=
  ⟨rfl, fun _ => rfl, fun _ => rfl, (c.raise_keeps (V := id) b e).line⟩

/-! ### Repair and erasure (R412-R414) -/

theorem Chip.laneChanged_tunes (c : Chip) (k p lane : Nat) (spare : Option Nat) (sym : Nat) : c.Tunes (c.laneChanged k p lane spare sym) := by
  unfold Chip.laneChanged
  have counted : c.Tunes (c.onChc k (fun h => { h with cntLane := bump32 h.cntLane })) := .onChc c k _ rfl rfl
  split <;> exact (counted.trans (.raise _ _ _)).trans (.journal _ _ _)

theorem Pc.addErasure_untuned (pc : Pc) (s : Nat) : (pc.addErasure s).untuned = pc.untuned := by unfold Pc.addErasure; dsimp only; split <;> rfl

theorem Chip.eraseSym_tunes (c : Chip) (k p lane sym : Nat) : c.Tunes (c.eraseSym k p lane sym).1 := by
  unfold Chip.eraseSym
  split
  · dsimp only
    exact (Chip.Tunes.onPc c k p _ fun pc => pc.addErasure_untuned sym).trans (Chip.laneChanged_tunes _ _ _ _ _ _)
  · exact .refl c

theorem Pc.setSpare_untuned (pc : Pc) (lane : Nat) (s : Option Nat) : (pc.setSpare lane s).untuned = pc.untuned := rfl

theorem Chip.laneFails_tunes (c : Chip) (k p lane : Nat) : c.Tunes (c.laneFails k p lane).1 := by
  have moved (s : Nat) (spare : Option Nat) : c.Tunes ((c.onPc k p (·.setSpare s (some lane))).laneChanged k p lane spare lane) :=
    (Chip.Tunes.onPc c k p _ fun pc => pc.setSpare_untuned s (some lane)).trans (Chip.laneChanged_tunes _ _ _ _ _ _)
  unfold Chip.laneFails
  dsimp only
  split
  · split
    · exact .refl c
    · split
      · exact moved 36 (some 36)
      · split
        · exact moved 37 (some 37)
        · exact c.eraseSym_tunes ..
  · split
    · split
      · exact .refl c
      · exact c.eraseSym_tunes ..
    · exact .refl c

theorem Chip.moveLanes_tunes (c : Chip) (k p : Nat) (ls : List Nat) : c.Tunes (c.moveLanes k p ls).1 := by
  refine List.foldlRecOn (motive := fun x : Chip × Bool => c.Tunes x.1) _ _ (.refl c) fun x hx l _ => ?_
  split
  · exact hx.trans (x.1.laneFails_tunes k p l)
  · exact hx

/-- The block between the sweeps and the confirmation of an attempt (R408 step 7). -/
def Chip.toConfirm (c : Chip) (k p : Nat) : Chip :=
  c.onChc k (fun h => { (h.onPc p Pc.confirmModes) with patLo := 0x0FF0F00F, patHi := 0x3C3CC3C3 })

/-- The lanes that fail the confirmation of an attempt, with the spare lanes that failed its sweeps. -/
def confirmLanes (a : TrainAttempt) : List Nat := lanesThat (fun l => if l < 36 then a.confirmFails l else a.sweepFails l || a.confirmFails l)

theorem Chip.repairLanes_eq (c : Chip) (k p : Nat) (a : TrainAttempt) :
    c.repairLanes k p a = if (c.moveLanes k p (lanesThat a.sweepFails)).2 then
      ((c.moveLanes k p (lanesThat a.sweepFails)).1.toConfirm k p).moveLanes k p (confirmLanes a)
    else ((c.moveLanes k p (lanesThat a.sweepFails)).1, false) := by
  unfold Chip.repairLanes
  cases c.moveLanes k p (lanesThat a.sweepFails) with
  | mk d ok => cases ok <;> rfl

theorem Chip.toConfirm_tunes (c : Chip) (k p : Nat) : c.Tunes (c.toConfirm k p) := by
  refine .onChc c k _ ?_ rfl
  have modes : ((c.chc k).onPc p Pc.confirmModes).seen Pc.untuned = (c.chc k).seen Pc.untuned := Chc.seen_onPc_same _ p Pc.confirmModes rfl
  exact modes

theorem Chip.repairLanes_tunes (c : Chip) (k p : Nat) (a : TrainAttempt) : c.Tunes (c.repairLanes k p a).1 := by
  have swept := c.moveLanes_tunes k p (lanesThat a.sweepFails)
  rw [Chip.repairLanes_eq]
  split
  · exact (swept.trans (Chip.toConfirm_tunes _ k p)).trans (Chip.moveLanes_tunes _ _ _ _)
  · exact swept

theorem Chip.moveLanes_nil (c : Chip) (k p : Nat) : c.moveLanes k p [] = (c, true) := rfl

theorem lanesThat_eq_nil {f : Nat → Bool} (h : ∀ l, l < 38 → f l = false) : lanesThat f = [] := by
  rw [lanesThat, List.filter_eq_nil_iff]
  intro l hl
  simp [h l (by simpa using hl)]

/-- Where no lane fails, nothing is repaired, and a working setting remains (R408). -/
theorem Chip.repairLanes_of_finds (c : Chip) (k p : Nat) {a : TrainAttempt} (h : ∀ l, l < 38 → a.sweepFails l = false ∧ a.confirmFails l = false) :
    (c.repairLanes k p a).2 = true := by
  have sweep : lanesThat a.sweepFails = [] := lanesThat_eq_nil fun l hl => (h l hl).1
  have confirm : confirmLanes a = [] := by
    refine lanesThat_eq_nil (f := fun l => if l < 36 then a.confirmFails l else a.sweepFails l || a.confirmFails l) fun l hl => ?_
    obtain ⟨swept, confirmed⟩ := h l hl
    simp [swept, confirmed]
  rw [Chip.repairLanes_eq, sweep, confirm, Chip.moveLanes_nil, if_pos rfl, Chip.moveLanes_nil]

/-! ### An attempt at one rate (R408, R415) -/

theorem Pc.setNow_untuned (vs : List (Nat × Setting)) (pc : Pc) : (pc.setNow vs).untuned = pc.untuned :=
  List.foldlRecOn (motive := fun x : Pc => x.untuned = pc.untuned) _ _ rfl fun _ hx _ _ => hx

theorem Pc.acceptVal_untuned (pc : Pc) (t : Int) (key : Nat) (isDelay : Bool) (v : Nat) : (pc.acceptVal t key isDelay v).untuned = pc.untuned := by
  unfold Pc.acceptVal
  dsimp only
  split <;> rfl

/-- A pseudo-channel at a rate. -/
def Pc.rated (rate4 : Bool) (pc : Pc) : Pc := { pc with rate4 := rate4 }

/-- A pseudo-channel as an attempt begins: at its rate, and with no repair and no erasure where it starts anew. -/
def Pc.atRate (rate4 anew : Bool) (pc : Pc) : Pc := { (if anew then pc.sweepModes.setMap 0 else pc.sweepModes) with rate4 := rate4 }

/-- A pseudo-channel takes the settings that an attempt has found, and at 8 Gb/s adjusts its stored points by them (R409, R432). -/
def Pc.adopt (a : TrainAttempt) (t : Int) (rate4 : Bool) (pc : Pc) : Pc :=
  let vs := pc.foundSettings a
  let pc := pc.setNow vs
  if rate4 then pc else vs.foldl (fun pc (x, s) => (pc.acceptVal t x true s.delay).acceptVal t x false s.vref) pc

theorem Pc.adopt_untuned (a : TrainAttempt) (t : Int) (rate4 : Bool) (pc : Pc) : (pc.adopt a t rate4).untuned = pc.untuned := by
  unfold Pc.adopt
  dsimp only
  split
  · exact Pc.setNow_untuned _ pc
  · refine List.foldlRecOn (motive := fun x : Pc => x.untuned = pc.untuned) _ _ (Pc.setNow_untuned _ pc) fun x hx y _ => ?_
    rw [Pc.acceptVal_untuned, Pc.acceptVal_untuned]; exact hx

theorem Chip.trainAt_eq (c : Chip) (k p : Nat) (a : TrainAttempt) (able rate4 anew : Bool) :
    c.trainAt k p a able rate4 anew = if able && a.cmdOk then
      if ((c.onPc k p (·.atRate rate4 anew)).repairLanes k p a).2 then
        ((((c.onPc k p (·.atRate rate4 anew)).repairLanes k p a).1.onPc k p (·.adopt a (c.dieTemp8 k) rate4)).marginRec k p rate4 a, true)
      else (((c.onPc k p (·.atRate rate4 anew)).repairLanes k p a).1, false)
    else (c.onPc k p (·.atRate rate4 anew), false) := by
  change (if !(able && a.cmdOk) then (c.onPc k p (·.atRate rate4 anew), false) else
    match (c.onPc k p (·.atRate rate4 anew)).repairLanes k p a with
    | (d, ok) => if !ok then (d, false) else ((d.onPc k p (·.adopt a (c.dieTemp8 k) rate4)).marginRec k p rate4 a, true)) = _
  cases able && a.cmdOk
  · rfl
  · cases (c.onPc k p (·.atRate rate4 anew)).repairLanes k p a with
    | mk d ok => cases ok <;> rfl

theorem Chip.trainAt_tunes (c : Chip) (k p : Nat) (a : TrainAttempt) (able rate4 anew : Bool) :
    (c.onPc k p (·.atRate rate4 anew)).Tunes (c.trainAt k p a able rate4 anew).1 := by
  rw [Chip.trainAt_eq]
  split
  · split
    · exact ((Chip.repairLanes_tunes _ k p a).trans (.onPc _ k p _ fun pc => pc.adopt_untuned a _ rate4)).trans (.journal _ _ _)
    · exact Chip.repairLanes_tunes _ k p a
  · exact .refl _

/-- An attempt sets the rate of its pseudo-channel, as far as what goes on by itself sees it. -/
theorem Chip.trainAt_keeps (c : Chip) (k p : Nat) (a : TrainAttempt) (able rate4 anew : Bool) :
    (c.onPc k p (·.rated rate4)).Keeps (Chc.seen Pc.untuned) (c.trainAt k p a able rate4 anew).1 := by
  refine Chip.Keeps.trans (Chip.Keeps.onPcs (.refl c) k p ?_) (c.trainAt_tunes k p a able rate4 anew).keeps
  cases anew <;> rfl

theorem Chip.trainAt_of_finds (c : Chip) (k p : Nat) {a : TrainAttempt} (ok : a.cmdOk = true)
    (h : ∀ l, l < 38 → a.sweepFails l = false ∧ a.confirmFails l = false) (rate4 anew : Bool) :
    (c.trainAt k p a true rate4 anew).2 = true := by
  rw [Chip.trainAt_eq, if_pos (by simp [ok]), if_pos (Chip.repairLanes_of_finds _ k p h)]

theorem Chip.trainAt_of_fails (c : Chip) (k p : Nat) {a : TrainAttempt} {able : Bool} (h : able = false ∨ a.cmdOk = false) (rate4 anew : Bool) :
    (c.trainAt k p a able rate4 anew).2 = false := by
  rw [Chip.trainAt_eq, if_neg]
  rcases h with h | h <;> simp [h]

end Sys2Proof.Machine
end

section
/-! SUPPORT. How the training of a pseudo-channel ends: at boot, under TRAIN, and in a rescue. -/

namespace Sys2Proof.Machine

theorem Chip.Keeps.bearing {c d : Chip} (h : c.Keeps (Chc.seen Pc.untuned) d) : c.Keeps (Chc.seen Pc.bearing) d := h.weaken Pc.bearing fun _ => rfl

/-! ### Into service (R372, R409, R415) -/

/-- A pseudo-channel in service. -/
def Pc.served (pc : Pc) : Pc := { pc with state := .normal }

/-- A pseudo-channel whose refresh timer has started. -/
def Pc.timed (pc : Pc) : Pc := { pc with timerOn := true }

theorem Pc.reeval_untuned (pc : Pc) (t : Int) : (pc.reeval t).untuned = pc.untuned := by
  unfold Pc.reeval Pc.pendChange
  split
  · rfl
  · dsimp only
    split <;> rfl

theorem Chip.trained_keeps (c : Chip) (k p : Nat) : (c.onPc k p Pc.served).Keeps (Chc.seen Pc.untuned) (c.trained k p) := by
  refine Chip.Keeps.trans (Chip.Keeps.onPcs (.refl c) k p ?_) (Chip.Tunes.onPc _ k p _ fun pc => pc.reeval_untuned _).keeps
  rfl

theorem Chip.pathTrained_keeps (c : Chip) (k p : Nat) : (c.onPc k p Pc.timed).Keeps (Chc.seen Pc.bearing) (c.pathTrained k p) := by
  have timer (h : Chc) (rng b : Nat) :
      (({ h with rng := rng } : Chc).onPc p (fun pc =>
        if pc.timerOn then pc else { pc with timerOn := true, band := b, timer := h.timerStart k p b, owed := 0, postMax := h.postMax })).seen Pc.bearing =
      (h.onPc p Pc.timed).seen Pc.bearing := by
    refine Chc.seen_onPc { h with rng := rng } h p _ _ rfl ?_
    show Pc.bearing (if (h.pc p).timerOn then h.pc p else _) = _
    split
    · next on => simp [Pc.bearing, Pc.timed, on]
    · rfl
  unfold Chip.pathTrained
  dsimp only
  split
  · exact c.drawFree_keeps.onChcs k (timer _ _ _)
  · exact Chip.Keeps.onChcs (.refl c) k (timer _ _ _)

/-! ### The training at boot (R408, R410, R415) -/

/-- A pseudo-channel is counted among those that boot has fenced. -/
def Chip.countFenced (c : Chip) : Chip := { c with boot := { c.boot with pcFenced := c.boot.pcFenced + 1 } }

theorem Chip.Keeps.countFenced {γ : Type} {V : Chc → γ} {c d : Chip} (h : c.Keeps V d) : c.countFenced.Keeps V d.countFenced :=
  { h with boot := by rw [Chip.countFenced, Chip.countFenced, h.boot] }

/-- A pseudo-channel without a repair and without an erasure, at 8 Gb/s. -/
def Pc.plain (pc : Pc) : Pc := { pc.setMap 0 with rate4 := false }

/-- The fence of a pseudo-channel that boot finds without a working setting. -/
def Chip.fenceUntrained (c : Chip) (k p : Nat) : Chip :=
  if k < 64 then (c.countFenced.onPc k p Pc.plain).fencePc k p else (c.countFenced.onPc k p Pc.plain).reserveUnusable [(k, p)]

/-- A pseudo-channel that boot fences, as what goes on by itself sees it. -/
def Pc.pathLost (pc : Pc) : Pc := pc.fence.rated false

theorem Chip.fenceUntrained_keeps (c : Chip) (k p : Nat) :
    (c.countFenced.onPc k p Pc.pathLost).Keeps (Chc.seen Pc.bearing) (c.fenceUntrained k p) := by
  have fenced : ((c.countFenced.onPc k p Pc.plain).onPc k p Pc.fence).Keeps (Chc.seen Pc.stance) (c.fenceUntrained k p) := by
    unfold Chip.fenceUntrained
    split
    · exact Chip.fencePc_keeps _ k p
    · exact Chip.reserveUnusable_keeps _ k p
  rw [Chip.onPc_onPc] at fenced
  have lost : (c.countFenced.onPc k p Pc.pathLost).Keeps (Chc.seen Pc.bearing) (c.countFenced.onPc k p (fun pc => pc.plain.fence)) :=
    .onPcs (.refl _) k p rfl
  exact lost.trans (fenced.weaken Pc.bearing fun _ => rfl)

/-- The block after the attempt at 8 Gb/s of a training at boot, and whether it has found a working setting. -/
def Chip.bootAt8 (c : Chip) (k p : Nat) (at8 at4 : TrainAttempt) : Chip × Bool :=
  (if at8.cmdOk || at4.cmdOk then c.pathTrained k p else c).trainAt k p at8 (!(c.pc k p).lost8) false true

/-- The block after the repeat at 4 Gb/s, and whether it has found one. -/
def Chip.slowAttempt (c : Chip) (k p : Nat) (a : TrainAttempt) (able : Bool) : Chip × Bool :=
  (c.onPc k p (·.startFrom (c.dieTemp8 k))).trainAt k p a able true true

/-- The block after both attempts of a training at boot, and whether the second has found one. -/
def Chip.bootAt4 (c : Chip) (k p : Nat) (at8 at4 : TrainAttempt) : Chip × Bool :=
  (c.bootAt8 k p at8 at4).1.slowAttempt k p at4 (!(c.pc k p).lost4)

theorem Chip.trainSlow_eq (c : Chip) (k p : Nat) (a : TrainAttempt) (able : Bool) :
    c.trainSlow k p a able =
      (if (c.slowAttempt k p a able).2 then (((c.slowAttempt k p a able).1.trained k p).rateFallback k p, true)
       else ((c.slowAttempt k p a able).1, false)) := by
  change (match c.slowAttempt k p a able with | (d, ok) => (if ok then (d.trained k p).rateFallback k p else d, ok)) = _
  cases c.slowAttempt k p a able with
  | mk d ok => cases ok <;> rfl

theorem Chip.bootTrainEnd_eq (c : Chip) (k p : Nat) (at8 at4 : TrainAttempt) :
    c.bootTrainEnd k p at8 at4 =
      if (c.bootAt8 k p at8 at4).2 then (c.bootAt8 k p at8 at4).1.trained k p
      else if (c.bootAt4 k p at8 at4).2 then ((c.bootAt4 k p at8 at4).1.trained k p).rateFallback k p
      else (c.bootAt4 k p at8 at4).1.fenceUntrained k p := by
  change (match c.bootAt8 k p at8 at4 with
    | (d, ok8) => if ok8 then d.trained k p else
      match d.trainSlow k p at4 (!(c.pc k p).lost4) with
      | (e, ok4) => if ok4 then e else e.fenceUntrained k p) = _
  unfold Chip.bootAt4
  cases c.bootAt8 k p at8 at4 with
  | mk d ok8 =>
    cases ok8
    · simp only [Chip.trainSlow_eq]
      cases (d.slowAttempt k p at4 (!(c.pc k p).lost4)).2 <;> rfl
    · rfl

theorem Chip.slowAttempt_keeps (c : Chip) (k p : Nat) (a : TrainAttempt) (able : Bool) :
    (c.onPc k p (·.rated true)).Keeps (Chc.seen Pc.untuned) (c.slowAttempt k p a able).1 := by
  refine Chip.Keeps.trans ?_ (Chip.trainAt_keeps _ k p a able true true)
  rw [Chip.onPc_onPc]
  exact .onPcs (.refl c) k p rfl

section
variable {c : Chip} {k p : Nat} {at8 at4 : TrainAttempt}

/-- Where a command path trains, the timer of its pseudo-channel has started, whatever becomes of the attempt at 8 Gb/s (R372). -/
theorem Chip.bootAt8_keeps (path : at8.cmdOk = true ∨ at4.cmdOk = true) :
    (c.onPc k p (fun pc => pc.timed.rated false)).Keeps (Chc.seen Pc.bearing) (c.bootAt8 k p at8 at4).1 := by
  rw [Chip.bootAt8, if_pos (by simpa using path)]
  exact (c.pathTrained_keeps k p).andThen (·.rated false) (fun _ => rfl) (Chip.trainAt_keeps _ k p at8 _ false true).bearing

theorem Chip.bootAt4_keeps (path : at8.cmdOk = true ∨ at4.cmdOk = true) :
    (c.onPc k p (fun pc => pc.timed.rated true)).Keeps (Chc.seen Pc.bearing) (c.bootAt4 k p at8 at4).1 :=
  (Chip.bootAt8_keeps path).andThen (·.rated true) (fun _ => rfl) (Chip.slowAttempt_keeps _ k p at4 _).bearing

/-- A training that finds a working setting at 8 Gb/s puts its pseudo-channel into service at that rate. -/
theorem Chip.bootTrainEnd_at8 (path : at8.cmdOk = true ∨ at4.cmdOk = true) (ok : (c.bootAt8 k p at8 at4).2 = true) :
    (c.onPc k p (fun pc => (pc.timed.rated false).served)).Keeps (Chc.seen Pc.bearing) (c.bootTrainEnd k p at8 at4) := by
  rw [Chip.bootTrainEnd_eq, if_pos ok]
  exact (Chip.bootAt8_keeps path).andThen Pc.served (fun _ => rfl) (Chip.trained_keeps _ k p).bearing

/-- One that finds none there and one at 4 Gb/s puts it into service at that rate, and raises that (0x64). -/
theorem Chip.bootTrainEnd_at4 (path : at8.cmdOk = true ∨ at4.cmdOk = true) (no : (c.bootAt8 k p at8 at4).2 = false)
    (ok : (c.bootAt4 k p at8 at4).2 = true) :
    (c.onPc k p (fun pc => (pc.timed.rated true).served)).Keeps (Chc.seen Pc.bearing) (c.bootTrainEnd k p at8 at4) ∧
    ((c.bootTrainEnd k p at8 at4).flt.evs.get {} (fltChc k)).line = true := by
  rw [Chip.bootTrainEnd_eq, if_neg (by simp [no]), if_pos ok]
  have served := (Chip.bootAt4_keeps path).andThen Pc.served (fun _ => rfl) (Chip.trained_keeps (c.bootAt4 k p at8 at4).1 k p).bearing
  exact ⟨served.trans (Chip.rateFallback_keeps _ k p), Chip.rateFallback_line _ k p⟩

/-- One that finds none at either rate fences it. -/
theorem Chip.bootTrainEnd_none (no : (c.bootAt8 k p at8 at4).2 = false) (no4 : (c.bootAt4 k p at8 at4).2 = false) :
    (c.countFenced.onPc k p Pc.pathLost).Keeps (Chc.seen Pc.bearing) (c.bootTrainEnd k p at8 at4) := by
  rw [Chip.bootTrainEnd_eq, if_neg (by simp [no]), if_neg (by simp [no4])]
  have ends (F : Pc → Pc) (hF : ∀ x : Pc, (F x).pathLost.bearing = x.pathLost.bearing)
      (h : (c.onPc k p F).Keeps (Chc.seen Pc.bearing) (c.bootAt4 k p at8 at4).1) :
      (c.countFenced.onPc k p Pc.pathLost).Keeps (Chc.seen Pc.bearing) ((c.bootAt4 k p at8 at4).1.fenceUntrained k p) := by
    have counted : (c.countFenced.onPc k p F).Keeps (Chc.seen Pc.bearing) (c.bootAt4 k p at8 at4).1.countFenced := h.countFenced
    have lost : (c.countFenced.onPc k p Pc.pathLost).Keeps (Chc.seen Pc.bearing) (c.countFenced.onPc k p (fun pc => (F pc).pathLost)) :=
      .onPcs (.refl _) k p (hF _)
    exact lost.trans (counted.andThen Pc.pathLost (fun _ => rfl) (Chip.fenceUntrained_keeps _ k p))
  by_cases path : at8.cmdOk = true ∨ at4.cmdOk = true
  · exact ends (fun pc => pc.timed.rated true) (fun _ => rfl) (Chip.bootAt4_keeps path)
  · refine ends (fun pc => (pc.rated false).rated true) (fun _ => rfl) ?_
    refine Chip.Keeps.andThen ?_ (·.rated true) (fun _ => rfl) (Chip.slowAttempt_keeps _ k p at4 _).bearing
    rw [Chip.bootAt8, if_neg (by simpa using path)]
    exact (Chip.trainAt_keeps _ k p at8 _ false true).bearing

end

end Sys2Proof.Machine
end

section
/-! SUPPORT. The boot steps that follow step 8: what they leave of channel controllers and of what goes on by itself. -/

namespace Sys2Proof.Machine

/-- From `c` to `d` boot may have gone on to its later steps: pseudo-channels, and what goes on by itself, are as they were, and no error
line has fallen. -/
structure Chip.Boots (c d : Chip) : Prop where
  mgt    : d.mgt = c.mgt
  field  : d.boot.field = c.boot.field
  fenced : d.boot.pcFenced = c.boot.pcFenced
  port   : ∀ n, (d.port n).cfg = (c.port n).cfg
  cfg    : ∀ s, (d.slice s).cfg = (c.slice s).cfg
  mode   : ∀ s, (d.slice s).mode = (c.slice s).mode
  chc    : ∀ k, d.chc k = c.chc k
  line   : ∀ b, (c.flt.evs.get {} b).line = true → (d.flt.evs.get {} b).line = true

theorem Chip.Boots.refl (c : Chip) : c.Boots c :=
  ⟨rfl, rfl, rfl, fun _ => rfl, fun _ => rfl, fun _ => rfl, fun _ => rfl, fun _ => id⟩

theorem Chip.Boots.trans {c d e : Chip} (h : c.Boots d) (h' : d.Boots e) : c.Boots e where
  mgt    := h'.mgt.trans h.mgt
  field  := h'.field.trans h.field
  fenced := h'.fenced.trans h.fenced
  port n := (h'.port n).trans (h.port n)
  cfg s  := (h'.cfg s).trans (h.cfg s)
  mode s := (h'.mode s).trans (h.mode s)
  chc k  := (h'.chc k).trans (h.chc k)
  line b hb := h'.line b (h.line b hb)

theorem Chip.Keeps.boots {c d : Chip} (h : c.Keeps id d) : c.Boots d where
  mgt    := h.mgt
  field  := by rw [h.boot]
  fenced := by rw [h.boot]
  port n := (congrArg (fun t : Tab Port => (t.get ({} : Port) n).cfg) h.ports :)
  cfg    := h.cfg
  mode   := h.mode
  chc    := h.chc
  line   := h.line

theorem Chip.Boots.calm {c d : Chip} (h : c.Boots d) (calm : c.Calm) : d.Calm := by
  refine calm.of_eq (by rw [h.mgt]) (by rw [h.mgt]) (by rw [h.mgt]) h.field h.port (fun k => ?_) (fun k hk => by rwa [h.mode] at hk)
    (fun k hk => by rwa [h.chc])
  simp only [Chip.channelDirty, h.chc, h.cfg]

theorem Chip.Boots.pc {c d : Chip} (h : c.Boots d) (k p : Nat) : d.pc k p = c.pc k p := by rw [Chip.pc, h.chc]; rfl

/-! ### The reload of the retirement log (R214, R473, R618) -/

section
variable {γ : Type} {V : Chc → γ}

theorem Chip.noteRead_keeps (c : Chip) (b : Book) (area slot : Nat) : c.Keeps V (c.noteRead b area slot) := by
  unfold Chip.noteRead Chip.noteBad
  split
  · exact c.raise_keeps ..
  · split
    · have counted : c.Keeps V { c with nvm := { c.nvm with cntBad := bump32 c.nvm.cntBad } } := .of_eq rfl rfl rfl rfl rfl rfl
      exact counted.trans (Chip.raise_keeps _ _ _)
    · exact .refl c

theorem Chip.loadImage_keeps (c : Chip) (b : Book) (area slots : Nat) : c.Keeps V (c.loadImage b area slots).2 :=
  List.foldlRecOn (motive := fun x : Tab Nat × Chip => c.Keeps V x.2) _ _ (.refl c) fun x hx s _ => hx.trans (x.2.noteRead_keeps b area s)

theorem Chip.queueRack_keeps (c : Chip) (j : RackJob) : c.Keeps V (c.queueRack j) := c.onDie_keeps ..

theorem Chip.reloadRow_keeps (c : Chip) (e v : Nat) : c.Keeps V (c.reloadRow e v) := by
  unfold Chip.reloadRow
  dsimp only
  split
  · exact ((c.setRowmap_keeps _ _).trans (Chip.queueRack_keeps _ _)).trans (Chip.ringRec_keeps _ _)
  · exact c.setRowmap_keeps ..
  · exact c.setRowmap_keeps ..
  · exact .refl c

theorem Chip.reloadBank_keeps (c : Chip) (e v : Nat) : c.Keeps V (c.reloadBank e v) := by
  unfold Chip.reloadBank
  dsimp only
  split
  · exact ((c.setRemap_keeps _ _).trans (Chip.queueRack_keeps _ _)).trans (Chip.ringRec_keeps _ _)
  · exact c.setRemap_keeps ..
  · exact c.setRemap_keeps ..
  · exact .refl c

theorem Chip.reloadRetire_keeps (c : Chip) (b : Book) : c.Keeps V (c.reloadRetire b) := by
  unfold Chip.reloadRetire
  split
  · exact .refl c
  · have loaded : c.Keeps V (c.loadImage b 6 2753).2 := c.loadImage_keeps b 6 2753
    generalize c.loadImage b 6 2753 = x at loaded ⊢
    refine Chip.Keeps.trans ?_ (.foldl _ _ _ fun d e => d.reloadBank_keeps _ _)
    refine Chip.Keeps.trans ?_ (.foldl _ _ _ fun d e => d.reloadRow_keeps _ _)
    refine Chip.Keeps.trans ?_ (.foldl _ _ _ fun d e => d.reloadRow_keeps _ _)
    exact loaded.trans (.of_eq rfl rfl rfl rfl rfl rfl)

end

/-! ### Steps 9 and 10 (R65, R66, R193, R548) -/

theorem Chip.endStep9If_boots (c : Chip) : c.Boots c.endStep9If := by
  unfold Chip.endStep9If Chip.beginStep10
  split
  · dsimp only
    split <;> exact ⟨rfl, rfl, rfl, fun _ => rfl, fun _ => rfl, fun _ => rfl, fun _ => rfl, fun _ => id⟩
  · exact .refl c

theorem Chip.startPorts_boots (c : Chip) :
    c.Boots ((below 32).foldl (fun c n => if (c.port n).startsAtStep9 then c.onPort n Port.start else c) c) := by
  refine List.foldlRecOn (motive := c.Boots) _ _ (.refl c) fun d hd n _ => ?_
  split
  · refine hd.trans ⟨rfl, rfl, rfl, fun m => ?_, fun _ => rfl, fun _ => rfl, fun _ => rfl, fun _ => id⟩
    rw [Chip.onPort_port]
    split
    · next e => rw [e]; rfl
    · rfl
  · exact hd

theorem Chip.beginStep9_boots (c : Chip) (b : Book) : c.Boots (c.beginStep9 b) := by
  have begun : c.Boots { c with boot := { c.boot with step := 9 }, fus := c.fus.dropEntropy } :=
    ⟨rfl, rfl, rfl, fun _ => rfl, fun _ => rfl, fun _ => rfl, fun _ => rfl, fun _ => id⟩
  exact ((begun.trans (Chip.startPorts_boots _)).trans (Chip.reloadRetire_keeps _ b).boots).trans (Chip.endStep9If_boots _)

theorem Chip.endStep8If_boots (c : Chip) (b : Book) : c.Boots (c.endStep8If b) := by
  unfold Chip.endStep8If
  split
  · exact c.beginStep9_boots b
  · exact .refl c

/-- What follows an event in a calm block is no more than a later step of boot. -/
theorem Chip.Calm.settle_boots {c : Chip} (h : c.Calm) : c.Boots c.settle := by
  rw [c.settle_of_calm h]
  split
  · exact c.endStep9If_boots
  · exact .refl c

/-- Boot step 8 goes on while a pseudo-channel trains. -/
theorem Chip.endStep8If_of_training {c : Chip} (b : Book) {k p : Nat} (hk : k < 72) (hp : p < 2) (h : (c.pc k p).state = .training) :
    c.endStep8If b = c := by
  have any : (below 72).any (fun k => (c.pc k 0).state == .training || (c.pc k 1).state == .training) = true := by
    rw [List.any_eq_true]
    refine ⟨k, by simpa using hk, ?_⟩
    obtain rfl | rfl : p = 0 ∨ p = 1 := by omega
    · simp [h]
    · simp [h]
  rw [Chip.endStep8If, if_neg (by simp [any])]

end Sys2Proof.Machine
end

section
/-! SUPPORT. The end of a training, with what settles after it. -/

namespace Sys2Proof.Machine

/-! ### Pseudo-channels out of service under calm -/

/-- Whether a calibration pass that a pseudo-channel has left over has stopped. -/
def Pc.rested (pc : Pc) : Prop := ∀ x, pc.cal = some x → x.stopped = true

theorem Pc.still_of_rested {pc : Pc} (h : pc.rested) (hs : pc.state ≠ .rescue ∨ pc.rescueStep ≠ 2) (t : TestState) : pc.still t = true := by
  unfold Pc.still
  have step : (pc.state == .rescue && pc.rescueStep == 2) = false := by rcases hs with h | h <;> simp [h]
  rw [step]
  cases hc : pc.cal with
  | none => rfl
  | some x => simp [h x hc]

/-- In a calm block a pseudo-channel that is not in service runs no calibration pass, and is in no step 2 of a rescue. -/
theorem Chip.Calm.pc_rested {c : Chip} (h : c.Calm) (k : Nat) {p : Nat} (hp : p < 2) (hs : (c.pc k p).state ≠ .normal) : (c.pc k p).rested := by
  have still := h.chcs k
  simp only [Chc.still, Bool.and_eq_true] at still
  have mine : (c.pc k p).still (c.chc k).test = true := by
    obtain rfl | rfl : p = 0 ∨ p = 1 := by omega
    · exact still.1.1
    · exact still.1.2
  intro x hx
  simp only [Pc.still, Bool.and_eq_true, hx, Option.all_some] at mine
  simpa [hs] using mine.2

/-- A change after which a pseudo-channel is not in step 2 of a rescue and has no pass that it did not have leaves a block calm. -/
theorem Chip.Calm.onPc_of_rested {c : Chip} (h : c.Calm) {k p : Nat} (idle : (c.chc k).trnBusy = false) {F : Pc → Pc}
    (rested : (F (c.pc k p)).rested) (hF : (F (c.pc k p)).state ≠ .rescue ∨ (F (c.pc k p)).rescueStep ≠ 2) : (c.onPc k p F).Calm :=
  h.onPc_of_still idle p (Pc.still_of_rested rested hF _)

theorem Chip.Calm.countFenced {c : Chip} (h : c.Calm) : c.countFenced.Calm :=
  h.of_eq rfl rfl rfl rfl (fun _ => rfl) (fun _ => rfl) (fun _ => id) (fun _ => id)

theorem Chip.Keeps.lands {v : Pc → Pc} {c d : Chip} {k p : Nat} {F : Pc → Pc} (h : (c.onPc k p F).Keeps (Chc.seen v) d) :
    v (d.pc k p) = v (F (c.pc k p)) := by
  rw [h.pc, Chip.onPc_pc_same]

/-! ### At boot (R408, R410, R415) -/

theorem Chip.bootAt8_path {c : Chip} {k p : Nat} {at8 at4 : TrainAttempt} (ok : (c.bootAt8 k p at8 at4).2 = true) : at8.cmdOk = true := by
  cases path : at8.cmdOk
  · rw [Chip.bootAt8, Chip.trainAt_of_fails _ k p (.inr path)] at ok; cases ok
  · rfl

theorem Chip.bootAt4_path {c : Chip} {k p : Nat} {at8 at4 : TrainAttempt} (ok : (c.bootAt4 k p at8 at4).2 = true) : at4.cmdOk = true := by
  cases path : at4.cmdOk
  · rw [Chip.bootAt4, Chip.slowAttempt, Chip.trainAt_of_fails _ k p (.inr path)] at ok; cases ok
  · rfl

/-- A training at boot ends in service or in a fence, which is counted; and with no calibration pass begun. -/
theorem Chip.bootTrainEnd_ends (c : Chip) (k p : Nat) (at8 at4 : TrainAttempt) :
    ∃ (c₀ : Chip) (F : Pc → Pc), (c₀ = c ∨ c₀ = c.countFenced) ∧
      (c₀.onPc k p F).Keeps (Chc.seen Pc.bearing) (c.bootTrainEnd k p at8 at4) ∧
      ∀ pc : Pc, ((F pc).state = .normal ∨ (F pc).state = .fenced) ∧ (pc.rested → (F pc).rested) := by
  cases ok : (c.bootAt8 k p at8 at4).2
  · cases ok4 : (c.bootAt4 k p at8 at4).2
    · exact ⟨_, _, .inr rfl, Chip.bootTrainEnd_none ok ok4, fun pc => ⟨.inr rfl, fun _ x hx => by cases hx⟩⟩
    · exact ⟨_, _, .inl rfl, (Chip.bootTrainEnd_at4 (.inr (Chip.bootAt4_path ok4)) ok ok4).1, fun pc => ⟨.inl rfl, id⟩⟩
  · exact ⟨_, _, .inl rfl, Chip.bootTrainEnd_at8 (.inl (Chip.bootAt8_path ok)) ok, fun pc => ⟨.inl rfl, id⟩⟩

section
variable {c : Chip} {k p : Nat} (calm : c.Calm) (idle : (c.chc k).trnBusy = false)
include calm idle

theorem Chip.Calm.bootTrainEnd (hp : p < 2) (training : (c.pc k p).state = .training) (at8 at4 : TrainAttempt) :
    (c.bootTrainEnd k p at8 at4).Calm := by
  obtain ⟨c₀, F, base, keeps, ends⟩ := c.bootTrainEnd_ends k p at8 at4
  obtain ⟨state, rested⟩ := ends (c.pc k p)
  have rest := rested (calm.pc_rested k hp (by rw [training]; decide))
  have out : (F (c.pc k p)).state ≠ .rescue := by rcases state with e | e <;> rw [e] <;> decide
  refine Chip.Calm.of_keeps ?_ keeps
  rcases base with rfl | rfl
  · exact calm.onPc_of_rested idle rest (.inl out)
  · exact calm.countFenced.onPc_of_rested idle rest (.inl out)

end

/-- What boot goes on with after the last training leaves the pseudo-channel as its training has. -/
theorem Chip.bootTrainEnd_boots {c : Chip} {k p : Nat} {at8 at4 : TrainAttempt} (b : Book) (calm : (c.bootTrainEnd k p at8 at4).Calm) :
    (c.bootTrainEnd k p at8 at4).Boots ((c.bootTrainEnd k p at8 at4).endStep8If b).settle :=
  have ended := (c.bootTrainEnd k p at8 at4).endStep8If_boots b
  ended.trans (ended.calm calm).settle_boots

/-- Boot step 8 lasts while another pseudo-channel trains. -/
theorem Chip.bootTrainEnd_step {c : Chip} {k p : Nat} {at8 at4 : TrainAttempt} (b : Book) (calm : (c.bootTrainEnd k p at8 at4).Calm)
    (h8 : c.inStep 8 = true) {k' p' : Nat} (hk : k' < 72) (hp : p' < 2) (other : ¬ (k' = k ∧ p' = p)) (training : (c.pc k' p').state = .training) :
    ((c.bootTrainEnd k p at8 at4).endStep8If b).settle.boot.step = 8 := by
  obtain ⟨c₀, F, base, keeps, -⟩ := c.bootTrainEnd_ends k p at8 at4
  have step : (c.bootTrainEnd k p at8 at4).boot.step = 8 := by
    rw [keeps.boot]
    have : c.boot.step = 8 := by
      simp only [Chip.inStep, Bool.and_eq_true, beq_iff_eq] at h8
      exact h8.2
    rcases base with rfl | rfl <;> exact this
  have trains : ((c.bootTrainEnd k p at8 at4).pc k' p').state = .training := by
    have bearing := keeps.pc k' p'
    rw [Chip.onPc_pc, if_neg other] at bearing
    have state : ((c.bootTrainEnd k p at8 at4).pc k' p').state = (c₀.pc k' p').state := (congrArg Pc.state bearing :)
    rw [state]
    rcases base with rfl | rfl <;> exact training
  rw [Chip.endStep8If_of_training b hk hp trains, Chip.settle_eq _ calm (by simp [Chip.inStep, step]), step]

/-! ### Under TRAIN (R415, R416, R419) -/

/-- The block after the attempt at 8 Gb/s of a training under TRAIN, and whether it has found a working setting. -/
def Chip.cmdAt8 (c : Chip) (k p : Nat) (at8 : TrainAttempt) : Chip × Bool := c.trainAt k p at8 (!(c.pc k p).lost8) false true

theorem Chip.cmdTrainEnd_eq (c : Chip) {k : Nat} (p : Nat) (at8 at4 : TrainAttempt) (data : k < 64) :
    c.cmdTrainEnd k p at8 at4 =
      if (c.cmdAt8 k p at8).2 then (c.cmdAt8 k p at8).1.trained k p else ((c.cmdAt8 k p at8).1.onPc k p (·.setMap 0)).enterRescue k p := by
  unfold Chip.cmdTrainEnd
  simp only [data, if_true]
  rfl

/-- A pseudo-channel at the start of a rescue, as what goes on by itself sees it. -/
def Pc.rescued (pc : Pc) : Pc := { pc with state := .rescue, rescueStep := 1, rate4 := true, replaying := false }

/-- A pseudo-channel that enters rescue at cycle `now`, at temperature `t` (R419). -/
def Pc.enter (now : Nat) (t : Int) (pc : Pc) : Pc :=
  { (pc.quiet.startFrom t) with
    state := .rescue, rescueStep := 1, rescueAt := now, rescueRows := 0, rescueTimes := [], rate4 := true, replaying := false, fails := 0 }

theorem Chip.enterRescue_eq (c : Chip) {k : Nat} (p : Nat) (data : k < 64) :
    c.enterRescue k p = c.onChc k (fun h => (h.dropAux p).onPc p (·.enter c.keep (c.dieTemp8 k))) := if_pos data

theorem Pc.enter_bearing (now : Nat) (t : Int) (pc : Pc) : (pc.enter now t).bearing = pc.rescued.bearing := by
  rw [Pc.bearing, Pc.bearing]; rfl
theorem Pc.enter_laneMap (now : Nat) (t : Int) (pc : Pc) : (pc.enter now t).laneMap = pc.laneMap := rfl
theorem Chc.dropAux_seen (v : Pc → Pc) (h : Chc) (p : Nat) : (h.dropAux p).seen v = h.seen v := rfl

theorem Chip.enterRescue_keeps (c : Chip) {k : Nat} (p : Nat) (data : k < 64) :
    (c.onPc k p Pc.rescued).Keeps (Chc.seen Pc.bearing) (c.enterRescue k p) := by
  rw [Chip.enterRescue_eq c p data]
  refine Chip.Keeps.onChcs (.refl c) k ?_
  exact Chc.seen_onPc _ _ p _ _ (Chc.dropAux_seen _ _ p) (Pc.enter_bearing _ _ _)

theorem Chip.enterRescue_laneMap (c : Chip) {k : Nat} (p : Nat) (data : k < 64) : ((c.enterRescue k p).pc k p).laneMap = (c.pc k p).laneMap := by
  rw [Chip.enterRescue_eq c p data, Chip.pc, Chip.onChc_chc_same, Chc.onPc_pc_same, Pc.enter_laneMap]
  rfl

section
variable {c : Chip} {k p : Nat} (calm : c.Calm) (idle : (c.chc k).trnBusy = false) (data : k < 64)
include calm idle data

theorem Chip.Calm.cmdTrainEnd_served (hp : p < 2) (training : (c.pc k p).state = .training) {at8 : TrainAttempt} (at4 : TrainAttempt)
    (ok : (c.cmdAt8 k p at8).2 = true) :
    ((c.cmdTrainEnd k p at8 at4).settle.pc k p).state = .normal ∧ ((c.cmdTrainEnd k p at8 at4).settle.pc k p).rate4 = false := by
  have keeps : (c.onPc k p (fun pc => (pc.rated false).served)).Keeps (Chc.seen Pc.bearing) (c.cmdTrainEnd k p at8 at4) := by
    rw [Chip.cmdTrainEnd_eq c p at8 at4 data, if_pos ok]
    exact (c.trainAt_keeps k p at8 _ false true).bearing.andThen Pc.served (fun _ => rfl) (Chip.trained_keeps _ k p).bearing
  have rested := calm.pc_rested k hp (by rw [training]; decide)
  have ends : (c.cmdTrainEnd k p at8 at4).Calm := (calm.onPc_of_rested idle rested (.inl (show PcState.normal ≠ .rescue by decide))).of_keeps keeps
  rw [ends.settle_boots.pc]
  exact ⟨(congrArg Pc.state keeps.lands :), (congrArg Pc.rate4 keeps.lands :)⟩

theorem Chip.Calm.cmdTrainEnd_rescue (hp : p < 2) (training : (c.pc k p).state = .training) {at8 : TrainAttempt} (at4 : TrainAttempt)
    (no : (c.cmdAt8 k p at8).2 = false) :
    let pc := (c.cmdTrainEnd k p at8 at4).settle.pc k p
    pc.state = .rescue ∧ pc.rescueStep = 1 ∧ pc.rate4 = true ∧ pc.laneMap = 0 := by
  have entered : c.cmdTrainEnd k p at8 at4 = ((c.cmdAt8 k p at8).1.onPc k p (·.setMap 0)).enterRescue k p := by
    rw [Chip.cmdTrainEnd_eq c p at8 at4 data, if_neg (by simp [no])]
  have keeps : (c.onPc k p (fun pc => (pc.rated false).rescued)).Keeps (Chc.seen Pc.bearing) (c.cmdTrainEnd k p at8 at4) := by
    rw [entered]
    have plain : (c.onPc k p (·.rated false)).Keeps (Chc.seen Pc.bearing) ((c.cmdAt8 k p at8).1.onPc k p (·.setMap 0)) :=
      (c.trainAt_keeps k p at8 _ false true).bearing.trans (.onPc _ k p _ rfl)
    exact plain.andThen Pc.rescued (fun _ => rfl) (Chip.enterRescue_keeps _ p data)
  have rested := calm.pc_rested k hp (by rw [training]; decide)
  have ends : (c.cmdTrainEnd k p at8 at4).Calm := (calm.onPc_of_rested idle rested (.inr (show 1 ≠ 2 by decide))).of_keeps keeps
  dsimp only
  rw [ends.settle_boots.pc]
  refine ⟨(congrArg Pc.state keeps.lands :), (congrArg Pc.rescueStep keeps.lands :), (congrArg Pc.rate4 keeps.lands :), ?_⟩
  rw [entered, Chip.enterRescue_laneMap _ p data, Chip.onPc_pc_same]
  rfl

end

/-! ### Fences (R419, R421) -/

section
variable {c : Chip} {k p : Nat}

/-- A fence of a pseudo-channel in a block that is calm with it fenced: it is, its lane map stands, and its controller's line is high. -/
theorem Chip.fenceStep5_settles (h : c.fenced k p = false) (calm : (c.onPc k p Pc.fence).Calm) :
    ((c.fenceStep5 k p).settle.pc k p).state = .fenced ∧ ((c.fenceStep5 k p).settle.pc k p).laneMap = (c.pc k p).laneMap ∧
    ((c.fenceStep5 k p).settle.flt.evs.get {} (fltChc k)).line = true := by
  obtain ⟨keeps, line⟩ := c.fenceStep5_keeps k p h
  have boots := (calm.of_keeps (keeps.weaken Pc.bearing fun _ => rfl)).settle_boots
  rw [boots.pc]
  exact ⟨(congrArg Pc.state keeps.lands :), (congrArg Pc.laneMap keeps.lands :), boots.line _ line⟩

theorem Chip.Calm.fence (calm : c.Calm) (idle : (c.chc k).trnBusy = false) : (c.onPc k p Pc.fence).Calm :=
  calm.onPc_of_rested idle (fun x hx => by cases hx) (.inl (show PcState.fenced ≠ .rescue by decide))

theorem Chip.rescueTrainEnd_eq (hl : c.live = true) (rescue : (c.pc k p).state = .rescue) (step : (c.pc k p).rescueStep = 1) (a : TrainAttempt) :
    c.rescueTrainEnd k p a =
      if (c.trainAt k p a (!(c.pc k p).ruledOut) true false).2 then
        ((c.trainAt k p a (!(c.pc k p).ruledOut) true false).1.onChc k (fun h =>
          (h.onPc p (fun pc => { pc.quiet with rescueStep := 2, rescueWb := false })).resumeReplay p)).rescueTick k p
      else ((c.trainAt k p a (!(c.pc k p).ruledOut) true false).1.onPc k p (·.setMap (c.pc k p).laneMap)).fenceStep5 k p := by
  unfold Chip.rescueTrainEnd
  simp only [hl, rescue, step]
  cases c.trainAt k p a (!(c.pc k p).ruledOut) true false with
  | mk d ok => cases ok <;> rfl

/-- The training of a rescue that fails fences its pseudo-channel, with the lane map it had (R414, R419). -/
theorem Chip.Calm.rescueTrainEnd_fences (calm : c.Calm) (idle : (c.chc k).trnBusy = false) (hl : c.live = true)
    (rescue : (c.pc k p).state = .rescue) (step : (c.pc k p).rescueStep = 1) {a : TrainAttempt}
    (no : (c.trainAt k p a (!(c.pc k p).ruledOut) true false).2 = false) :
    ((c.rescueTrainEnd k p a).settle.pc k p).state = .fenced ∧ ((c.rescueTrainEnd k p a).settle.pc k p).laneMap = (c.pc k p).laneMap ∧
    ((c.rescueTrainEnd k p a).settle.flt.evs.get {} (fltChc k)).line = true := by
  rw [Chip.rescueTrainEnd_eq hl rescue step, if_neg (by simp [no])]
  have tried := (c.trainAt_keeps k p a (!(c.pc k p).ruledOut) true false).bearing
  have given : (c.onPc k p (·.rated true)).Keeps (Chc.seen Pc.bearing)
      ((c.trainAt k p a (!(c.pc k p).ruledOut) true false).1.onPc k p (·.setMap (c.pc k p).laneMap)) := tried.trans (.onPc _ k p _ rfl)
  have state : (((c.trainAt k p a (!(c.pc k p).ruledOut) true false).1.onPc k p (·.setMap (c.pc k p).laneMap)).pc k p).state = .rescue :=
    (congrArg Pc.state given.lands :).trans rescue
  have fenced := (calm.onPc_of_rested (F := fun pc => (pc.rated true).fence) idle (fun x hx => by cases hx)
    (.inl (show PcState.fenced ≠ .rescue by decide))).of_keeps (given.andThen Pc.fence (fun _ => rfl) (.refl _))
  obtain ⟨out, map, line⟩ := Chip.fenceStep5_settles (by rw [Chip.fenced, state]; rfl) fenced
  refine ⟨out, map.trans ?_, line⟩
  rw [Chip.onPc_pc_same]
  rfl

/-- Where every bank of a rescue is racked its pseudo-channel is fenced, and its controller's line is high (R419 step 4). -/
theorem Chip.rescueRackDone_keeps (hl : c.live = true) (done : c.rescueOver k p = true) :
    (c.onPc k p Pc.fence).Keeps (Chc.seen Pc.stance) (c.rescueRackDone k p) ∧
    ((c.rescueRackDone k p).flt.evs.get {} (fltChc k)).line = true := by
  have fenced := ((c.fencePc_keeps k p).trans (Chip.endQueues_keeps _ k p)).trans (Chip.endCopied_keeps _ k p)
  have moved := (fenced.trans (Chip.substitute_keeps _ k p 2 false)).trans (Chip.siftAll_keeps _)
  have recorded (d : Chip) (a : RingArgs) : d.Keeps (Chc.seen Pc.stance) ((d.ringRec a).laneHistPc 4 k p 0) :=
    (d.ringRec_keeps a).trans (Chip.laneHistPc_keeps _ _ _ _ _)
  unfold Chip.rescueRackDone
  rw [if_neg (by simp [hl, done])]
  dsimp only
  generalize ((((c.fencePc k p).endQueues k p).endCopied k p).substitute k p 2 false).1.siftAll = d at moved ⊢
  exact ⟨(moved.trans (d.raise_keeps _ _)).trans (recorded _ _), (recorded _ _).line _ (d.raise_line _ _)⟩

end

end Sys2Proof.Machine
end

section
/-! SUPPORT. A rescue whose training has succeeded: what was under way, and the banks that take entries. -/

namespace Sys2Proof.Machine

/-! ### What follows an event where a rescue goes on -/

/-- What a channel controller's shadows and the rates of its pseudo-channels are. -/
def Chc.rates (h : Chc) : List Rws × (Nat → Bool) := ([h.schedCfg, h.refCfg, h.rdCfg, h.calCfg, h.eccCfg], fun p => (h.pc p).rate4)

theorem Chip.Keeps.rates {c d : Chip} (h : c.Keeps (Chc.seen Pc.bearing) d) : c.Keeps Chc.rates d :=
  h.map (fun x : Chc × (Nat → Pc) => ([x.1.schedCfg, x.1.refCfg, x.1.rdCfg, x.1.calCfg, x.1.eccCfg], fun p => (x.2 p).rate4))

theorem Chip.Keeps.rate4 {c d : Chip} (h : c.Keeps Chc.rates d) (k p : Nat) : (d.pc k p).rate4 = (c.pc k p).rate4 :=
  (congrArg (fun x : List Rws × (Nat → Bool) => x.2 p) (h.chc k) :)

/-- A change of a pseudo-channel that leaves its rate. -/
theorem Chip.Keeps.onPc_rates (c : Chip) (k p : Nat) (f : Pc → Pc) (hf : ∀ pc, (f pc).rate4 = pc.rate4) : c.Keeps Chc.rates (c.onPc k p f) := by
  refine .onChc c k _ (Prod.ext rfl (funext fun q => ?_))
  show (((c.chc k).onPc p f).pc q).rate4 = ((c.chc k).pc q).rate4
  rw [Chc.onPc_pc]
  split
  · next e => rw [e, hf]
  · rfl

/-- Nothing goes on by itself in a block but in channel controllers: of `Chip.Calm`, all but what those do. -/
structure Chip.Settled (c : Chip) : Prop where
  buf    : c.mgt.buf = []
  sbWait : c.mgt.sbWait = []
  long   : ∀ l, c.mgt.long = some l → l.job.still = true
  field  : ∀ t, c.boot.field = some t → t.still = true
  ports  : ∀ n, n < 32 → (c.port n).cfg.dirty = false
  chans  : ∀ k, k < 72 → c.channelDirty k = false
  slices : ∀ s, (c.slice s).mode ≠ .draining

theorem Chip.Calm.settled {c : Chip} (h : c.Calm) : c.Settled := ⟨h.buf, h.sbWait, h.long, h.field, h.ports, h.chans, h.slices⟩

theorem Chip.Settled.of_keeps {c d : Chip} (h : c.Settled) (hd : c.Keeps Chc.rates d) : d.Settled where
  buf    := by rw [hd.mgt]; exact h.buf
  sbWait := by rw [hd.mgt]; exact h.sbWait
  long   := by rw [hd.mgt]; exact h.long
  field  := by rw [hd.boot]; exact h.field
  ports n hn := by
    have dirty : (d.port n).cfg.dirty = (c.port n).cfg.dirty := (congrArg (fun t : Tab Port => (t.get ({} : Port) n).cfg.dirty) hd.ports :)
    exact dirty.trans (h.ports n hn)
  chans k hk := by
    have shadows : ([(d.chc k).schedCfg, (d.chc k).refCfg, (d.chc k).rdCfg, (d.chc k).calCfg, (d.chc k).eccCfg] : List Rws) =
      [(c.chc k).schedCfg, (c.chc k).refCfg, (c.chc k).rdCfg, (c.chc k).calCfg, (c.chc k).eccCfg] := (Prod.mk.inj (hd.chc k)).1
    simp only [List.cons.injEq, and_true] at shadows
    obtain ⟨sched, ref, rd, cal, ecc⟩ := shadows
    have clean := h.chans k hk
    simp only [Chip.channelDirty] at clean ⊢
    rw [sched, ref, rd, cal, ecc, hd.cfg]
    exact clean
  slices s := by rw [hd.mode]; exact h.slices s

theorem Chip.Cleans.keeps {c d : Chip} (h : c.Cleans d) : c.Keeps (Chc.seen Pc.stance) d where
  mgt   := (congrArg Chip.mgt h.frame :)
  boot  := h.boot
  ports := (congrArg Chip.ports h.frame :)
  cfg s := (congrArg Slice.cfg (h.slice s) : (d.slice s).uncleaned.cfg = (c.slice s).uncleaned.cfg)
  mode s := (congrArg Slice.mode (h.slice s) : (d.slice s).uncleaned.mode = (c.slice s).uncleaned.mode)
  chc k := Prod.ext (congrArg Chc.setup (h.chc k) :) (funext fun p => (congrArg Pc.stance (h.pc k p) :))
  line b := by rw [show d.flt = c.flt from (congrArg Chip.flt h.frame :)]; exact id

theorem Chip.cleanLines_rates (c : Chip) (s : Nat) (p : Line → Bool) : c.Keeps Chc.rates (c.cleanLines s p) :=
  ((c.cleanLines_cleans s p).keeps.weaken Pc.bearing fun _ => rfl).rates

/-! ### Step 2 of a rescue (R239, R419) -/

/-- A pseudo-channel whose lines are written back (R239). -/
def Pc.writesBack (pc : Pc) : Pc := { pc with rescueWb := true }

/-- A pseudo-channel that stays in service at 4 Gb/s, since no entries are free for its banks (R419). -/
def Pc.staysSlow (pc : Pc) : Pc := { pc with state := .normal, rescueStep := 0, rescueWb := false }

/-- A pseudo-channel whose banks are to be racked from cycle `now` on (R419). -/
def Pc.startsRack (now : Nat) (pc : Pc) : Pc := { pc with rescueStep := 3, rescueMark := now }

/-- The block after the write-back of a pseudo-channel's lines, as far as that goes. -/
def Chip.rescueSweep (c : Chip) (k p : Nat) : Chip := (c.onPc k p Pc.writesBack).cleanLines k (fun l => c.standsAt k p (l.rowLoc k))

/-- The banks of a pseudo-channel take entries, or it stays in service at 4 Gb/s. -/
def Chip.rescueEntries (c : Chip) (k p : Nat) : Chip :=
  if (c.substitute k p 2 true).2.isEmpty && !(c.bareBanks k p).isEmpty then
    ((c.substitute k p 2 true).1.onPc k p Pc.staysSlow).rateFallback k p
  else ((c.substitute k p 2 true).1.onPc k p (·.startsRack c.keep)).queueRescue k p (c.substitute k p 2 true).2

theorem Chip.substitute_keep (c : Chip) (k p cause : Nat) (racking : Bool) : (c.substitute k p cause racking).1.keep = c.keep :=
  List.foldlRecOn (motive := fun d : Chip => d.keep = c.keep) _ _ rfl fun _ hd _ _ => hd

theorem Chip.rescueTick_eq (c : Chip) (k p : Nat) :
    c.rescueTick k p =
      if !((c.pc k p).state == .rescue && (c.pc k p).rescueStep == 2) || (!(c.pc k p).rescueWb && c.underWay k p) then c
      else if List.any ((c.rescueSweep k p).slice k).lines (fun e => (c.rescueSweep k p).standsAt k p (e.2.rowLoc k)) then c.rescueSweep k p
      else (c.rescueSweep k p).rescueEntries k p := by
  unfold Chip.rescueEntries
  rw [← (c.rescueSweep k p).substitute_keep k p 2 true]
  rfl

theorem Chip.rescueEntries_rates (c : Chip) (k p : Nat) : c.Keeps Chc.rates (c.rescueEntries k p) := by
  have taken : c.Keeps Chc.rates (c.substitute k p 2 true).1 := c.substitute_keeps k p 2 true
  unfold Chip.rescueEntries
  split
  · exact (taken.trans (.onPc_rates _ k p Pc.staysSlow fun _ => rfl)).trans (Chip.rateFallback_keeps _ k p)
  · exact (taken.trans (.onPc_rates _ k p (·.startsRack c.keep) fun _ => rfl)).trans (Chip.queueRescue_keeps _ k p _)

theorem Chip.rescueTick_rates (c : Chip) (k p : Nat) : c.Keeps Chc.rates (c.rescueTick k p) := by
  have swept : c.Keeps Chc.rates (c.rescueSweep k p) :=
    (Chip.Keeps.onPc_rates c k p Pc.writesBack fun _ => rfl).trans (Chip.cleanLines_rates _ k _)
  rw [Chip.rescueTick_eq]
  split
  · exact .refl c
  · split
    · exact swept
    · exact swept.trans (Chip.rescueEntries_rates _ k p)

theorem Chip.calTick_rates (c : Chip) (k p : Nat) : c.Keeps Chc.rates (c.calTick k p) := by
  unfold Chip.calTick
  split
  · split
    · exact .refl c
    · exact .onPc_rates c k p _ fun _ => rfl
  · exact .refl c

theorem Chip.runTick_rates (c : Chip) (k : Nat) : c.Keeps Chc.rates (c.runTick k) := by
  unfold Chip.runTick
  dsimp only
  split
  · have ended (counts : List (Nat × Nat)) : ∀ h : Chc, (h.endRun counts).rates = h.rates := fun h => by
      refine Prod.ext rfl (funext fun q => ?_)
      show ((h.onPc (natBits h.runCtl 4 1) (fun pc => { pc with runRetry := false })).pc q).rate4 = (h.pc q).rate4
      rw [Chc.onPc_pc]
      split
      · next e => rw [e]
      · rfl
    exact c.drawFree_keeps.trans (.onChc _ k _ (ended _ _))
  · exact .refl c

theorem Chip.cleanTick_rates (c : Chip) : c.Keeps Chc.rates c.cleanTick := by
  refine Chip.Keeps.trans (.foldl _ _ _ fun d s => ?_) (.foldl _ _ _ fun d k => ?_)
  · split
    · exact d.cleanLines_rates s _
    · exact .refl d
  · exact ((((d.rescueTick_rates k 0).trans (Chip.rescueTick_rates _ k 1)).trans (Chip.calTick_rates _ k 0)).trans
      (Chip.calTick_rates _ k 1)).trans (Chip.runTick_rates _ k)

/-- Where nothing but channel controllers goes on, an event is followed by what those do, and by the end of boot step 9. -/
theorem Chip.Settled.settle_eq {c : Chip} (h : c.Settled) : c.settle = if c.live then c.cleanTick.endStep9If else c := by
  have taken : c.mgtTake = c := by simp [Chip.mgtTake, h.buf, h.sbWait]
  have ends := h.of_keeps c.cleanTick_rates
  unfold Chip.settle
  rw [taken, Chip.settleRegs, Chip.settlePorts_of_clean h.ports, Chip.settleChannels_of_clean h.chans,
    Chip.fieldTick_of_still _ ends.field, Chip.longTick_of_still _ ends.long]

theorem Chip.Settled.settle_rate4 {c : Chip} (h : c.Settled) (k p : Nat) : (c.settle.pc k p).rate4 = (c.pc k p).rate4 := by
  rw [h.settle_eq]
  split
  · rw [(Chip.endStep9If_boots _).pc, c.cleanTick_rates.rate4]
  · rfl

end Sys2Proof.Machine
end

section
/-! SUPPORT. The success of a rescue's training: its pseudo-channel goes on at 4 Gb/s, and what follows. -/

namespace Sys2Proof.Machine

/-! ### Step 2 begins (R239, R390, R419) -/

/-- A pseudo-channel in step 2 of its rescue, which replays (`again`) what it retains. -/
def Pc.resume (again : Bool) (pc : Pc) : Pc :=
  let pc := { pc.quiet with rescueStep := 2, rescueWb := false }
  { pc with replaying := again, script := if again then pc.replayScript else [] }

/-- Step 2 of a rescue begins. -/
def Chip.resumed (c : Chip) (k p : Nat) : Chip :=
  c.onChc k (fun h => (h.onPc p (fun pc => { pc.quiet with rescueStep := 2, rescueWb := false })).resumeReplay p)

theorem Chip.resumed_eq (c : Chip) (k p : Nat) : ∃ again, c.resumed k p = c.onPc k p (·.resume again) := by
  refine ⟨((((c.chc k).onPc p (fun pc => { pc.quiet with rescueStep := 2, rescueWb := false })).pc p).fails != 0 ||
    ((c.chc k).onPc p (fun pc => { pc.quiet with rescueStep := 2, rescueWb := false })).retains p), ?_⟩
  simp only [Chip.resumed, Chc.resumeReplay, Chip.onPc, Chip.onChc, Chc.onPc, Tab.upd, Tab.put_put, Tab.get_put_same]
  rfl

/-- A pseudo-channel in step 2 of its rescue, as what goes on by itself sees it. -/
def Pc.atStep2 (again : Bool) (pc : Pc) : Pc := { pc with rescueStep := 2, replaying := again }

/-- The block in which the training of a rescue has found a working setting, and step 2 has begun. -/
def Chip.rescueTrained (c : Chip) (k p : Nat) (a : TrainAttempt) : Chip :=
  (c.trainAt k p a (!(c.pc k p).ruledOut) true false).1.resumed k p

theorem Chip.rescueTrained_keeps (c : Chip) (k p : Nat) (a : TrainAttempt) :
    ∃ again, (c.onPc k p (fun pc => (pc.rated true).atStep2 again)).Keeps (Chc.seen Pc.bearing) (c.rescueTrained k p a) := by
  obtain ⟨again, e⟩ := (c.trainAt k p a (!(c.pc k p).ruledOut) true false).1.resumed_eq k p
  refine ⟨again, ?_⟩
  rw [Chip.rescueTrained, e]
  have resumed (d : Chip) : (d.onPc k p (·.atStep2 again)).Keeps (Chc.seen Pc.bearing) (d.onPc k p (·.resume again)) :=
    .onPcs (.refl d) k p (by rw [Pc.bearing, Pc.bearing]; rfl)
  exact (c.trainAt_keeps k p a _ true false).bearing.andThen (·.atStep2 again) (fun _ => rfl) (resumed _)

theorem Chip.rescueTrained_frame (c : Chip) (k p : Nat) (a : TrainAttempt) :
    c.rescueTrained k p a = { c with
      chcs := (c.rescueTrained k p a).chcs, flt := (c.rescueTrained k p a).flt, nvm := (c.rescueTrained k p a).nvm } := by
  have frame := (c.trainAt_tunes k p a (!(c.pc k p).ruledOut) true false).frame
  exact (congrArg (fun d : Chip => { d with
    chcs := (c.rescueTrained k p a).chcs, flt := (c.rescueTrained k p a).flt, nvm := (c.rescueTrained k p a).nvm }) frame :)

/-- What a pseudo-channel has under way in its queues. -/
def Pc.queued (pc : Pc) : Pc := { fifo := pc.fifo, rq := pc.rq, wq := pc.wq, bursts := pc.bursts }

theorem Pc.untuned_queued (pc : Pc) : pc.untuned.queued = pc.queued := rfl
theorem Pc.resume_queued (again : Bool) (pc : Pc) : (pc.resume again).queued = pc.queued := rfl
theorem Pc.resume_rescueWb (again : Bool) (pc : Pc) : (pc.resume again).rescueWb = false := rfl
theorem Pc.atRate_queued (rate4 anew : Bool) (pc : Pc) : (pc.atRate rate4 anew).queued = pc.queued := by cases anew <;> rfl

theorem Chc.pcEmpty_congr {h h' : Chc} {p : Nat} (retry : h'.retry = h.retry) (pc : (h'.pc p).queued = (h.pc p).queued) :
    h'.pcEmpty p = h.pcEmpty p := by
  have queues := congrArg (fun x : Pc => x.fifo.isEmpty && x.rq.isEmpty && x.wq.isEmpty && x.bursts.isEmpty) pc
  simp only [Pc.queued] at queues
  simp only [Chc.pcEmpty, queues, retry]

/-- A training takes nothing from the queues of its pseudo-channel. -/
theorem Chip.rescueTrained_pcEmpty (c : Chip) (k p : Nat) (a : TrainAttempt) :
    ((c.rescueTrained k p a).chc k).pcEmpty p = (c.chc k).pcEmpty p := by
  have tunes := c.trainAt_tunes k p a (!(c.pc k p).ruledOut) true false
  obtain ⟨again, e⟩ := (c.trainAt k p a (!(c.pc k p).ruledOut) true false).1.resumed_eq k p
  have begun : ((c.onPc k p (·.atRate true false)).chc k).retry = (c.chc k).retry := by rw [Chip.onPc, Chip.onChc_chc_same]; rfl
  have tuned : ((c.trainAt k p a (!(c.pc k p).ruledOut) true false).1.pc k p).queued = (c.pc k p).queued := by
    rw [← Pc.untuned_queued, tunes.keeps.pc k p, Chip.onPc_pc_same, Pc.untuned_queued, Pc.atRate_queued]
  rw [Chip.rescueTrained, e]
  refine Chc.pcEmpty_congr ?_ ?_
  · rw [Chip.onPc, Chip.onChc_chc_same]
    exact (tunes.retry k).trans begun
  · show ((Chip.onPc _ k p _).pc k p).queued = _
    rw [Chip.onPc_pc_same, Pc.resume_queued, tuned]
    rfl

section
variable {c : Chip} {k p : Nat} {a : TrainAttempt}

theorem Chip.rescueTrained_standsAt (w : RowLoc) : (c.rescueTrained k p a).standsAt k p w = c.standsAt k p w := by
  have addr : (c.rescueTrained k p a).addr = c.addr := (congrArg Chip.addr (c.rescueTrained_frame k p a) :)
  have dies : (c.rescueTrained k p a).dies = c.dies := (congrArg Chip.dies (c.rescueTrained_frame k p a) :)
  simp only [Chip.standsAt, Chip.locate_congr addr dies]

/-- A training leaves what is under way. -/
theorem Chip.rescueTrained_underWay : (c.rescueTrained k p a).underWay k p = c.underWay k p := by
  have slice : (c.rescueTrained k p a).slice k = c.slice k :=
    congrArg (fun t : Tab Slice => t.get ({} : Slice) k)
      (show (c.rescueTrained k p a).slices = c.slices from (congrArg Chip.slices (c.rescueTrained_frame k p a) :))
  have xbr : (c.rescueTrained k p a).xbr = c.xbr := (congrArg Chip.xbr (c.rescueTrained_frame k p a) :)
  have presses : (c.rescueTrained k p a).presses = c.presses := (congrArg Chip.presses (c.rescueTrained_frame k p a) :)
  have stands : (c.rescueTrained k p a).standsAt k p = c.standsAt k p := funext fun w => Chip.rescueTrained_standsAt w
  simp only [Chip.underWay, stands, slice, xbr, presses, Chip.rescueTrained_pcEmpty]

end

/-! ### What goes on with step 2 (R239, R407, R419, R425) -/

theorem Chip.Settled.onPc {c : Chip} (h : c.Settled) (k p : Nat) (f : Pc → Pc) : (c.onPc k p f).Settled := by
  refine ⟨h.buf, h.sbWait, h.long, h.field, h.ports, fun n hn => ?_, h.slices⟩
  have clean := h.chans n hn
  simp only [Chip.channelDirty, Chip.onPc, Chip.onChc_chc] at clean ⊢
  split
  · next e => subst e; exact clean
  · exact clean

theorem Chip.rescueTick_of_not {c : Chip} {k p : Nat} (h : (c.pc k p).state ≠ .rescue ∨ (c.pc k p).rescueStep ≠ 2) : c.rescueTick k p = c := by
  rw [Chip.rescueTick_eq, if_pos]
  rcases h with h | h <;> simp [h]

/-- Lines are written back once the work under way has completed, and not before (R239). -/
theorem Chip.rescueTick_of_underWay {c : Chip} {k p : Nat} (wb : (c.pc k p).rescueWb = false) (h : c.underWay k p = true) : c.rescueTick k p = c := by
  rw [Chip.rescueTick_eq, if_pos (by simp [wb, h])]

theorem Chip.calTick_of_rested {c : Chip} {k p : Nat} (h : (c.pc k p).rested) : c.calTick k p = c := by
  unfold Chip.calTick
  split
  · next x hx => rw [h x hx]; rfl
  · rfl

/-- Where one pseudo-channel waits in step 2 of a rescue for what is under way, and all else is calm, nothing follows an event by itself but
the end of boot step 9. -/
theorem Chip.settle_of_waits {c : Chip} {k p : Nat} (calm : (c.onPc k p Pc.fence).Calm) (settled : c.Settled) (idle : (c.chc k).trnBusy = false)
    (rested : (c.pc k p).rested) (wb : (c.pc k p).rescueWb = false) (under : c.underWay k p = true) : c.Boots c.settle := by
  have others (q : Nat) (hq : q < 2) (ne : q ≠ p) : (c.pc k q).still (c.chc k).test = true := by
    have still := calm.chcs k
    rw [Chip.onPc, Chip.onChc_chc_same] at still
    simp only [Chc.still, Bool.and_eq_true, Chc.onPc_pc] at still
    obtain rfl | rfl : q = 0 ∨ q = 1 := by omega
    · have first := still.1.1
      rw [if_neg ne] at first
      exact first
    · have second := still.1.2
      rw [if_neg ne] at second
      exact second
  have rescue (q : Nat) (hq : q < 2) : c.rescueTick k q = c := by
    by_cases e : q = p
    · rw [e]; exact Chip.rescueTick_of_underWay wb under
    · have still := others q hq e
      simp only [Pc.still, Bool.and_eq_true, Bool.not_eq_true', Bool.and_eq_false_iff, beq_eq_false_iff_ne] at still
      exact Chip.rescueTick_of_not still.1
  have cal (q : Nat) (hq : q < 2) : c.calTick k q = c := by
    by_cases e : q = p
    · rw [e]; exact Chip.calTick_of_rested rested
    · have still := others q hq e
      simp only [Pc.still, Bool.and_eq_true] at still
      unfold Chip.calTick
      split
      · next x hx =>
        rw [hx] at still
        exact if_pos still.2
      · rfl
  have run : c.runTick k = c := by simp [Chip.runTick, idle]
  have clean : c.cleanTick = c := by
    have slices : (c.slices.map (·.1)).foldl (fun c s => if (c.slice s).mode == .draining then c.cleanLines s (fun _ => true) else c) c = c :=
      foldl_id _ _ _ fun s _ => if_neg (by simpa using settled.slices s)
    unfold Chip.cleanTick
    dsimp only
    rw [slices]
    refine foldl_id _ _ _ fun n _ => ?_
    by_cases e : n = k
    · rw [e, rescue 0 (by decide), rescue 1 (by decide), cal 0 (by decide), cal 1 (by decide), run]
    · have still : (c.chc n).still = true := by
        have still := calm.chcs n
        rwa [Chip.onPc, Chip.onChc_chc, if_neg e] at still
      obtain ⟨a0, a1, b0, b1, r⟩ := c.ticks_of_still n still
      rw [a0, a1, b0, b1, r]
  rw [settled.settle_eq, clean]
  split
  · exact c.endStep9If_boots
  · exact .refl c

/-! ### The banks take entries (R206, R419) -/

theorem Chip.bareBanks_congr {c d : Chip} (h : d.addr = c.addr) (k p : Nat) : d.bareBanks k p = c.bareBanks k p := by
  simp only [Chip.bareBanks, Chip.entryOf, h]

theorem Chip.subEntries_congr {c d : Chip} (h : d.addr = c.addr) (banks : List Nat) : d.subEntries banks = c.subEntries banks := by
  cases c; cases d; cases h; rfl

theorem Chip.substitute_entries {c : Chip} {k : Nat} (h : c.sliceDead k = false) (p cause : Nat) (racking : Bool) :
    (c.substitute k p cause racking).2 = c.subEntries (c.bareBanks k p) := by
  simp [Chip.substitute, h]

/-- A pseudo-channel in step 3 of its rescue, as what goes on by itself sees it. -/
def Pc.atStep3 (pc : Pc) : Pc := { pc with rescueStep := 3 }

section
variable {c : Chip} {k p : Nat} (alive : c.sliceDead k = false)
include alive

theorem Chip.rescueEntries_racks (h : c.subEntries (c.bareBanks k p) ≠ []) :
    (c.onPc k p Pc.atStep3).Keeps (Chc.seen Pc.bearing) (c.rescueEntries k p) := by
  have none : ((c.substitute k p 2 true).2.isEmpty && !(c.bareBanks k p).isEmpty) = false := by
    rw [Chip.substitute_entries alive]; simp [h]
  rw [Chip.rescueEntries, none]
  have taken : c.Keeps (Chc.seen Pc.bearing) (c.substitute k p 2 true).1 := c.substitute_keeps k p 2 true
  exact (taken.onPcs (f := Pc.atStep3) (g := (·.startsRack c.keep)) k p (congrArg Pc.atStep3 (taken.pc k p) :)).trans
    (Chip.queueRescue_keeps _ k p _)

theorem Chip.rescueEntries_stays (h : c.subEntries (c.bareBanks k p) = []) (bare : c.bareBanks k p ≠ []) :
    (c.onPc k p Pc.staysSlow).Keeps (Chc.seen Pc.bearing) (c.rescueEntries k p) := by
  have need : ((c.substitute k p 2 true).2.isEmpty && !(c.bareBanks k p).isEmpty) = true := by
    rw [Chip.substitute_entries alive]; simp [h, bare]
  rw [Chip.rescueEntries, need]
  have taken : c.Keeps (Chc.seen Pc.bearing) (c.substitute k p 2 true).1 := c.substitute_keeps k p 2 true
  exact (taken.onPcs_same k p Pc.staysSlow fun _ => rfl).trans (Chip.rateFallback_keeps _ k p)

end

/-! ### After the training (R239, R415, R419) -/

section
variable {c : Chip} {k p : Nat} (calm : c.Calm) (idle : (c.chc k).trnBusy = false) (hp : p < 2) (rescue : (c.pc k p).state = .rescue)
  (a : TrainAttempt)
include calm

theorem Chip.Calm.rescueTrained_settled : (c.rescueTrained k p a).Settled := by
  obtain ⟨again, keeps⟩ := c.rescueTrained_keeps k p a
  exact (calm.settled.onPc k p _).of_keeps keeps.rates

include rescue

theorem Chip.Calm.rescueTrained_pc :
    let pc := (c.rescueTrained k p a).pc k p
    pc.state = .rescue ∧ pc.rescueStep = 2 ∧ pc.rate4 = true ∧ pc.rescueWb = false ∧ (p < 2 → pc.rested) := by
  obtain ⟨again, keeps⟩ := c.rescueTrained_keeps k p a
  have cal : ((c.rescueTrained k p a).pc k p).cal = (c.pc k p).cal := (congrArg Pc.cal keeps.lands :)
  have state : ((c.rescueTrained k p a).pc k p).state = (c.pc k p).state := (congrArg Pc.state keeps.lands :)
  refine ⟨state.trans rescue, (congrArg Pc.rescueStep keeps.lands :),
    (congrArg Pc.rate4 keeps.lands :), ?_, fun hp x hx => calm.pc_rested k hp (by rw [rescue]; decide) x (cal.symm.trans hx)⟩
  obtain ⟨again, e⟩ := (c.trainAt k p a (!(c.pc k p).ruledOut) true false).1.resumed_eq k p
  rw [Chip.rescueTrained, e, Chip.onPc_pc_same, Pc.resume_rescueWb]

/-- A rescue whose training has succeeded goes on at 4 Gb/s, however far its step 2 comes. -/
theorem Chip.Calm.rescueTrained_rate4 : (((c.rescueTrained k p a).rescueTick k p).settle.pc k p).rate4 = true := by
  obtain ⟨-, -, rate4, -, -⟩ := calm.rescueTrained_pc rescue a
  have ticked := (c.rescueTrained k p a).rescueTick_rates k p
  rw [((calm.rescueTrained_settled a).of_keeps ticked).settle_rate4, ticked.rate4, rate4]

include idle hp

/-- It waits in step 2 while work is under way (R239). -/
theorem Chip.Calm.rescueTrained_waits (under : c.underWay k p = true) :
    let pc := ((c.rescueTrained k p a).rescueTick k p).settle.pc k p
    pc.state = .rescue ∧ pc.rescueStep = 2 := by
  obtain ⟨again, keeps⟩ := c.rescueTrained_keeps k p a
  obtain ⟨state, step, -, wb, rested⟩ := calm.rescueTrained_pc rescue a
  have under' : (c.rescueTrained k p a).underWay k p = true := Chip.rescueTrained_underWay.trans under
  have busy : ((c.rescueTrained k p a).chc k).trnBusy = ((c.onPc k p (fun pc => (pc.rated true).atStep2 again)).chc k).trnBusy :=
    (congrArg (fun x : Chc × (Nat → Pc) => x.1.trnBusy) (keeps.chc k) :)
  have idle' : ((c.rescueTrained k p a).chc k).trnBusy = false := by
    rw [busy, Chip.onPc, Chip.onChc_chc_same]; exact idle
  have fenced : ((c.rescueTrained k p a).onPc k p Pc.fence).Calm :=
    (calm.onPc_of_rested (F := fun pc => ((pc.rated true).atStep2 again).fence) idle (fun x hx => by cases hx)
      (.inl (show PcState.fenced ≠ .rescue by decide))).of_keeps (keeps.andThen Pc.fence (fun _ => rfl) (.refl _))
  dsimp only
  rw [Chip.rescueTick_of_underWay wb under',
    (Chip.settle_of_waits fenced (calm.rescueTrained_settled a) idle' (rested hp) wb under').pc]
  exact ⟨state, step⟩

omit calm idle hp rescue in
/-- With nothing under way and no line of it left, its banks take entries at once, or none is free for them. -/
theorem Chip.rescueTrained_tick (step : ((c.rescueTrained k p a).pc k p).rescueStep = 2) (state : ((c.rescueTrained k p a).pc k p).state = .rescue)
    (under : c.underWay k p = false) (lines : ∀ e ∈ (c.slice k).lines, c.standsAt k p (e.2.rowLoc k) = false) :
    (c.rescueTrained k p a).rescueTick k p = ((c.rescueTrained k p a).onPc k p Pc.writesBack).rescueEntries k p := by
  have slices : (c.rescueTrained k p a).slices = c.slices := (congrArg Chip.slices (c.rescueTrained_frame k p a) :)
  have slice : (c.rescueTrained k p a).slice k = c.slice k := congrArg (fun t : Tab Slice => t.get ({} : Slice) k) slices
  have gone : ∀ e ∈ ((c.rescueTrained k p a).slice k).lines, (c.rescueTrained k p a).standsAt k p (e.2.rowLoc k) = false := fun e he => by
    rw [Chip.rescueTrained_standsAt]; exact lines e (slice ▸ he)
  have swept : (c.rescueTrained k p a).rescueSweep k p = (c.rescueTrained k p a).onPc k p Pc.writesBack := Chip.cleanLines_of_none gone
  rw [Chip.rescueTick_eq, if_neg (by simp [state, step, Chip.rescueTrained_underWay, under]), swept, if_neg]
  rw [List.any_eq_true]
  rintro ⟨e, he, stands⟩
  exact absurd ((gone e he).symm.trans stands) (by decide)

/-- With nothing under way and no line of it left, its banks are racked, where entries are free for them; else it stays in service at
4 Gb/s. -/
theorem Chip.Calm.rescueTrained_entries (under : c.underWay k p = false)
    (lines : ∀ e ∈ (c.slice k).lines, c.standsAt k p (e.2.rowLoc k) = false) (alive : c.sliceDead k = false) :
    let pc := ((c.rescueTrained k p a).rescueTick k p).settle.pc k p
    (c.subEntries (c.bareBanks k p) ≠ [] → pc.state = .rescue ∧ pc.rescueStep = 3) ∧
    (c.subEntries (c.bareBanks k p) = [] → c.bareBanks k p ≠ [] → pc.state = .normal) := by
  obtain ⟨again, keeps⟩ := c.rescueTrained_keeps k p a
  obtain ⟨state, step, -, -, -⟩ := calm.rescueTrained_pc rescue a
  have addr : ((c.rescueTrained k p a).onPc k p Pc.writesBack).addr = c.addr := (congrArg Chip.addr (c.rescueTrained_frame k p a) :)
  have boot : ((c.rescueTrained k p a).onPc k p Pc.writesBack).boot = c.boot := (congrArg Chip.boot (c.rescueTrained_frame k p a) :)
  have alive' : ((c.rescueTrained k p a).onPc k p Pc.writesBack).sliceDead k = false := by
    simp only [Chip.sliceDead, boot] at alive ⊢; exact alive
  have swept := keeps.trans (.onPc _ k p Pc.writesBack rfl)
  have rested := calm.pc_rested k hp (by rw [rescue]; decide)
  dsimp only
  rw [Chip.rescueTrained_tick a step state under lines]
  rw [← Chip.subEntries_congr addr, ← Chip.bareBanks_congr addr]
  refine ⟨fun some => ?_, fun none bare => ?_⟩
  · have racks := swept.andThen Pc.atStep3 (fun _ => rfl) (Chip.rescueEntries_racks alive' some)
    have ends := (calm.onPc_of_rested idle rested (.inr (show 3 ≠ 2 by decide))).of_keeps racks
    rw [ends.settle_boots.pc]
    have state : ((((c.rescueTrained k p a).onPc k p Pc.writesBack).rescueEntries k p).pc k p).state = (c.pc k p).state :=
      (congrArg Pc.state racks.lands :)
    exact ⟨state.trans rescue, (congrArg Pc.rescueStep racks.lands :)⟩
  · have stays := swept.andThen Pc.staysSlow (fun _ => rfl) (Chip.rescueEntries_stays alive' none bare)
    have ends := (calm.onPc_of_rested idle rested (.inl (show PcState.normal ≠ .rescue by decide))).of_keeps stays
    rw [ends.settle_boots.pc]
    exact (congrArg Pc.state stays.lands :)

end

end Sys2Proof.Machine
end

section
/-! How a pseudo-channel comes into and out of service (O38). -/

namespace Sys2Proof.Machine

/-- An attempt that finds a working setting on every lane. -/
def AttemptFinds (a : TrainAttempt) : Prop := a.cmdOk = true ∧ ∀ l, l < 38 → a.sweepFails l = false ∧ a.confirmFails l = false

section
variable {s : State} {k : ChcIx} {p : PcIx} (calm : s.chip.Calm) (idle : (s.chip.chc k.val).trnBusy = false)
include calm idle

/-- PC_TRAINING_END in boot step 8 (R408, R410, R415). -/
theorem exec_pcTrainingEnd_boot (training : (s.chip.pc k.val p.val).state = .training) (h8 : s.chip.inStep 8 = true) (at8 at4 : TrainAttempt) :
    ∃ t, exec (.pcTrainingEnd k p at8 at4) s = .next t ∧ t.mem = s.mem ∧
      ((t.chip.pc k.val p.val).state = .normal ∨ (t.chip.pc k.val p.val).state = .fenced) ∧
      (AttemptFinds at8 → (s.chip.pc k.val p.val).lost8 = false → (t.chip.pc k.val p.val).state = .normal ∧
        (t.chip.pc k.val p.val).rate4 = false ∧ (t.chip.pc k.val p.val).timerOn = true) ∧
      (at8.cmdOk = false → AttemptFinds at4 → (s.chip.pc k.val p.val).lost4 = false → (t.chip.pc k.val p.val).state = .normal ∧
        (t.chip.pc k.val p.val).rate4 = true ∧ (t.chip.pc k.val p.val).timerOn = true ∧ (t.chip.flt.evs.get {} (fltChc k.val)).line = true) ∧
      (at8.cmdOk = false → at4.cmdOk = false → (t.chip.pc k.val p.val).state = .fenced ∧ t.chip.boot.pcFenced = s.chip.boot.pcFenced + 1) ∧
      ((∃ k' p', k' < 72 ∧ p' < 2 ∧ ¬ (k' = k.val ∧ p' = p.val) ∧ (s.chip.pc k' p').state = .training) → t.chip.boot.step = 8) := by
  have ends : (s.chip.bootTrainEnd k.val p.val at8 at4).Calm := calm.bootTrainEnd idle p.isLt training at8 at4
  have boots := Chip.bootTrainEnd_boots s.book ends
  have chip : (s.onChip (fun c => (c.pcTrainingEnd s.book k.val p.val at8 at4).settle)).chip =
      ((s.chip.bootTrainEnd k.val p.val at8 at4).endStep8If s.book).settle := by
    rw [State.onChip_chip, Chip.pcTrainingEnd, if_neg (by simp [training]), if_pos h8]
  refine ⟨_, rfl, rfl, ?_⟩
  rw [chip, boots.pc]
  refine ⟨?_, fun ⟨ok, found⟩ able => ?_, fun lost ⟨ok, found⟩ able => ?_, fun lost lost4 => ?_, fun ⟨k', p', hk, hp, other, trains⟩ => ?_⟩
  · obtain ⟨c₀, F, base, keeps, out⟩ := s.chip.bootTrainEnd_ends k.val p.val at8 at4
    have state : ((s.chip.bootTrainEnd k.val p.val at8 at4).pc k.val p.val).state = (F (c₀.pc k.val p.val)).state := (congrArg Pc.state keeps.lands :)
    rw [state]
    exact (out _).1
  · have found8 : (s.chip.bootAt8 k.val p.val at8 at4).2 = true := by
      rw [Chip.bootAt8, able]; exact Chip.trainAt_of_finds _ _ _ ok found _ _
    have lands := (Chip.bootTrainEnd_at8 (.inl ok) found8).lands
    exact ⟨(congrArg Pc.state lands :), (congrArg Pc.rate4 lands :), (congrArg Pc.timerOn lands :)⟩
  · have none8 : (s.chip.bootAt8 k.val p.val at8 at4).2 = false := Chip.trainAt_of_fails _ _ _ (.inr lost) _ _
    have found4 : (s.chip.bootAt4 k.val p.val at8 at4).2 = true := by
      rw [Chip.bootAt4, Chip.slowAttempt, able]; exact Chip.trainAt_of_finds _ _ _ ok found _ _
    obtain ⟨keeps, line⟩ := Chip.bootTrainEnd_at4 (.inr ok) none8 found4
    exact ⟨(congrArg Pc.state keeps.lands :), (congrArg Pc.rate4 keeps.lands :), (congrArg Pc.timerOn keeps.lands :), boots.line _ line⟩
  · have none8 : (s.chip.bootAt8 k.val p.val at8 at4).2 = false := Chip.trainAt_of_fails _ _ _ (.inr lost) _ _
    have none4 : (s.chip.bootAt4 k.val p.val at8 at4).2 = false := Chip.trainAt_of_fails _ _ _ (.inr lost4) _ _
    have keeps := Chip.bootTrainEnd_none none8 none4
    exact ⟨(congrArg Pc.state keeps.lands :), boots.fenced.trans (congrArg Boot.pcFenced keeps.boot :)⟩
  · exact Chip.bootTrainEnd_step s.book ends h8 hk hp other trains

/-- PC_TRAINING_END under TRAIN (R415, R416, R419). -/
theorem exec_pcTrainingEnd_train (hl : s.chip.live = true) (training : (s.chip.pc k.val p.val).state = .training) (h8 : s.chip.inStep 8 = false)
    (data : k.val < 64) (at8 at4 : TrainAttempt) :
    ∃ t, exec (.pcTrainingEnd k p at8 at4) s = .next t ∧ t.mem = s.mem ∧
      (AttemptFinds at8 → (s.chip.pc k.val p.val).lost8 = false → (t.chip.pc k.val p.val).state = .normal ∧
        (t.chip.pc k.val p.val).rate4 = false) ∧
      (at8.cmdOk = false ∨ (s.chip.pc k.val p.val).lost8 = true → (t.chip.pc k.val p.val).state = .rescue ∧
        (t.chip.pc k.val p.val).rescueStep = 1 ∧ (t.chip.pc k.val p.val).rate4 = true ∧ (t.chip.pc k.val p.val).laneMap = 0) := by
  have chip : (s.onChip (fun c => (c.pcTrainingEnd s.book k.val p.val at8 at4).settle)).chip = (s.chip.cmdTrainEnd k.val p.val at8 at4).settle := by
    rw [State.onChip_chip, Chip.pcTrainingEnd, if_neg (by simp [training]), if_neg (by simp [h8]), if_pos hl]
  refine ⟨_, rfl, rfl, ?_⟩
  rw [chip]
  refine ⟨fun ⟨ok, found⟩ able => ?_, fun fails => ?_⟩
  · exact calm.cmdTrainEnd_served idle data p.isLt training at4 (by
      rw [Chip.cmdAt8, able]; exact Chip.trainAt_of_finds _ _ _ ok found _ _)
  · exact calm.cmdTrainEnd_rescue idle data p.isLt training at4 (Chip.trainAt_of_fails _ _ _ (by
      rcases fails with h | h
      · exact .inr h
      · exact .inl (by simp [h])) _ _)

/-- RESCUE_TRAIN_END of a training that fails (R414, R419). -/
theorem exec_rescueTrainEnd_fails (hl : s.chip.live = true) (rescue : (s.chip.pc k.val p.val).state = .rescue)
    (step : (s.chip.pc k.val p.val).rescueStep = 1) {a : TrainAttempt} (fails : a.cmdOk = false ∨ (s.chip.pc k.val p.val).ruledOut = true) :
    ∃ t, exec (.rescueTrainEnd k p a) s = .next t ∧ t.mem = s.mem ∧ (t.chip.pc k.val p.val).state = .fenced ∧
      (t.chip.pc k.val p.val).laneMap = (s.chip.pc k.val p.val).laneMap ∧ (t.chip.flt.evs.get {} (fltChc k.val)).line = true := by
  refine ⟨_, rfl, rfl, calm.rescueTrainEnd_fences idle hl rescue step (Chip.trainAt_of_fails _ _ _ ?_ _ _)⟩
  rcases fails with h | h
  · exact .inr h
  · exact .inl (by simp [h])

/-- RESCUE_TRAIN_END of a training that succeeds (R239, R415, R419). -/
theorem exec_rescueTrainEnd_succeeds (hl : s.chip.live = true) (rescue : (s.chip.pc k.val p.val).state = .rescue)
    (step : (s.chip.pc k.val p.val).rescueStep = 1) {a : TrainAttempt} (found : AttemptFinds a) (able : (s.chip.pc k.val p.val).ruledOut = false) :
    ∃ t, exec (.rescueTrainEnd k p a) s = .next t ∧ t.mem = s.mem ∧ (t.chip.pc k.val p.val).rate4 = true ∧
      (s.chip.underWay k.val p.val = true → (t.chip.pc k.val p.val).state = .rescue ∧ (t.chip.pc k.val p.val).rescueStep = 2) ∧
      (s.chip.underWay k.val p.val = false → (∀ e ∈ (s.chip.slice k.val).lines, s.chip.standsAt k.val p.val (e.2.rowLoc k.val) = false) →
        s.chip.sliceDead k.val = false →
        (s.chip.subEntries (s.chip.bareBanks k.val p.val) ≠ [] →
          (t.chip.pc k.val p.val).state = .rescue ∧ (t.chip.pc k.val p.val).rescueStep = 3) ∧
        (s.chip.subEntries (s.chip.bareBanks k.val p.val) = [] → s.chip.bareBanks k.val p.val ≠ [] →
          (t.chip.pc k.val p.val).state = .normal)) := by
  obtain ⟨ok, found⟩ := found
  have trained : (s.chip.trainAt k.val p.val a (!(s.chip.pc k.val p.val).ruledOut) true false).2 = true := by
    rw [able]; exact Chip.trainAt_of_finds _ _ _ ok found _ _
  have chip : (s.onChip (fun c => (c.rescueTrainEnd k.val p.val a).settle)).chip =
      ((s.chip.rescueTrained k.val p.val a).rescueTick k.val p.val).settle := by
    rw [State.onChip_chip, Chip.rescueTrainEnd_eq hl rescue step, if_pos trained]
    rfl
  refine ⟨_, rfl, rfl, ?_⟩
  rw [chip]
  exact ⟨calm.rescueTrained_rate4 rescue a, calm.rescueTrained_waits idle p.isLt rescue a, calm.rescueTrained_entries idle p.isLt rescue a⟩

/-- RESCUE_RACK_DONE (R419 step 4). -/
theorem exec_rescueRackDone (hl : s.chip.live = true) (done : s.chip.rescueOver k.val p.val = true) :
    ∃ t, exec (.rescueRackDone k p) s = .next t ∧ (t.chip.pc k.val p.val).state = .fenced ∧
      (t.chip.flt.evs.get {} (fltChc k.val)).line = true ∧ t.mem = s.mem := by
  obtain ⟨keeps, line⟩ := Chip.rescueRackDone_keeps hl done
  have boots := ((calm.fence idle).of_keeps (keeps.weaken Pc.bearing fun _ => rfl)).settle_boots
  refine ⟨_, rfl, ?_, boots.line _ line, rfl⟩
  rw [State.onChip_chip, boots.pc]
  exact (congrArg Pc.state keeps.lands :)

end

/-- PC_FENCE (R421). -/
theorem exec_pcFence {s : State} {k : ChcIx} {p : PcIx} (hl : s.chip.live = true) (calm : (s.chip.onPc k.val p.val Pc.fence).Calm)
    (due : (s.chip.pc k.val p.val).fenceDue = true) :
    ∃ t, exec (.pcFence k p) s = .next t ∧ (t.chip.pc k.val p.val).state = .fenced ∧
      (t.chip.flt.evs.get {} (fltChc k.val)).line = true ∧ t.mem = s.mem := by
  have unfenced : s.chip.fenced k.val p.val = false := by
    simp only [Pc.fenceDue, Bool.and_eq_true, beq_iff_eq] at due
    rw [Chip.fenced, due.1.1]
    rfl
  have chip : (s.onChip (fun c => (c.pcFence k.val p.val).settle)).chip = (s.chip.fenceStep5 k.val p.val).settle := by
    rw [State.onChip_chip, Chip.pcFence, if_pos (by simp [hl, due])]
  obtain ⟨fenced, -, line⟩ := Chip.fenceStep5_settles unfenced calm
  refine ⟨_, rfl, ?_, ?_, rfl⟩ <;> rw [chip]
  · exact fenced
  · exact line

/-- Settles O38: of each event, the change that it comes to on its one pseudo-channel, as what goes on by itself sees it (`Chip.Keeps`); the
block is calm after it, or waits in step 2 of the rescue for what was under way. -/
theorem rescueAndFence : Obligations.RescueAndFence := by
  unfold Obligations.RescueAndFence
  refine fun s k p hl idle => ⟨fun at8 at4 calm training => ⟨fun h8 => ?_, fun h8 data => ?_⟩,
    fun a calm rescue step => ⟨fun fails => ?_, fun found able _ => ?_⟩, fun calm done => ?_, fun calm due => ?_⟩
  · exact exec_pcTrainingEnd_boot calm idle training h8 at8 at4
  · exact exec_pcTrainingEnd_train calm idle hl training h8 data at8 at4
  · exact exec_rescueTrainEnd_fails calm idle hl rescue step fails
  · exact exec_rescueTrainEnd_succeeds calm idle hl rescue step found able
  · exact exec_rescueRackDone calm idle hl done
  · exact exec_pcFence hl calm due

end Sys2Proof.Machine
end
